-- ==== Sys2Proof/Word.lean ====
section
/-!
DEFINITION. The word types of the Barvel 6E: bytes of suite memory and of the serial lines, 16-bit fields,
and the 32-bit field count F.
-/

namespace Sys2Proof

/-- One byte of suite memory, of a link frame or of a field frame. -/
abbrev Byte := BitVec 8

/-- A two-byte field of suite memory or of the register window. -/
abbrev Half := BitVec 16

/-- The field count F of the suite timeline and every field count taken from it (R8, R10): 32 bits, wrapping. -/
abbrev FieldCount := BitVec 32

end Sys2Proof
end

