-- ==== Sys2Proof/Syntax.lean ====
section
/-!
DEFINITION. The commands of the block: one constructor of `Instr` for each row of spec/opcode_table.json, with the
operands its rule gives it, and the small types those operands use.
-/

namespace Sys2Proof

/-- A deck, and with it deck port n, LTC input n and command ring n (section 0.4, deck numbering). -/
inductive Deck where
  | d0 | d1 | d2 | d3 | d4 | d5
  deriving DecidableEq, Repr

/-- One of the seven ports of Table 2-1: a deck port, or the effects port EP. -/
inductive PortId where
  | deck (n : Deck)
  | ep
  deriving DecidableEq, Repr

/-- A GPI input or output line, 0 to 7 (10.2, 10.3). -/
inductive Line where
  | l0 | l1 | l2 | l3 | l4 | l5 | l6 | l7
  deriving DecidableEq, Repr

/-- The identity of a field (R7, R10). -/
inductive FieldId where
  | first | second
  deriving DecidableEq, Repr

/-- The entries of a punch plan (R134), named as the result fields name them (R114). -/
inductive PunchId where
  | video | audio | out
  deriving DecidableEq, Repr

/-- The registers of the window to which a write can be without effect (R181). -/
inductive Register where
  | attn | cause | command | status
  deriving DecidableEq, Repr

/-- The commands, one for each row of the opcode table, in the table's order. -/
inductive Instr where
  /-- POWER_ON (R194). -/
  | powerOn
  /-- RESET_LINE (R194): the reset line is asserted, and held until RESET_LINE_RELEASE. -/
  | resetLine
  /-- RESTART (R194): a write of 0xC3 to COMMAND. -/
  | restart
  /-- ALL_STOP (R172): a write of 0x3C to COMMAND. -/
  | allStop
  /-- CLEAR_DEVICE_FAULT (R186): a write of 0x5A to COMMAND. -/
  | clearDeviceFault
  /-- CAUSE_READ (R185). -/
  | causeRead
  /-- FLOOR_WRITE (R184) of `value`. -/
  | floorWrite (value : Byte)
  /-- TOPMEM_WRITE (R193) of `value`. -/
  | topmemWrite (value : Half)
  /-- REGISTER_WRITE_NO_EFFECT (R181): a write of `value` to `reg` that the register window disregards. -/
  | registerWriteNoEffect (reg : Register) (value : Half)
  /-- ATTN_SCAN (R59): a write of the group of deck `n`. -/
  | attnScan (n : Deck)
  /-- ATTN_TAKE (R115): a write of 6 to ATTN. -/
  | attnTake
  /-- ATTN_START (R132): a write of 7 to ATTN. -/
  | attnStart
  /-- ATTN_ABORT (R143): a write of 8 to ATTN. -/
  | attnAbort
  /-- ATTN_MARK_LOAD (R163): a write of 9 to ATTN. -/
  | attnMarkLoad
  /-- ATTN_CONFIG_LOAD (R188): a write of 10 to ATTN. -/
  | attnConfigLoad
  /-- ATTN_LOG_REREAD (R176): a write of 11 to ATTN. -/
  | attnLogReread
  /-- ATTN_PROBE (R169): a write of 12 to ATTN. -/
  | attnProbe
  /-- FIELD_TIMER_EXPIRY (R11): the field timer reaches its limit. -/
  | fieldTimerExpiry
  /-- REFERENCE_PULSE (R12): a pulse of identity `id` arrives at the reference input. -/
  | referencePulse (id : FieldId)
  /-- REFERENCE_LOCK (R14): the good-pulse count has reached 8. -/
  | referenceLock
  /-- REFERENCE_LOST (R13): the miss count has reached 16. -/
  | referenceLost
  /-- TX_BYTE_PLACE (R23): the owner of port `p` places the next byte of its frame. -/
  | txBytePlace (p : PortId)
  /-- CHARACTER_END (R24): the last stop bit of the shift byte of port `p` ends. -/
  | characterEnd (p : PortId)
  /-- RECEIVER_SETTLED (R26): deck `n`'s line has rested at mark for one receive character time. -/
  | receiverSettled (n : Deck)
  /-- BYTE_ARRIVAL (R27, R29): the stop bit of the character being received on deck `n`'s port is sampled. Bit i of
  `samples` is the level sampled in the bit period i + 1 after the start bit's, `parity` that of the parity bit, which
  is not sampled when parity is NONE, and `stop` that of the stop bit; mark is 1. -/
  | byteArrival (n : Deck) (samples : BitVec 8) (parity stop : Bool)
  /-- BYTE_TAKE (R37): the link assembler of deck `n` takes the held byte. -/
  | byteTake (n : Deck)
  /-- REPLY_TAKEN (R43). -/
  | replyTaken (n : Deck)
  /-- REPLY_REFUSED (R43). -/
  | replyRefused (n : Deck)
  /-- REPLY_HOLD_ON (R43). -/
  | replyHoldOn (n : Deck)
  /-- REPLY_STATE (R45). -/
  | replyState (n : Deck)
  /-- REPLY_POSITION (R78). -/
  | replyPosition (n : Deck)
  /-- GARBLED_FRAME (R44). -/
  | garbledFrame (n : Deck)
  /-- REPLY_TIMER_EXPIRY (R44). -/
  | replyTimerExpiry (n : Deck)
  /-- LINK_ENTERS_DOWN (R47). -/
  | linkEntersDown (n : Deck)
  /-- SEEK_TIMER_EXPIRY (R51). -/
  | seekTimerExpiry (n : Deck)
  /-- POLL_TIMER_EXPIRY (R52). -/
  | pollTimerExpiry (n : Deck)
  /-- WORD_ARRIVAL (R76): LTC input `n` completes 80 bits; bit i of `bits` is the i-th to arrive (12.12). -/
  | wordArrival (n : Deck) (bits : BitVec 80)
  /-- LTC_GAP (R84). -/
  | ltcGap (n : Deck)
  /-- FLYWHEEL_LIMIT (R85). -/
  | flywheelLimit (n : Deck)
  /-- CHASE_LOCK (R104). -/
  | chaseLock (n : Deck)
  /-- CHASE_UNLOCK (R105). -/
  | chaseUnlock (n : Deck)
  /-- ROLL (R132). -/
  | roll
  /-- SYNC_CHECK (R133). -/
  | syncCheck
  /-- TRIGGER (R142) of entry `i`. -/
  | trigger (i : Fin 4)
  /-- PUNCH_WINDOW_OPEN (R135) of entry `p`. -/
  | punchWindowOpen (p : PunchId)
  /-- PUNCH_IN_QUEUED (R136) of entry `p`. -/
  | punchInQueued (p : PunchId)
  /-- PUNCH_ABANDONED (R136) of entry `p`. -/
  | punchAbandoned (p : PunchId)
  /-- REHEARSE_RECORD_IN (R138). -/
  | rehearseRecordIn
  /-- PUNCH_OUT_QUEUED (R139). -/
  | punchOutQueued
  /-- RECORD_OUT (R140). -/
  | recordOut
  /-- END_OF_POSTROLL (R140). -/
  | endOfPostroll
  /-- COMPLETION_RETRY (R141). -/
  | completionRetry
  /-- GPI_INPUT_CHANGE (R170): input `line` comes to stand at `high`. -/
  | gpiInputChange (line : Line) (high : Bool)
  /-- PULSE_END (R173) on output `line`. -/
  | pulseEnd (line : Line)
  /-- LINE_FALL_TO_SPACE (R27) on deck `n`'s receive line. -/
  | lineFallToSpace (n : Deck)
  /-- FALSE_START (R27) on deck `n`'s receive line. -/
  | falseStart (n : Deck)
  /-- RESET_LINE_RELEASE (R194). -/
  | resetLineRelease
  deriving DecidableEq, Repr

end Sys2Proof
end

