-- ==== Sys2Proof/Decode.lean ====
section
/-!
DEFINITION. The host's question to a decoder. The rows of spec/opcode_table.json give no bits: no command of this
block is spelled by a word, so no word spells a command.
-/

namespace Sys2Proof

/-- The command a word spells by the table's bits: none, since no row of the table gives bits. -/
def decodeTableWord (_nbits _w : Nat) : Option Instr := none

end Sys2Proof
end

