-- ==== Sys2Proof/Config.lean ====
section
/-!
DEFINITION. What the part fixes once for all: the silicon revision, the size of suite memory and what a byte of
it that nothing has written reads as. The manual leaves no result open, so there is no free value here.
-/

namespace Sys2Proof.Config

/-- The silicon revision reported in STATUS and in the start-up record (R181: it reads 1). -/
def revision : Nat := 1

/-- Suite memory is a 64 KiB byte-addressed RAM (section 0.1). -/
def memoryBytes : Nat := 65536

/-- What a byte of suite memory that nothing has written reads as. DESIGN CHOICE, unsafe (log entry 1): the manual
does not say what the RAM holds after power-on. -/
def unwrittenByte : Byte := 0

end Sys2Proof.Config
end

