-- ==== Sys2Proof/Machine/State.lean ====
section
/-!
DEFINITION. The state of the part, block by block, and its value after power-on. Every item of the manual's state
tables is a field here, with the rule that names it; the fields that are the model's own say so. Each block has its
value after reset as `<Block>.reset`, and `State.reset` is their collection (R19, R35, R56, R75, R92, R109, R124,
R147, R162, R180, R194).
-/

namespace Sys2Proof.Machine

/-! ## Six decks, eight lines -/

/-- One value for each deck. -/
structure Six (α : Type) where
  d0 : α
  d1 : α
  d2 : α
  d3 : α
  d4 : α
  d5 : α
  deriving DecidableEq, Repr

/-- The value of deck `n`. -/
def Six.get {α : Type} (v : Six α) : Deck → α
  | .d0 => v.d0
  | .d1 => v.d1
  | .d2 => v.d2
  | .d3 => v.d3
  | .d4 => v.d4
  | .d5 => v.d5

/-- `v` with the value of deck `n` replaced. -/
def Six.set {α : Type} (v : Six α) (n : Deck) (x : α) : Six α :=
  match n with
  | .d0 => { v with d0 := x }
  | .d1 => { v with d1 := x }
  | .d2 => { v with d2 := x }
  | .d3 => { v with d3 := x }
  | .d4 => { v with d4 := x }
  | .d5 => { v with d5 := x }

/-- The same value for every deck. -/
def Six.all {α : Type} (x : α) : Six α := ⟨x, x, x, x, x, x⟩

/-- The value of each deck computed from its number. -/
def Six.of {α : Type} (f : Deck → α) : Six α := ⟨f .d0, f .d1, f .d2, f .d3, f .d4, f .d5⟩

/-- One value for each GPI line. -/
structure Eight (α : Type) where
  l0 : α
  l1 : α
  l2 : α
  l3 : α
  l4 : α
  l5 : α
  l6 : α
  l7 : α
  deriving DecidableEq, Repr

/-- The value of line `l`. -/
def Eight.get {α : Type} (v : Eight α) : Line → α
  | .l0 => v.l0
  | .l1 => v.l1
  | .l2 => v.l2
  | .l3 => v.l3
  | .l4 => v.l4
  | .l5 => v.l5
  | .l6 => v.l6
  | .l7 => v.l7

/-- `v` with the value of line `l` replaced. -/
def Eight.set {α : Type} (v : Eight α) (l : Line) (x : α) : Eight α :=
  match l with
  | .l0 => { v with l0 := x }
  | .l1 => { v with l1 := x }
  | .l2 => { v with l2 := x }
  | .l3 => { v with l3 := x }
  | .l4 => { v with l4 := x }
  | .l5 => { v with l5 := x }
  | .l6 => { v with l6 := x }
  | .l7 => { v with l7 := x }

/-- The same value for every line. -/
def Eight.all {α : Type} (x : α) : Eight α := ⟨x, x, x, x, x, x, x, x⟩

/-- The value of each line computed from its number. -/
def Eight.of {α : Type} (f : Line → α) : Eight α :=
  ⟨f .l0, f .l1, f .l2, f .l3, f .l4, f .l5, f .l6, f .l7⟩

/-! ## Timecode (Chapter 1) -/

/-- The television standard in force (R1). -/
inductive Standard where
  | s525 | s625
  deriving DecidableEq, Repr

/-- A timecode kind: the standard with the drop-frame choice (Table 1-1). -/
inductive Kind where
  | nd525 | df525 | k625
  deriving DecidableEq, Repr

/-- The four fields of a timecode address (1.2). -/
structure Addr where
  hh : Nat
  mm : Nat
  ss : Nat
  ff : Nat
  deriving DecidableEq, Repr

/-! ## The timeline unit (Table 1-4) -/

/-- The reference state (Table 1-5). -/
inductive RefState where
  | absent | acquiring | locked | holdover | lost
  deriving DecidableEq, Repr

/-- The reference mode (Table 1-4). -/
inductive RefMode where
  | external | internal
  deriving DecidableEq, Repr

/-- The limit of the field timer (R11): 1 nominal field, or 1.125. -/
inductive TimerLimit where
  | nominal | nominalAndEighth
  deriving DecidableEq, Repr

/-- The running field timer: its limit and the standard whose nominal period it measures (R11). -/
structure FieldTimer where
  limit : TimerLimit
  standard : Standard
  deriving DecidableEq, Repr

/-- The timeline unit (Table 1-4). -/
structure Timeline where
  /-- The field count F. -/
  F : FieldCount
  /-- The identity of the field now current. -/
  field : FieldId
  refState : RefState
  refMode : RefMode
  standard : Standard
  timer : FieldTimer
  /-- The good-pulse count, 0 to 8. -/
  good : Nat
  prevPulse : Option FieldId
  /-- The miss count, 0 to 16. -/
  miss : Nat
  deriving DecidableEq, Repr

/-- R19. -/
def Timeline.reset : Timeline where
  F := 0
  field := .first
  refState := .acquiring
  refMode := .external
  standard := .s525
  timer := ⟨.nominal, .s525⟩
  good := 0
  prevPulse := none
  miss := 0

/-! ## Ports (Chapter 2) -/

/-- The line rate in baud (Table 2-2). -/
inductive Rate where
  | r9600 | r19200 | r38400 | r76800
  deriving DecidableEq, Repr

/-- The parity setting (Table 2-2). -/
inductive Parity where
  | none | odd | even | zero
  deriving DecidableEq, Repr

/-- The settings of a port (Table 2-2). EP disregards the last two. -/
structure PortSettings where
  rate : Rate
  parity : Parity
  twoStopBits : Bool
  txEnable : Bool
  rxEnable : Bool
  parityTrust : Bool
  deriving DecidableEq, Repr

/-- R35, Table 2-10. -/
def PortSettings.reset : PortSettings := ⟨.r9600, .none, false, false, false, false⟩

/-- The port state, which describes the transmit side (Table 2-4). -/
inductive PortState where
  | off | idle | sending
  deriving DecidableEq, Repr

/-- A byte in the transmitter with its final mark (2.4). -/
structure TxByte where
  data : Byte
  final : Bool
  deriving DecidableEq, Repr

/-- The transmit side of a port (2.4). `outgoing` holds the bytes of the owner's frame in progress that the owner
has not yet placed, in order (R23: "the owner keeps it"). -/
structure Transmitter where
  state : PortState
  holding : Option TxByte
  shift : Option TxByte
  outgoing : List Byte
  deriving DecidableEq, Repr

/-- R35. -/
def Transmitter.reset : Transmitter := ⟨.off, none, none, []⟩

/-- The receiver states (Table 2-6). -/
inductive ReceiverState where
  | disabled | settling | ready | receiving
  deriving DecidableEq, Repr

/-- A received byte with its three marks (R28, R29). -/
structure RxByte where
  data : Byte
  parity : Bool
  framing : Bool
  overrun : Bool
  deriving DecidableEq, Repr

/-- The receive side of a deck port (2.5). -/
structure Receiver where
  state : ReceiverState
  holding : Option RxByte
  /-- The receive shift, in which a character is assembled as it is sampled (R27). -/
  shift : Byte
  deriving DecidableEq, Repr

/-- R35. The manual gives the receive shift no value after reset (log entry 18). -/
def Receiver.reset : Receiver := ⟨.disabled, none, 0⟩

/-! ## The deck link (Chapter 3) -/

/-- The link states (Table 3-5). -/
inductive LinkState where
  | absent | probing | up | down
  deriving DecidableEq, Repr

/-- A command on the deck link with its data (Table 3-2). A mask has V, A1, A2, TC in bits 0 to 3. -/
inductive LinkCommand where
  | halt
  | run
  | runVar (speed : Int)
  | wind (speed : Int)
  | seek (target : Addr) (dropFrame : Bool)
  | standby (on : Bool)
  | punchIn (mask : BitVec 4)
  | punchOut (mask : BitVec 4)
  | report
  | readPosition
  deriving DecidableEq, Repr

/-- The reasons of a REFUSED (Table 3-3, encodings of 12.5). -/
inductive RefusalReason where
  | unknown | notNow | recordInhibit | noTape | localMode
  deriving DecidableEq, Repr

/-- The transport modes of a STATE (Table 12-17). -/
inductive TransportMode where
  | stopped | still | play | var | wind | record | standbyOff
  deriving DecidableEq, Repr

/-- The content of a STATE reply (Table 3-3). -/
structure DeckState where
  mode : TransportMode
  tapeIn : Bool
  recordInhibit : Bool
  servoLocked : Bool
  atTarget : Bool
  isLocal : Bool
  deriving DecidableEq, Repr

/-- The content of a POSITION reply whose valid flag is set: frame number, kind and field, after R5. -/
structure TapePosition where
  frame : Nat
  kind : Kind
  field : FieldId
  deriving DecidableEq, Repr

/-- A reply of Table 3-3; a POSITION with its valid flag clear carries no position. -/
inductive Reply where
  | taken
  | refused (reason : RefusalReason)
  | holdOn
  | state (d : DeckState)
  | position (p : Option TapePosition)
  deriving DecidableEq, Repr

/-- A completed frame as judged by R38: garbled, or a valid reply with its tag. -/
inductive JudgedFrame where
  | garbled
  | valid (tag : BitVec 7) (reply : Reply)
  deriving DecidableEq, Repr

/-- The requesters of an exchange (Table 3-4). -/
inductive Requester where
  | host | engine | chase | tracker | poll
  deriving DecidableEq, Repr

/-- The phases of an exchange (Table 3-4). -/
inductive Phase where
  | sending | awaiting | holding
  deriving DecidableEq, Repr

/-- The failures of an exchange (R44). -/
inductive Failure where
  | expiry | garbled
  deriving DecidableEq, Repr

/-- The exchange record (Table 3-4). `live` is the model's own: whether the outcome still concerns its requester (a
chase exchange of an ended chase, R102; an engine exchange of an earlier event, R130; an all-stop HALT, R172; are not
live). `punch` names the punch entry an engine PUNCH belongs to. `overtaken` is set when the deck becomes claimed
while a host exchange is outstanding (R65), and when a newer offer replaces the outstanding seek of a chase while its
SEEK is in exchange (R103). -/
structure Exchange where
  requester : Requester
  command : LinkCommand
  tag : BitVec 7
  phase : Phase
  /-- Fields remaining; none while sending and while HOLDING with T_h = 0. -/
  timer : Option Nat
  retries : Nat
  lastFailure : Option Failure
  live : Bool
  punch : Option PunchId
  overtaken : Bool
  deriving DecidableEq, Repr

/-- The pending-seek record (R49), with the model's `live` as in `Exchange`. -/
structure PendingSeek where
  requester : Requester
  target : Addr
  dropFrame : Bool
  live : Bool
  deriving DecidableEq, Repr

/-- One deck link controller (Table 3-1); its settings stand in `DeckSettings`. -/
structure Link where
  state : LinkState
  exchange : Option Exchange
  nextTag : BitVec 7
  /-- The consecutive-failure count, 0 to 255. -/
  failures : Nat
  /-- The frame in assembly, its bytes from START on; empty when HUNTING. -/
  assembly : List Byte
  /-- The model's own: a completed frame not yet handed to the exchange logic, with its arrival field (R38). -/
  judged : Option (JudgedFrame × FieldCount)
  seek : Option PendingSeek
  /-- Fields remaining of the seek timer; none when stopped. -/
  seekTimer : Option Nat
  /-- Fields remaining of the poll timer; none when stopped. -/
  pollTimer : Option Nat
  pollPending : Bool
  lastState : Option DeckState
  /-- The model's own: the conditions of R46 for entering DOWN have been met and the entry has not been made. -/
  downDue : Bool
  deriving DecidableEq, Repr

/-- R56. -/
def Link.reset : Link where
  state := .absent
  exchange := none
  nextTag := 0
  failures := 0
  assembly := []
  judged := none
  seek := none
  seekTimer := none
  pollTimer := none
  pollPending := false
  lastState := none
  downDue := false

/-! ## Command lists and the port arbiter (Chapter 4) -/

/-- The master of a chase (Table 6-1). -/
inductive Master where
  | deck (m : Deck)
  | timeline
  deriving DecidableEq, Repr

/-- A host command of Table 4-2 with its argument; a motion command is held as the link command it becomes. For
CHASE the origin is its frame number and kind, for a TIMELINE master. -/
inductive HostCommand where
  | motion (c : LinkCommand)
  | chase (master : Master) (offset : Int) (origin : Option (Nat × Kind))
  | unchase
  | clearFault
  deriving DecidableEq, Repr

/-- The hold status of a queued record (Table 4-3). -/
inductive HoldStatus where
  | waiting | chosen | seeking | engine
  deriving DecidableEq, Repr

/-- A record held in a host queue: the suite-memory offset of its slot, its host tag, command and status. -/
structure HeldRecord where
  offset : Nat
  tag : Half
  command : HostCommand
  status : HoldStatus
  deriving DecidableEq, Repr

/-- The command list unit's state for one deck (Table 4-1). `rescan` is the start of a scan not yet made (R59);
`examine` is the model's own: an event of R63 has occurred and the head has not been examined since. -/
structure CommandList where
  nextSlot : Fin 16
  queue : List HeldRecord
  scanning : Bool
  rescan : Bool
  deferred : Bool
  examine : Bool
  deriving DecidableEq, Repr

/-- R75. -/
def CommandList.reset : CommandList := ⟨0, [], false, false, false, false⟩

/-- A request in an engine queue (R70), with `live` and `punch` as in `Exchange`. -/
structure EngineRequest where
  command : LinkCommand
  live : Bool
  punch : Option PunchId
  deriving DecidableEq, Repr

/-- One port arbiter (Table 4-1). The poll stands in `Link.pollPending`; the punch window is computed from the
engine's punch plan (R135). -/
structure Arbiter where
  engineQueue : List EngineRequest
  trim : Option LinkCommand
  positionRequest : Bool
  deriving DecidableEq, Repr

/-- R75. -/
def Arbiter.reset : Arbiter := ⟨[], none, false⟩

/-! ## Position tracking (Chapter 5) -/

/-- The quality of a tracker (Table 5-2, encodings of 12.1). -/
inductive Quality where
  | none | ltc | flywheel | link
  deriving DecidableEq, Repr

/-- The source of a sample (Chapter 5). -/
inductive SampleSource where
  | ltc | link | flywheel
  deriving DecidableEq, Repr

/-- A sample: a field position of a kind, the field count at which it is stamped, its source. -/
structure Sample where
  pos : Nat
  kind : Kind
  stamp : FieldCount
  source : SampleSource
  deriving DecidableEq, Repr

/-- The direction in which a word was read, and of a mark's motion. -/
inductive Direction where
  | forward | reverse
  deriving DecidableEq, Repr

/-- One position tracker (Table 5-1). `limitDue` is the model's own: the flywheel count has exceeded the limit at the
last frame boundary and the end of FLYWHEEL (R85) has not been made. -/
structure Tracker where
  quality : Quality
  latest : Option Sample
  base : Option Sample
  history : List Sample
  /-- The speed estimate, in per-mille of play speed. -/
  v : Int
  candidate : Option (Sample × Direction)
  lastWord : Option FieldCount
  flywheelCount : Nat
  /-- The timecode kind; none for UNKNOWN. -/
  kind : Option Kind
  userBits : BitVec 32
  colour : Bool
  limitDue : Bool
  deriving DecidableEq, Repr

/-- R92. -/
def Tracker.reset : Tracker where
  quality := .none
  latest := none
  base := none
  history := []
  v := 0
  candidate := none
  lastWord := none
  flywheelCount := 0
  kind := none
  userBits := 0
  colour := false
  limitDue := false

/-! ## Chase (Chapter 6) -/

/-- The chase states (Table 6-2). -/
inductive ChaseState where
  | off | wait | seeking | parked | closing | locked
  deriving DecidableEq, Repr

/-- Who began the current chase (Table 6-1). -/
inductive Starter where
  | host | engine
  deriving DecidableEq, Repr

/-- The purpose of a chase SEEK (R100). -/
inductive SeekPurpose where
  | park | runOn
  deriving DecidableEq, Repr

/-- The outstanding seek of a chase (R103): its purpose, its target frame and the kind in which it was sent. -/
structure ChaseSeek where
  purpose : SeekPurpose
  frame : Nat
  kind : Kind
  deriving DecidableEq, Repr

/-- One chase controller (Table 6-1); its settings stand in `DeckSettings`. `lockDue` is the model's own: the lock
count has reached its setting and the entry to LOCKED (R104) has not been made. -/
structure Chase where
  state : ChaseState
  starter : Option Starter
  master : Option Master
  /-- The offset in frames. -/
  offset : Option Int
  /-- The origin's frame number and kind, TIMELINE only. -/
  origin : Option (Nat × Kind)
  /-- F_c, TIMELINE only. -/
  startField : Option FieldCount
  lastSpeed : Option Int
  seek : Option ChaseSeek
  lockCount : Nat
  lastCounted : Option FieldCount
  unlockRun : Nat
  lastError : Option Int
  lockDue : Bool
  deriving DecidableEq, Repr

/-- R109. -/
def Chase.reset : Chase where
  state := .off
  starter := none
  master := none
  offset := none
  origin := none
  startField := none
  lastSpeed := none
  seek := none
  lockCount := 0
  lastCounted := none
  unlockRun := 0
  lastError := none
  lockDue := false

/-! ## Settings of one deck (Table 12-7) -/

/-- The configured role of a deck (R188). -/
inductive Role where
  | off | source | recorder
  deriving DecidableEq, Repr

/-- What the configuration gives one deck: role, switcher input, edit delay, link settings (R55), flywheel limit
(R85) and chase settings (R94). -/
structure DeckSettings where
  role : Role
  input : Nat
  editDelay : Nat
  replyTimeout : Nat
  holdTimeout : Nat
  retryLimit : Nat
  lossLimit : Nat
  seekLimit : Nat
  pollInterval : Nat
  flywheelLimit : Nat
  gain : Nat
  lockWindow : Nat
  vmax : Nat
  unlockWindow : Nat
  lockCount : Nat
  windThreshold : Nat
  seekLead : Nat
  deriving DecidableEq, Repr

/-- The settings of deck `n` after reset: R56, R92, Table 6-3, R148, and the input map of R162. The role after reset
is OFF: DESIGN CHOICE, unsafe (log entry 3). -/
def DeckSettings.reset (input : Nat) : DeckSettings where
  role := .off
  input := input
  editDelay := 5
  replyTimeout := 3
  holdTimeout := 300
  retryLimit := 2
  lossLimit := 4
  seekLimit := 1800
  pollInterval := 10
  flywheelLimit := 5
  gain := 160
  lockWindow := 1
  vmax := 150
  unlockWindow := 3
  lockCount := 4
  windThreshold := 300
  seekLead := 150

/-! ## Fault captures (11.8) -/

/-- The fault and result codes of Table 12-2. -/
inductive FaultCode where
  | none | badCommand | deckClaimed | deckRefused | linkTimeout | linkGarbled | linkDown | seekTimeout | superseded
  | portRestart | restarted | queueFull | linkParity | syncUnlocked
  | validation | hostAbort | hostHalt | allStop | deckFailed | referenceLost | syncFail | punchLate | recordRefused
  | cueTimeout | memoryLimit
  | accepted | engineActive | badValue | regionBounds | regionOverlap
  deriving DecidableEq, Repr

/-- A fault capture (R191): one fault, or nothing at severity 0. -/
structure Capture where
  severity : Nat
  code : FaultCode
  offset : Nat
  F : FieldCount
  deriving DecidableEq, Repr

/-- A capture that holds nothing. -/
def Capture.empty : Capture := ⟨0, .none, 0, 0⟩

/-! ## One deck's blocks -/

/-- Everything the part holds for one deck. `statusWritten` is the content last written to the deck status record, or
none when it has not been written since the last acceptance (R192). -/
structure DeckUnit where
  settings : DeckSettings
  port : PortSettings
  tx : Transmitter
  rx : Receiver
  link : Link
  list : CommandList
  arbiter : Arbiter
  tracker : Tracker
  chase : Chase
  capture : Capture
  statusWritten : Option (List Byte)
  deriving DecidableEq, Repr

/-- A deck's blocks after every reset; `input` is the deck's number (R162). -/
def DeckUnit.reset (input : Nat) : DeckUnit where
  settings := .reset input
  port := .reset
  tx := .reset
  rx := .reset
  link := .reset
  list := .reset
  arbiter := .reset
  tracker := .reset
  chase := .reset
  capture := .empty
  statusWritten := none

/-! ## The edit engine (Chapters 7 and 8) -/

/-- The engine states (Table 8-2). -/
inductive EngineState where
  | idle | held | cueing | cued | rolling | synced | recording | postroll | ending | aborting
  deriving DecidableEq, Repr

/-- The start field of an event (Table 7-2). -/
inductive StartKind where
  | auto | host | gpi
  deriving DecidableEq, Repr

/-- A source of an event: a deck or BLACK (Table 7-2). -/
inductive Source where
  | deck (n : Deck)
  | black
  deriving DecidableEq, Repr

/-- The transition field of an event (Table 7-2). -/
inductive Transition where
  | cut | dissolve | wipe
  deriving DecidableEq, Repr

/-- The curve field of an event (Table 7-2). -/
inductive Curve where
  | linear | sCurve
  deriving DecidableEq, Repr

/-- A trigger entry in use of an event record (Table 7-2). -/
structure TriggerEntry where
  line : Line
  offset : Int
  width : Nat
  deriving DecidableEq, Repr

/-- The working copy of the taken event, with the preroll and the duration resolved (R112). An address is held as
frame number and kind; `bIn` and `aIn` are none unless the source is a deck. Fields not examined hold 0 or none. -/
structure Event where
  number : Nat
  perform : Bool
  start : StartKind
  recorder : Deck
  insert : Bool
  mask : BitVec 4
  recordIn : Nat
  recordKind : Kind
  /-- The duration d in frames. -/
  duration : Nat
  sourceA : Source
  aIn : Option (Nat × Kind)
  /-- none for ABSENT. -/
  sourceB : Option Source
  bIn : Option (Nat × Kind)
  transition : Transition
  pattern : Nat
  /-- The transition's duration D in frames. -/
  transitionFrames : Nat
  startOffset : Nat
  curve : Curve
  split : Int
  preroll : Nat
  postroll : Nat
  triggers : List TriggerEntry
  /-- E, the recorder's edit delay at the take (R122). -/
  editDelay : Nat
  deriving DecidableEq, Repr

/-- The cue status of a claimed deck (Table 8-1). -/
inductive CueStatus where
  | seeking | arrived
  deriving DecidableEq, Repr

/-- The schedule fields of an event (Table 8-1). -/
structure Schedule where
  f0 : FieldCount
  fS : FieldCount
  fIn : FieldCount
  fT : FieldCount
  fOut : FieldCount
  fEnd : FieldCount
  deriving DecidableEq, Repr

/-- The status of a punch entry (Chapter 8). -/
inductive PunchStatus where
  | planned | window | queued | begun | taken | refused | failed | abandoned
  deriving DecidableEq, Repr

/-- A punch entry (Table 8-1). -/
structure Punch where
  mask : BitVec 4
  planned : FieldCount
  status : PunchStatus
  /-- The value of F at which its frame was begun. -/
  actual : Option FieldCount
  deriving DecidableEq, Repr

/-- The punch plan (R134), by the names of the result fields. -/
structure PunchPlan where
  video : Option Punch
  audio : Option Punch
  out : Option Punch
  deriving DecidableEq, Repr

/-- The status of a trigger entry (Table 8-1). -/
inductive TriggerStatus where
  | planned | fired | cancelled
  deriving DecidableEq, Repr

/-- A trigger list entry (Table 8-1). -/
structure Trigger where
  line : Line
  field : FieldCount
  width : Nat
  status : TriggerStatus
  deriving DecidableEq, Repr

/-- The sync result of one deck (R133): locked or not, and the last error. -/
structure SyncResult where
  locked : Bool
  error : Option Int
  deriving DecidableEq, Repr

/-- The results of a running event that no other field holds (Table 7-4). `reached` is the reached state as last
written into the slot. -/
structure Results where
  reached : Option EngineState
  syncRecorder : Option SyncResult
  syncA : Option SyncResult
  syncB : Option SyncResult
  advisory : Bool
  /-- The frame number of the actual out. -/
  actualOut : Option Nat
  deriving DecidableEq, Repr

/-- Results with nothing known. -/
def Results.none : Results := ⟨Option.none, Option.none, Option.none, Option.none, false, Option.none⟩

/-- How an engine exchange ended (R130). -/
inductive EngineOutcome where
  | taken
  | refused (reason : RefusalReason)
  | faulted (code : FaultCode)
  deriving DecidableEq, Repr

/-- The edit engine (Tables 7-1 and 8-1). The last three fields are the model's own: a frame boundary has found the
engine CUED with start-pending set and the roll has not been made (R132); a completion write has failed (R141); a frame
boundary has passed since, and the completion has not been made again. -/
structure Engine where
  state : EngineState
  nextEvent : Fin 64
  working : Option Event
  takenSlot : Option (Fin 64)
  takeInProgress : Bool
  lookAgain : Bool
  deferred : Bool
  /-- The claim set, in the order recorder, A, B. -/
  claims : List Deck
  cue : Six (Option CueStatus)
  startPending : Bool
  schedule : Option Schedule
  punches : PunchPlan
  triggers : List Trigger
  haltsAwaited : List Deck
  /-- The outcome of the engine's HALT to each deck, once it has ended (R66). -/
  haltOutcome : Six (Option EngineOutcome)
  abortCode : Option FaultCode
  endFault : Option FaultCode
  results : Results
  rollDue : Bool
  completionFailed : Bool
  retryDue : Bool
  deriving DecidableEq, Repr

/-- R124, R147. -/
def Engine.reset : Engine where
  state := .idle
  nextEvent := 0
  working := none
  takenSlot := none
  takeInProgress := false
  lookAgain := false
  deferred := false
  claims := []
  cue := .all none
  startPending := false
  schedule := none
  punches := ⟨none, none, none⟩
  triggers := []
  haltsAwaited := []
  haltOutcome := .all none
  abortCode := none
  endFault := none
  results := .none
  rollDue := false
  completionFailed := false
  retryDue := false

/-- The sync policy (R133). -/
inductive SyncPolicy where
  | abort | proceed
  deriving DecidableEq, Repr

/-- The settings of the suite that belong to no deck and no line (R148, R153). -/
structure SuiteSettings where
  defaultPreroll : Nat
  syncMargin : Nat
  syncPolicy : SyncPolicy
  blackInput : Nat
  deriving DecidableEq, Repr

/-- R148, R162. -/
def SuiteSettings.reset : SuiteSettings := ⟨150, 30, .abort, 15⟩

/-! ## The transition generator and EP (Chapter 9) -/

/-- The generator states (R149). -/
inductive GeneratorState where
  | rest | carrying | frozen
  deriving DecidableEq, Repr

/-- The kinds of a field frame (Table 9-2). -/
inductive FrameKind where
  | idle | none | mix | wipe
  deriving DecidableEq, Repr

/-- The event record of the generator (R155). `twoSources` is false for B ABSENT; `n` is N = 2D. -/
structure GeneratorEvent where
  programSource : Nat
  presetSource : Nat
  twoSources : Bool
  transition : Transition
  pattern : Nat
  n : Nat
  curve : Curve
  fT : FieldCount
  deriving DecidableEq, Repr

/-- What the next field frame carries (Table 9-1). -/
structure Content where
  program : Nat
  preset : Nat
  kind : FrameKind
  pattern : Nat
  position : Nat
  deriving DecidableEq, Repr

/-- The idle content (R154). -/
def Content.idle : Content := ⟨0, 0, .idle, 0, 0⟩

/-- The transition generator (Table 9-1); the input map stands in the settings of the decks and of the suite. -/
structure Generator where
  state : GeneratorState
  event : Option GeneratorEvent
  content : Content
  sequence : Byte
  inProgress : Bool
  recordTally : Bool
  deriving DecidableEq, Repr

/-- R162. -/
def Generator.reset : Generator := ⟨.rest, none, .idle, 0, false, false⟩

/-- The effects port: settings and transmit side (R34). -/
structure EffectsPort where
  port : PortSettings
  tx : Transmitter
  deriving DecidableEq, Repr

/-- R35. -/
def EffectsPort.reset : EffectsPort := ⟨.reset, .reset⟩

/-! ## Marks, GPI lines, capture log (Chapter 10) -/

/-- The direction filter of a mark entry (Table 10-1). -/
inductive MarkDirection where
  | forward | reverse | either
  deriving DecidableEq, Repr

/-- One loaded mark entry with its edge state (Tables 10-1, 10-2). `maskFrames` to `maskHours` remove a field of the
address from an EQUAL comparison. -/
structure Mark where
  enabled : Bool
  deck : Deck
  address : Addr
  kind : Kind
  maskFrames : Bool
  maskSeconds : Bool
  maskMinutes : Bool
  maskHours : Bool
  crossing : Bool
  direction : MarkDirection
  capture : Bool
  pulse : Bool
  notice : Bool
  once : Bool
  line : Line
  width : Nat
  /-- The edge state: MATCHING. -/
  matching : Bool
  deriving DecidableEq, Repr

/-- A disabled entry (R164, R180). The spec gives only that it is disabled: what its other fields hold is log entry 54
(DESIGN CHOICE). -/
def Mark.disabled : Mark where
  enabled := false
  deck := .d0
  address := ⟨0, 0, 0, 0⟩
  kind := .nd525
  maskFrames := false
  maskSeconds := false
  maskMinutes := false
  maskHours := false
  crossing := false
  direction := .either
  capture := false
  pulse := false
  notice := false
  once := false
  line := .l0
  width := 1
  matching := false

/-- The mark unit (Table 10-2). -/
structure MarkUnit where
  /-- The table in force: 16 entries, entry 0 first. -/
  entries : List Mark
  /-- The previous sample of each deck: frame number and kind. -/
  previous : Six (Option (Nat × Kind))
  deriving DecidableEq, Repr

/-- Every entry disabled, no previous sample (R180; log entry 54). -/
def MarkUnit.reset : MarkUnit := ⟨List.replicate 16 .disabled, .all none⟩

/-- The edge selection of a GPI input (Table 10-3). -/
inductive EdgeSelection where
  | rising | falling | both
  deriving DecidableEq, Repr

/-- The function of a GPI input (Table 10-3). -/
inductive InputFunction where
  | none | start | capture | chord
  deriving DecidableEq, Repr

/-- The settings of a GPI input. -/
structure InputSettings where
  edge : EdgeSelection
  function : InputFunction
  deriving DecidableEq, Repr

/-- The function of a GPI output (R173). -/
inductive OutputFunction where
  | off | event | mark | recordTally
  | programTally (d : Deck)
  deriving DecidableEq, Repr

/-- The GPI unit. An output's level is computed from its function, its pulse and the tallies (R173). -/
structure GpiUnit where
  /-- The level of each input as recorded: true for high. -/
  levels : Eight Bool
  inputs : Eight InputSettings
  outputs : Eight OutputFunction
  /-- The end field of the pulse running on each output. -/
  pulses : Eight (Option FieldCount)
  /-- The chord's state: ARMED, else SPENT. -/
  armed : Bool
  captureDeck : Option Deck
  deriving DecidableEq, Repr

/-- R180; the levels are those found on the inputs. -/
def GpiUnit.reset (levels : Eight Bool) : GpiUnit where
  levels := levels
  inputs := .all ⟨.rising, .none⟩
  outputs := .all .off
  pulses := .all none
  armed := true
  captureDeck := none

/-- The capture log writer (Table 10-5). -/
structure LogWriter where
  /-- The base in units of 16 bytes. -/
  base : Nat
  count : Nat
  threshold : Nat
  logEdits : Bool
  writeIndex : Nat
  sequence : Half
  consumed : Nat
  /-- The threshold state: ARMED, else SPENT. -/
  armed : Bool
  deriving DecidableEq, Repr

/-- R180. -/
def LogWriter.reset : LogWriter := ⟨0, 0, 0, false, 0, 0, 0, true⟩

/-! ## The suite memory interface (Table 11-1) -/

/-- The thirteen causes (Table 11-4). -/
inductive Cause where
  | deckDone | deckFault | editProgress | editDone | editFault | mark | log | reference | allStop | probeDone | config
  | memoryLimit | chase
  deriving DecidableEq, Repr

/-- One value for each cause, in the order of Table 11-4. -/
structure PerCause (α : Type) where
  deckDone : α
  deckFault : α
  editProgress : α
  editDone : α
  editFault : α
  mark : α
  log : α
  reference : α
  allStop : α
  probeDone : α
  config : α
  memoryLimit : α
  chase : α
  deriving DecidableEq, Repr

/-- The value of a cause. -/
def PerCause.get {α : Type} (v : PerCause α) : Cause → α
  | .deckDone => v.deckDone
  | .deckFault => v.deckFault
  | .editProgress => v.editProgress
  | .editDone => v.editDone
  | .editFault => v.editFault
  | .mark => v.mark
  | .log => v.log
  | .reference => v.reference
  | .allStop => v.allStop
  | .probeDone => v.probeDone
  | .config => v.config
  | .memoryLimit => v.memoryLimit
  | .chase => v.chase

/-- `v` with the value of one cause replaced. -/
def PerCause.set {α : Type} (v : PerCause α) (c : Cause) (x : α) : PerCause α :=
  match c with
  | .deckDone => { v with deckDone := x }
  | .deckFault => { v with deckFault := x }
  | .editProgress => { v with editProgress := x }
  | .editDone => { v with editDone := x }
  | .editFault => { v with editFault := x }
  | .mark => { v with mark := x }
  | .log => { v with log := x }
  | .reference => { v with reference := x }
  | .allStop => { v with allStop := x }
  | .probeDone => { v with probeDone := x }
  | .config => { v with config := x }
  | .memoryLimit => { v with memoryLimit := x }
  | .chase => { v with chase := x }

/-- The same value for every cause. -/
def PerCause.all {α : Type} (x : α) : PerCause α := ⟨x, x, x, x, x, x, x, x, x, x, x, x, x⟩

/-- The kind of the last reset (R193). -/
inductive ResetCause where
  | powerOn | resetLine | restart
  deriving DecidableEq, Repr

/-- The region bases in force, in units of 16 bytes (R187); the log's stands in `LogWriter`. -/
structure Bases where
  deck : Six Nat
  edit : Nat
  mark : Nat
  probe : Nat
  deriving DecidableEq, Repr

/-- The suite memory interface (Table 11-1). -/
structure Interface where
  /-- TOPMEM, 0 to 256 pages. -/
  topmem : Fin 257
  /-- The attention word: bit g for group g. -/
  attention : BitVec 13
  /-- The cause pending flags. -/
  pending : PerCause Bool
  /-- The cause levels, 0 to 7. -/
  levels : PerCause (BitVec 3)
  floor : BitVec 3
  /-- The device fault capture. -/
  device : Capture
  resetCause : ResetCause
  configured : Bool
  startUpDue : Bool
  loadInProgress : Bool
  /-- The region bases taken at the last acceptance; all 0 before it (DESIGN CHOICE, log entry 3). -/
  bases : Bases
  deriving DecidableEq, Repr

/-- Table 11-9, for a reset of the given cause that leaves TOPMEM at `topmem`. -/
def Interface.reset (cause : ResetCause) (topmem : Fin 257) : Interface where
  topmem := topmem
  attention := 0
  pending := .all false
  levels := .all 0
  floor := 0
  device := .empty
  resetCause := cause
  configured := false
  startUpDue := true
  loadInProgress := false
  bases := ⟨.all 0, 0, 0, 0⟩

/-! ## The whole part -/

/-- Suite memory: the listed bytes, addresses strictly rising, no entry equal to what an unlisted address reads as
(`Memory.wf`). -/
abbrev Memory := List Host.Cell

/-- The state of the part. `pending` is the queue of commands waiting, first in first out; `causeRead` is the model's
own latch of what the last CAUSE read returned; `resetHeld` says that the reset line is held (R194). -/
structure State where
  pending : List Instr
  resetHeld : Bool
  causeRead : Byte
  mem : Memory
  iface : Interface
  timeline : Timeline
  suite : SuiteSettings
  decks : Six DeckUnit
  engine : Engine
  generator : Generator
  ep : EffectsPort
  marks : MarkUnit
  gpi : GpiUnit
  log : LogWriter
  deriving DecidableEq, Repr

/-- The faults that stop the block: none. Every fault the manual describes is captured, recorded or raised, and the
part goes on; no command of the table stops it (log entry 26). -/
inductive Fault where
  deriving DecidableEq, Repr

/-- The refusals: only the one by which an arm without a meaning would be named. -/
inductive Refusal where
  /-- Answered by `exec` for a command that has no meaning yet. Safe. No arm answers it: every row has its meaning. -/
  | notModelled (mnemonic : String)
  deriving DecidableEq, Repr

/-- The part right after power-on (R194): every block at its reset values, TOPMEM 0, no command waiting, nothing
listed in suite memory. The GPI inputs stand low: DESIGN CHOICE, unsafe (log entry 2). The CAUSE latch holds 0xFF,
what a read would return. -/
def State.reset : State where
  pending := []
  resetHeld := false
  causeRead := 0xFF
  mem := []
  iface := .reset .powerOn 0
  timeline := .reset
  suite := .reset
  decks := ⟨.reset 0, .reset 1, .reset 2, .reset 3, .reset 4, .reset 5⟩
  engine := .reset
  generator := .reset
  ep := .reset
  marks := .reset
  gpi := .reset (.all false)
  log := .reset

end Sys2Proof.Machine
end

