-- ==== Sys2Proof/Machine/Operands.lean ====
section
/-!
DEFINITION. The operands of the records and frames: timecode arithmetic (Chapter 1), the encodings of Chapter 12 in
both directions, the LTC word and the deck link frame.
-/

namespace Sys2Proof

/-! ## Numbering -/

/-- The number of a deck. -/
def Deck.num : Deck → Nat
  | .d0 => 0
  | .d1 => 1
  | .d2 => 2
  | .d3 => 3
  | .d4 => 4
  | .d5 => 5

/-- The deck of a number, when there is one. -/
def Deck.ofNum? : Nat → Option Deck
  | 0 => some .d0
  | 1 => some .d1
  | 2 => some .d2
  | 3 => some .d3
  | 4 => some .d4
  | 5 => some .d5
  | _ => none

/-- All decks, in order. -/
def Deck.list : List Deck := [.d0, .d1, .d2, .d3, .d4, .d5]

/-- The number of a line. -/
def Line.num : Line → Nat
  | .l0 => 0
  | .l1 => 1
  | .l2 => 2
  | .l3 => 3
  | .l4 => 4
  | .l5 => 5
  | .l6 => 6
  | .l7 => 7

/-- The line of a number, when there is one. -/
def Line.ofNum? : Nat → Option Line
  | 0 => some .l0
  | 1 => some .l1
  | 2 => some .l2
  | 3 => some .l3
  | 4 => some .l4
  | 5 => some .l5
  | 6 => some .l6
  | 7 => some .l7
  | _ => none

/-- All lines, in order. -/
def Line.list : List Line := [.l0, .l1, .l2, .l3, .l4, .l5, .l6, .l7]

/-- The other field identity (R12). -/
def FieldId.other : FieldId → FieldId
  | .first => .second
  | .second => .first

/-- The encoding of a field identity (12.1). -/
def FieldId.code : FieldId → Nat
  | .first => 0
  | .second => 1

namespace Machine

/-! ## Modular differences and rounding (0.4, R8) -/

/-- The modular signed difference of R8: a − b reduced to the range −m/2 < d ≤ m/2. -/
def sdiff (m : Nat) (a b : Int) : Int :=
  let d := (a - b) % (m : Int)
  if 2 * d ≤ (m : Int) then d else d - m

/-- The difference of two field counts (R8, modulus 2^32). -/
def fieldDiff (a b : FieldCount) : Int := sdiff 4294967296 a.toNat b.toNat

/-- num / den rounded half away from zero (0.4), for den positive. -/
def roundDiv (num : Int) (den : Nat) : Int :=
  if 0 ≤ num then (2 * num + den) / (2 * den : Int) else -((2 * (-num) + den) / (2 * den : Int))

/-- `x` clamped to lo..hi. -/
def clamp (lo hi x : Int) : Int := if x < lo then lo else if hi < x then hi else x

/-- num / den rounded up, for den positive. -/
def ceilDiv (num : Int) (den : Nat) : Int := -((-num) / (den : Int))

/-- A field count displaced by a signed number of fields, modulo 2^32. -/
def fieldAdd (f : FieldCount) (n : Int) : FieldCount := f + BitVec.ofInt 32 n

/-! ## Timecode kinds and addresses (Chapter 1) -/

/-- Frames counted per second (Table 1-1). -/
def Kind.rate : Kind → Nat
  | .nd525 => 30
  | .df525 => 30
  | .k625 => 25

/-- The day length L in frames (Table 1-1). -/
def Kind.day : Kind → Nat
  | .nd525 => 2592000
  | .df525 => 2589408
  | .k625 => 2160000

/-- The day length in fields, 2L. -/
def Kind.dayFields (k : Kind) : Nat := 2 * k.day

/-- The standard a kind belongs to (Table 1-1). -/
def Kind.standard : Kind → Standard
  | .k625 => .s625
  | _ => .s525

/-- The kind flag with which an address of a kind is written or sent: 1 for DF (12.1). -/
def Kind.flag : Kind → Nat
  | .df525 => 1
  | _ => 0

/-- The encoding of a timecode kind, UNKNOWN included (Table 12-1). -/
def kindCode : Option Kind → Nat
  | none => 0
  | some .nd525 => 1
  | some .df525 => 2
  | some .k625 => 3

/-- The kind a host names with a kind flag (R1, R6): none where the flag is undefined, or names DF under 625. -/
def hostKind (std : Standard) (flag : Nat) : Option Kind :=
  match std, flag with
  | .s525, 0 => some .nd525
  | .s525, 1 => some .df525
  | .s625, 0 => some .k625
  | _, _ => none

/-- The kind of an address from tape with its DF flag (R1): the flag is disregarded under 625. -/
def tapeKind (std : Standard) (df : Bool) : Kind :=
  match std with
  | .s525 => if df then .df525 else .nd525
  | .s625 => .k625

/-- An address whose frames fall on a dropped address of 525 DF (R2). -/
def Addr.dropped (a : Addr) : Bool := a.ff < 2 && a.ss == 0 && a.mm % 10 != 0

/-- Every field of the address in its range (R2, first two conditions). -/
def Addr.inRange (k : Kind) (a : Addr) : Bool :=
  a.hh < 24 && a.mm < 60 && a.ss < 60 && a.ff < k.rate

/-- The address is valid for its kind (R2). -/
def Addr.valid (k : Kind) (a : Addr) : Bool :=
  match k with
  | .df525 => a.inRange k && !a.dropped
  | _ => a.inRange k

/-- The frame number of a valid address (R3). -/
def frameOf (k : Kind) (a : Addr) : Nat :=
  let counted := ((a.hh * 60 + a.mm) * 60 + a.ss) * k.rate + a.ff
  match k with
  | .df525 => counted - 2 * ((60 * a.hh + a.mm) - (60 * a.hh + a.mm) / 10)
  | _ => counted

/-- A count of frames split into an address at a given rate (R4). -/
def splitFrames (rate n : Nat) : Addr :=
  ⟨n / rate / 60 / 60, n / rate / 60 % 60, n / rate % 60, n % rate⟩

/-- The dropped numbers restored to a 525 DF frame number (R4). -/
def restoreDropped (n : Nat) : Nat :=
  let d := n / 17982
  let r := n % 17982
  n + (if r < 2 then 18 * d else 18 * d + 2 * ((r - 2) / 1798))

/-- The address of a frame number (R4). -/
def addrOf (k : Kind) (n : Nat) : Addr :=
  match k with
  | .df525 => splitFrames 30 (restoreDropped n)
  | k => splitFrames k.rate n

/-- An address from tape made usable (R5): a dropped address moves to ;02, one out of range is malformed. -/
def normalise (k : Kind) (a : Addr) : Option Addr :=
  if a.inRange k then
    if k == .df525 && a.dropped then some { a with ff := 2 } else some a
  else none

/-- Frame number `n` displaced by `d` frames, wrapping at the day (R9). -/
def displaceFrame (k : Kind) (n : Nat) (d : Int) : Nat := (((n : Int) + d) % (k.day : Int)).toNat

/-- A field position displaced by a signed number of fields, modulo 2L (R7). -/
def displacePos (k : Kind) (s : Nat) (d : Int) : Nat := (((s : Int) + d) % (k.dayFields : Int)).toNat

/-- The field identity a field position names (R7). -/
def posField (s : Nat) : FieldId := if s % 2 = 0 then .first else .second

/-- The link address of frame `n` of kind `k`: the address and the drop-frame flag a SEEK carries (R39). -/
def seekTo (k : Kind) (n : Nat) : LinkCommand := .seek (addrOf k n) (k == .df525)

/-! ## Reading bytes of records -/

/-- Byte `i` of a record read. -/
def byteAt (r : List Byte) (i : Nat) : Nat := (r.getD i 0).toNat

/-- The little-endian two-byte field at `i` (R195). -/
def halfAt (r : List Byte) (i : Nat) : Nat := byteAt r i + 256 * byteAt r (i + 1)

/-- The little-endian four-byte field at `i` (R195). -/
def wordAt (r : List Byte) (i : Nat) : Nat := halfAt r i + 65536 * halfAt r (i + 2)

/-- The two's complement value of a field of `bits` bits (R195). -/
def signed (bits n : Nat) : Int := if n < 2 ^ (bits - 1) then n else (n : Int) - 2 ^ bits

/-- The address field at `i` (Table 12-1). -/
def addrAt (r : List Byte) (i : Nat) : Addr :=
  ⟨byteAt r i, byteAt r (i + 1), byteAt r (i + 2), byteAt r (i + 3)⟩

/-- A host address and its kind flag checked by R6: its frame number and kind, when valid. -/
def hostAddress (std : Standard) (a : Addr) (flag : Nat) : Option (Nat × Kind) :=
  match hostKind std flag with
  | none => none
  | some k => if a.valid k then some (frameOf k a, k) else none

/-! ## Writing bytes of records -/

/-- One byte. -/
def byte (n : Nat) : Byte := BitVec.ofNat 8 n

/-- A two-byte little-endian field, its value taken modulo 2^16. -/
def half (n : Nat) : List Byte := [byte n, byte (n / 256)]

/-- A two-byte field of a quantity too large for it written saturated (R195; for the offset of a fault capture, which
R195 does not name, log entry 52). -/
def halfSat (n : Nat) : List Byte := half (if n < 65536 then n else 65535)

/-- A four-byte little-endian field. -/
def word (n : Nat) : List Byte := half n ++ half (n / 65536)

/-- The low 16 bits of a field count. -/
def halfOfField (f : FieldCount) : List Byte := half f.toNat

/-- A field count whole. -/
def wordOfField (f : FieldCount) : List Byte := word f.toNat

/-- A signed two-byte field in two's complement. -/
def halfSigned (x : Int) : List Byte := half (x % 65536).toNat

/-- A signed four-byte field in two's complement. -/
def wordSigned (x : Int) : List Byte := word (x % 4294967296).toNat

/-- The four bytes of an address (Table 12-1). -/
def addrBytes (a : Addr) : List Byte := [byte a.hh, byte a.mm, byte a.ss, byte a.ff]

/-- A last error or sync error: saturated to ±32767, 0x8000 for none (R195). -/
def errorBytes : Option Int → List Byte
  | none => half 0x8000
  | some e => halfSigned (clamp (-32767) 32767 e)

/-! ## Encodings of Table 12-2 and 12.1 -/

/-- The code of a fault or result (Table 12-2). -/
def FaultCode.num : FaultCode → Nat
  | .none => 0x00
  | .badCommand => 0x01
  | .deckClaimed => 0x02
  | .deckRefused => 0x03
  | .linkTimeout => 0x04
  | .linkGarbled => 0x05
  | .linkDown => 0x06
  | .seekTimeout => 0x07
  | .superseded => 0x08
  | .portRestart => 0x09
  | .restarted => 0x0A
  | .queueFull => 0x0B
  | .linkParity => 0x0C
  | .syncUnlocked => 0x0D
  | .validation => 0x20
  | .hostAbort => 0x21
  | .hostHalt => 0x22
  | .allStop => 0x23
  | .deckFailed => 0x24
  | .referenceLost => 0x25
  | .syncFail => 0x26
  | .punchLate => 0x27
  | .recordRefused => 0x28
  | .cueTimeout => 0x29
  | .memoryLimit => 0x2A
  | .accepted => 0x40
  | .engineActive => 0x41
  | .badValue => 0x42
  | .regionBounds => 0x43
  | .regionOverlap => 0x44

/-- 12.1. -/
def RefState.code : RefState → Nat
  | .absent => 0
  | .acquiring => 1
  | .locked => 2
  | .holdover => 3
  | .lost => 4

/-- 12.1. -/
def EngineState.code : EngineState → Nat
  | .idle => 0
  | .held => 1
  | .cueing => 2
  | .cued => 3
  | .rolling => 4
  | .synced => 5
  | .recording => 6
  | .postroll => 7
  | .ending => 8
  | .aborting => 9

/-- 12.1. -/
def LinkState.code : LinkState → Nat
  | .absent => 0
  | .probing => 1
  | .up => 2
  | .down => 3

/-- 12.1. -/
def Quality.code : Quality → Nat
  | .none => 0
  | .ltc => 1
  | .flywheel => 2
  | .link => 3

/-- 12.1. -/
def ChaseState.code : ChaseState → Nat
  | .off => 0
  | .wait => 1
  | .seeking => 2
  | .parked => 3
  | .closing => 4
  | .locked => 5

/-- 12.1. -/
def ResetCause.code : ResetCause → Nat
  | .powerOn => 1
  | .resetLine => 2
  | .restart => 3

/-- Table 12-12, latest sample source. -/
def SampleSource.code : SampleSource → Nat
  | .ltc => 1
  | .link => 2
  | .flywheel => 3

/-- 12.5, refusal reasons. -/
def RefusalReason.code : RefusalReason → Nat
  | .unknown => 1
  | .notNow => 2
  | .recordInhibit => 3
  | .noTape => 4
  | .localMode => 5

/-- 12.5, refusal reasons. -/
def RefusalReason.ofCode? : Nat → Option RefusalReason
  | 1 => some .unknown
  | 2 => some .notNow
  | 3 => some .recordInhibit
  | 4 => some .noTape
  | 5 => some .localMode
  | _ => none

/-- Table 12-17, transport modes. -/
def TransportMode.code : TransportMode → Nat
  | .stopped => 0
  | .still => 1
  | .play => 2
  | .var => 3
  | .wind => 4
  | .record => 5
  | .standbyOff => 6

/-- Table 12-17, transport modes. -/
def TransportMode.ofCode? : Nat → Option TransportMode
  | 0 => some .stopped
  | 1 => some .still
  | 2 => some .play
  | 3 => some .var
  | 4 => some .wind
  | 5 => some .record
  | 6 => some .standbyOff
  | _ => none

/-- The flag byte of a STATE (Table 12-17). -/
def DeckState.flags (d : DeckState) : Nat :=
  d.tapeIn.toNat + 2 * d.recordInhibit.toNat + 4 * d.servoLocked.toNat + 8 * d.atTarget.toNat + 16 * d.isLocal.toNat

/-- A STATE's content from its mode and its flag byte, the unnamed bits disregarded (R195). -/
def DeckState.ofFlags (m : TransportMode) (f : Byte) : DeckState :=
  ⟨m, f.getLsbD 0, f.getLsbD 1, f.getLsbD 2, f.getLsbD 3, f.getLsbD 4⟩

/-- Table 9-2. -/
def FrameKind.code : FrameKind → Nat
  | .idle => 0
  | .none => 1
  | .mix => 2
  | .wipe => 3

/-! ## The deck link frame (R36 to R40) -/

/-- START of a link frame (R36). -/
def linkStart : Byte := 0xC9

/-- The ones' complement of the 8-bit sum of some bytes (R36, and Table 9-2 for field frames). -/
def checkByte (bs : List Byte) : Byte := ~~~ (bs.foldl (· + ·) 0)

/-- The motion commands (R39). -/
def LinkCommand.isMotion : LinkCommand → Bool
  | .report => false
  | .readPosition => false
  | _ => true

/-- The eight SEEKs and others: whether a command is a SEEK (R49). -/
def LinkCommand.isSeek : LinkCommand → Bool
  | .seek _ _ => true
  | _ => false

/-- CODE of a command (Table 3-2). -/
def LinkCommand.code : LinkCommand → Byte
  | .halt => 0x01
  | .run => 0x02
  | .runVar _ => 0x03
  | .wind _ => 0x04
  | .seek _ _ => 0x05
  | .standby _ => 0x06
  | .punchIn _ => 0x07
  | .punchOut _ => 0x08
  | .report => 0x10
  | .readPosition => 0x11

/-- The data of a command (Tables 3-2, 12-17); RUN-VAR and WIND speeds are clamped first (R39). -/
def LinkCommand.data : LinkCommand → List Byte
  | .runVar v => halfSigned (clamp (-3000) 3000 v)
  | .wind v => wordSigned (clamp (-50000) 50000 v)
  | .seek a df => addrBytes a ++ [byte df.toNat]
  | .standby on => [byte on.toNat]
  | .punchIn m => [m.zeroExtend 8]
  | .punchOut m => [m.zeroExtend 8]
  | _ => []

/-- The frame of a command with a tag (R36). -/
def commandFrame (tag : BitVec 7) (c : LinkCommand) : List Byte :=
  let body := tag.zeroExtend 8 :: c.code :: byte c.data.length :: c.data
  linkStart :: (body ++ [checkByte body])

/-- The reply of a frame's CODE and data, when LEN and every enumerated field are as Table 3-3 gives (R38). -/
def replyOf (std : Standard) (code : Nat) (data : List Byte) : Option Reply :=
  match code, data.length with
  | 0x40, 0 => some .taken
  | 0x41, 1 => (RefusalReason.ofCode? (byteAt data 0)).map .refused
  | 0x42, 0 => some .holdOn
  | 0x50, 2 => (TransportMode.ofCode? (byteAt data 0)).map fun m => .state (.ofFlags m (data.getD 1 0))
  | 0x51, 5 =>
    let flags : Byte := data.getD 4 0
    if flags.getLsbD 2 then
      let k := tapeKind std (flags.getLsbD 0)
      (normalise k (addrAt data 0)).map fun a =>
        .position (some ⟨frameOf k a, k, if flags.getLsbD 1 then .second else .first⟩)
    else some (.position none)
  | _, _ => none

/-- A completed frame judged by R38; `frame` runs from START to CHECK. -/
def judgeFrame (std : Standard) (frame : List Byte) : JudgedFrame :=
  let body := frame.tail.dropLast
  if frame.getLastD 0 = checkByte body ∧ byteAt frame 1 < 128 then
    match replyOf std (byteAt frame 2) (body.drop 3) with
    | some r => .valid (BitVec.ofNat 7 (byteAt frame 1)) r
    | none => .garbled
  else .garbled

/-- The reply is final and fits the command (R40). -/
def Reply.finalFits (r : Reply) (c : LinkCommand) : Bool :=
  match r with
  | .taken => c.isMotion
  | .refused _ => true
  | .holdOn => false
  | .state _ => c == .report
  | .position _ => c == .readPosition

/-- The reply fits the command (R40): HOLD-ON fits any. -/
def Reply.fits (r : Reply) (c : LinkCommand) : Bool := r == .holdOn || r.finalFits c

/-! ## The LTC word (12.12, R76) -/

/-- An LTC word as the reader hands it to the tracker (R76). -/
structure LtcWord where
  frame : Nat
  kind : Kind
  direction : Direction
  colour : Bool
  userBits : BitVec 32
  deriving DecidableEq, Repr

/-- The sync pattern at bits 64 to 79 of a word, bit 64 lowest: 0011111111111101 in the order of arrival. -/
def ltcSync : BitVec 16 := 0xBFFC

/-- The field of `len` bits at bit `lo` of a word. -/
def ltcField (w : BitVec 80) (lo len : Nat) : Nat := (w.extractLsb' lo len).toNat

/-- The 80 bits that arrived, as a word in tape order with its direction, when one of the two sync patterns is seen:
read in reverse the bits arrive from 79 down to 0 (12.12). -/
def ltcRead (arrived : BitVec 80) : Option (BitVec 80 × Direction) :=
  if arrived.extractLsb' 64 16 = ltcSync then some (arrived, .forward)
  else if arrived.reverse.extractLsb' 64 16 = ltcSync then some (arrived.reverse, .reverse)
  else none

/-- The address digits of a word, none where a digit is above 9 (R5, 12.12). -/
def ltcAddress (w : BitVec 80) : Option Addr :=
  let fu := ltcField w 0 4
  let su := ltcField w 16 4
  let mu := ltcField w 32 4
  let hu := ltcField w 48 4
  if fu ≤ 9 ∧ su ≤ 9 ∧ mu ≤ 9 ∧ hu ≤ 9 then
    some ⟨10 * ltcField w 56 2 + hu, 10 * ltcField w 40 3 + mu, 10 * ltcField w 24 3 + su, 10 * ltcField w 8 2 + fu⟩
  else none

/-- The 32 user bits, group k in bits 4(k − 1) to 4k − 1 (12.12). -/
def ltcUserBits (w : BitVec 80) : BitVec 32 :=
  w.extractLsb' 60 4 ++ w.extractLsb' 52 4 ++ w.extractLsb' 44 4 ++ w.extractLsb' 36 4
    ++ w.extractLsb' 28 4 ++ w.extractLsb' 20 4 ++ w.extractLsb' 12 4 ++ w.extractLsb' 4 4

/-- The word arrival that 80 arrived bits make, none with a bad sync pattern or a malformed address (R76). -/
def ltcWord (std : Standard) (arrived : BitVec 80) : Option LtcWord :=
  match ltcRead arrived with
  | none => none
  | some (w, dir) =>
    let k := tapeKind std (w.getLsbD 10)
    match (ltcAddress w).bind (normalise k) with
    | none => none
    | some a => some ⟨frameOf k a, k, dir, w.getLsbD 11, ltcUserBits w⟩

end Machine
end Sys2Proof
end

