-- ==== Sys2Proof/Machine/Ops.lean ====
section
/-!
DEFINITION. The named operations over the state: the bytes of suite memory in their canonical form, and reading and
updating one block of the part.
-/

namespace Sys2Proof.Machine

/-! ## Suite memory as data -/

/-- The byte at an address: the listed one, or `Config.unwrittenByte`. -/
def Memory.read : Memory → Nat → Byte
  | [], _ => Config.unwrittenByte
  | (b, x) :: m, a => if a = b then x else Memory.read m a

/-- `m` with the byte at `a` removed from the listing. -/
def Memory.erase (a : Nat) : Memory → Memory
  | [] => []
  | (b, x) :: m => if a = b then m else (b, x) :: Memory.erase a m

/-- `m` with `x` listed at `a`, addresses kept rising. -/
def Memory.insert (a : Nat) (x : Byte) : Memory → Memory
  | [] => [(a, x)]
  | (b, y) :: m =>
    if a < b then (a, x) :: (b, y) :: m
    else if a = b then (a, x) :: m
    else (b, y) :: Memory.insert a x m

/-- A byte written: the value an unlisted address reads as is not listed. -/
def Memory.write (m : Memory) (a : Nat) (x : Byte) : Memory :=
  if x = Config.unwrittenByte then Memory.erase a m else Memory.insert a x m

/-- Consecutive bytes written from `a` on, the lowest first. -/
def Memory.store (m : Memory) (a : Nat) : List Byte → Memory
  | [] => m
  | x :: xs => Memory.store (m.write a x) (a + 1) xs

/-- `n` consecutive bytes read from `a` on. -/
def Memory.load (m : Memory) (a n : Nat) : List Byte := (List.range n).map fun i => m.read (a + i)

/-- The canonical form: addresses strictly rising, every one above `lo`, no entry equal to the unwritten byte. -/
def Memory.wfFrom (lo : Nat) : Memory → Bool
  | [] => true
  | (a, x) :: m => lo ≤ a && x != Config.unwrittenByte && Memory.wfFrom (a + 1) m

/-- The canonical form of suite memory. -/
def Memory.wf (m : Memory) : Bool := Memory.wfFrom 0 m

/-! ## One block of the part -/

/-- Deck `n`'s blocks. -/
def State.deck (s : State) (n : Deck) : DeckUnit := s.decks.get n

/-- `s` with deck `n`'s blocks updated. -/
def State.onDeck (s : State) (n : Deck) (f : DeckUnit → DeckUnit) : State :=
  { s with decks := s.decks.set n (f (s.decks.get n)) }

/-- `s` with deck `n`'s link controller updated. -/
def State.onLink (s : State) (n : Deck) (f : Link → Link) : State :=
  s.onDeck n fun d => { d with link := f d.link }

/-- `s` with deck `n`'s command list updated. -/
def State.onList (s : State) (n : Deck) (f : CommandList → CommandList) : State :=
  s.onDeck n fun d => { d with list := f d.list }

/-- `s` with deck `n`'s arbiter updated. -/
def State.onArbiter (s : State) (n : Deck) (f : Arbiter → Arbiter) : State :=
  s.onDeck n fun d => { d with arbiter := f d.arbiter }

/-- `s` with deck `n`'s tracker updated. -/
def State.onTracker (s : State) (n : Deck) (f : Tracker → Tracker) : State :=
  s.onDeck n fun d => { d with tracker := f d.tracker }

/-- `s` with deck `n`'s chase controller updated. -/
def State.onChase (s : State) (n : Deck) (f : Chase → Chase) : State :=
  s.onDeck n fun d => { d with chase := f d.chase }

/-- `s` with deck `n`'s transmitter updated. -/
def State.onTx (s : State) (n : Deck) (f : Transmitter → Transmitter) : State :=
  s.onDeck n fun d => { d with tx := f d.tx }

/-- `s` with deck `n`'s receiver updated. -/
def State.onRx (s : State) (n : Deck) (f : Receiver → Receiver) : State :=
  s.onDeck n fun d => { d with rx := f d.rx }

/-- `s` with the suite memory interface updated. -/
def State.onIface (s : State) (f : Interface → Interface) : State := { s with iface := f s.iface }

/-- `s` with the edit engine updated. -/
def State.onEngine (s : State) (f : Engine → Engine) : State := { s with engine := f s.engine }

/-- `s` with the transition generator updated. -/
def State.onGenerator (s : State) (f : Generator → Generator) : State := { s with generator := f s.generator }

/-- `s` with the GPI unit updated. -/
def State.onGpi (s : State) (f : GpiUnit → GpiUnit) : State := { s with gpi := f s.gpi }

/-- `s` with the mark unit updated. -/
def State.onMarks (s : State) (f : MarkUnit → MarkUnit) : State := { s with marks := f s.marks }

/-- `s` with the capture log writer updated. -/
def State.onLog (s : State) (f : LogWriter → LogWriter) : State := { s with log := f s.log }

/-- `s` with the timeline unit updated. -/
def State.onTimeline (s : State) (f : Timeline → Timeline) : State := { s with timeline := f s.timeline }

/-- The field count F. -/
abbrev State.F (s : State) : FieldCount := s.timeline.F

/-- The standard in force (R1). -/
abbrev State.standard (s : State) : Standard := s.timeline.standard

/-- The host's own stores to suite memory, which it shares with the part (0.2.4). They are no command of the table
(log entry 4): a run's environment makes them between steps. -/
def State.hostStore (s : State) (a : Nat) (bytes : List Byte) : State :=
  { s with mem := s.mem.store a bytes }

/-- A command's effect done once for each deck, in deck order 0 to 5. -/
def State.eachDeck (s : State) (f : Deck → State → State) : State :=
  f .d5 (f .d4 (f .d3 (f .d2 (f .d1 (f .d0 s)))))

end Sys2Proof.Machine
end

