-- ==== Sys2Proof/Machine/Flags.lean ====
section
/-!
DEFINITION. The flags the host sees: the causes and the interrupt line (11.4), the attention word (11.3), the STATUS
word and the other register reads (11.1), the fault captures (11.8).
-/

namespace Sys2Proof.Machine

/-! ## Causes -/

/-- The number of a cause (Table 11-4). -/
def Cause.num : Cause → Nat
  | .deckDone => 0
  | .deckFault => 1
  | .editProgress => 2
  | .editDone => 3
  | .editFault => 4
  | .mark => 5
  | .log => 6
  | .reference => 7
  | .allStop => 8
  | .probeDone => 9
  | .config => 10
  | .memoryLimit => 11
  | .chase => 12

/-- The causes in number order (Table 11-4). -/
def Cause.list : List Cause :=
  [.deckDone, .deckFault, .editProgress, .editDone, .editFault, .mark, .log, .reference, .allStop, .probeDone, .config,
    .memoryLimit, .chase]

/-- A block raises a cause (R184). -/
def State.raise (s : State) (c : Cause) : State :=
  s.onIface fun i => { i with pending := i.pending.set c true }

/-- A cause is presentable while its flag is set and its level is greater than FLOOR (R184). -/
def Interface.presentable (i : Interface) (c : Cause) : Bool := i.pending.get c && i.floor < i.levels.get c

/-- The interrupt line: asserted exactly while some cause is presentable (R184). -/
def Interface.line (i : Interface) : Bool := Cause.list.any i.presentable

/-- The better of a cause already chosen and another: higher level first, then lower number (R185). -/
def Interface.better (i : Interface) (best : Option Cause) (c : Cause) : Option Cause :=
  if i.presentable c then
    match best with
    | none => some c
    | some b => if i.levels.get b < i.levels.get c then some c else some b
  else best

/-- The cause a read of CAUSE takes (R185). -/
def Interface.top (i : Interface) : Option Cause := Cause.list.foldl i.better none

/-- What a read of CAUSE returns (R185, Table 12-3). -/
def Interface.causeValue (i : Interface) : Byte :=
  match i.top with
  | none => 0xFF
  | some c => byte (c.num + 16 * (i.levels.get c).toNat)

/-! ## The attention word -/

/-- `s` with attention bit `g` set or clear (R183). -/
def State.setAttention (s : State) (g : Nat) (on : Bool) : State :=
  s.onIface fun i =>
    { i with attention := if on then i.attention ||| (1#13 <<< g) else i.attention &&& ~~~ (1#13 <<< g) }

/-! ## Register reads other than CAUSE (R181): each as it stands -/

/-- The reference state as it stands after the last advance (R13: LOST is entered with the advance that brings the
miss count to 16). -/
def Timeline.liveState (t : Timeline) : RefState :=
  if t.refState = .holdover ∧ t.miss = 16 then .lost else t.refState

/-- A read of FLOOR. -/
def State.readFloor (s : State) : Byte := s.iface.floor.zeroExtend 8

/-- A read of TOPMEM. -/
def State.readTopmem (s : State) : Half := BitVec.ofNat 16 s.iface.topmem.val

/-- A read of STATUS (Table 12-3). -/
def State.readStatus (s : State) : Half :=
  BitVec.ofNat 16 (Config.revision + 16 * s.iface.resetCause.code + 64 * s.timeline.liveState.code
    + 512 * s.engine.state.code + 8192 * s.iface.configured.toNat)

/-- A read of ATTN or of COMMAND. -/
def State.readWriteOnly (_ : State) : Byte := 0

/-! ## Fault captures -/

/-- A fault offered to a capture: kept when its severity is strictly greater than the severity held (R191). -/
def Capture.offer (c : Capture) (severity : Nat) (code : FaultCode) (offset : Nat) (f : FieldCount) : Capture :=
  if c.severity < severity then ⟨severity, code, offset, f⟩ else c

/-- A fault offered to deck `n`'s capture, with the current F (R191). -/
def State.offerDeck (s : State) (n : Deck) (severity : Nat) (code : FaultCode) (offset : Nat) : State :=
  s.onDeck n fun d => { d with capture := d.capture.offer severity code offset s.F }

/-- The device capture as it stands written into the directory, in the order code, offset, F, severity; not attempted
while TOPMEM is 0 (R182, R187). The directory lies in page 0, below any other limit. An offset above 0xFFFF is written
as 0xFFFF, a point R187 and R195 leave open (DEDUCED, log entry 52). -/
def State.writeDevice (s : State) : State :=
  let c := s.iface.device
  if s.iface.topmem.val = 0 then s
  else
    let withCode := s.mem.store 0x31 [byte c.code.num]
    let withOffset := withCode.store 0x32 (halfSat c.offset)
    let withF := withOffset.store 0x34 (wordOfField c.F)
    { s with mem := withF.store 0x30 [byte c.severity] }

/-- A fault offered to the device capture; a change of it is written into the directory (R187, R191). -/
def State.offerDevice (s : State) (severity : Nat) (code : FaultCode) (offset : Nat) : State :=
  if s.iface.device.severity < severity then
    (s.onIface fun i => { i with device := i.device.offer severity code offset s.F }).writeDevice
  else s

end Sys2Proof.Machine
end

