-- ==== Sys2Proof/Machine/Access.lean ====
section
/-!
DEFINITION. The part's accesses to suite memory, each checked against TOPMEM (R182).
-/

namespace Sys2Proof.Machine

/-- The first offset of suite memory that the part may not reach. -/
def Interface.limit (i : Interface) : Nat := 256 * i.topmem.val

/-- An access to `n` bytes from `a` on lies below the limit (R182). -/
def State.inLimit (s : State) (a n : Nat) : Bool := a + n ≤ s.iface.limit

/-- An access refused: MEMORY_LIMIT is offered to the device capture with the lowest offset at or above the limit,
and raised (R182). -/
def State.limitFault (s : State) (a : Nat) : State :=
  (s.offerDevice 4 .memoryLimit (max a s.iface.limit)).raise .memoryLimit

/-- A read of `n` bytes from `a` on: the bytes, or none after a fault. -/
def State.readMem (s : State) (a n : Nat) : Option (List Byte) × State :=
  if s.inLimit a n then (some (s.mem.load a n), s) else (none, s.limitFault a)

/-- A write of bytes from `a` on: whether it was made. -/
def State.writeMem (s : State) (a : Nat) (bytes : List Byte) : Bool × State :=
  if s.inLimit a bytes.length then (true, { s with mem := s.mem.store a bytes }) else (false, s.limitFault a)

/-- Writes made in order, ending at the first that fails: whether all were made. -/
def State.writeAll (s : State) : List (Nat × List Byte) → Bool × State
  | [] => (true, s)
  | (a, bytes) :: rest =>
    match s.writeMem a bytes with
    | (true, s) => s.writeAll rest
    | (false, s) => (false, s)

/-- The start-up record written into the directory: reset cause, revision, ready marker (R193). -/
def State.writeStartUp (s : State) : State :=
  let (_, s) := s.writeAll
    [(0x20, [byte s.iface.resetCause.code]), (0x21, [byte Config.revision]), (0x22, [byte 1])]
  (s.onIface fun i => { i with startUpDue := false }).writeDevice

/-- The mirror words written at a frame boundary, in the order reference state, field identity, F; not attempted
while TOPMEM is 0 (R18). -/
def State.writeMirror (s : State) : State :=
  if s.iface.topmem.val = 0 then s
  else (s.writeAll [(0x29, [byte s.timeline.liveState.code]), (0x28, [byte s.timeline.field.code]),
    (0x24, wordOfField s.F)]).2

end Sys2Proof.Machine
end

