-- ==== Sys2Proof/Machine/Log.lean ====
section
/-!
DEFINITION. The capture log writer (10.4).
-/

namespace Sys2Proof.Machine

/-- A log entry before its sequence number (R178, Table 12-15). -/
structure LogEntry where
  kind : Nat
  deck : Option Deck
  F : FieldCount
  address : Addr
  timecodeKind : Option Kind
  quality : Quality
  index : Nat
  edge : Nat
  deriving DecidableEq, Repr

/-- The 16 bytes of an entry with its sequence number (Table 12-15). -/
def LogEntry.bytes (e : LogEntry) (sequence : Half) : List Byte :=
  half sequence.toNat ++ [byte e.kind, byte (e.deck.elim 0xFF Deck.num)] ++ wordOfField e.F ++ addrBytes e.address
    ++ [byte (kindCode e.timecodeKind), byte e.quality.code, byte e.index, byte e.edge]

/-- The header's offset in suite memory. -/
def LogWriter.header (l : LogWriter) : Nat := 16 * l.base

/-- The offset of entry `i` (10.4). -/
def LogWriter.slot (l : LogWriter) (i : Nat) : Nat := 16 * l.base + 16 + 16 * i

/-- The number of entries taken to be unread (R175). -/
def LogWriter.fill (l : LogWriter) : Nat := (l.writeIndex + l.count - l.consumed) % l.count

/-- The ring holds count − 1 entries (R175). -/
def LogWriter.full (l : LogWriter) : Bool := (l.writeIndex + 1) % l.count == l.consumed

/-- The threshold judged for re-arming after a re-read (R177). -/
def LogWriter.rearm (l : LogWriter) : LogWriter :=
  if l.threshold ≠ 0 ∧ l.fill < l.threshold then { l with armed := true } else l

/-- The consumed index re-read from the header (R176); with a count of 0 there is no header (R183). -/
def State.rereadLog (s : State) : State :=
  if s.log.count = 0 then s
  else
    match s.readMem s.log.header 2 with
    | (none, s) => s.onLog LogWriter.rearm
    | (some b, s) =>
      s.onLog fun l => (if halfAt b 0 < l.count then { l with consumed := halfAt b 0 } else l).rearm

/-- The threshold judged after an append (R177). -/
def State.judgeThreshold (s : State) : State :=
  if s.log.threshold ≠ 0 ∧ s.log.armed ∧ s.log.threshold ≤ s.log.fill then
    (s.onLog fun l => { l with armed := false }).raise .log
  else s

/-- An entry dropped for want of room: the overflow flag written set, LOG raised (R176), also when that write fails (log
entry 48). -/
def State.dropEntry (s : State) : State := (s.writeMem (s.log.header + 4) [byte 1]).2.raise .log

/-- Steps 2 to 5 of an append (R175): a write at or above the limit loses the entry. -/
def State.placeEntry (s : State) (e : LogEntry) : State :=
  let next := (s.log.writeIndex + 1) % s.log.count
  match s.writeAll [(s.log.slot s.log.writeIndex, e.bytes s.log.sequence), (s.log.header + 2, half next)] with
  | (false, s) => s
  | (true, s) =>
    (s.onLog fun l => { l with writeIndex := next, sequence := l.sequence + 1 }).judgeThreshold

/-- An entry handed to the writer (R175): discarded with the log off; a full ring is re-read first. -/
def State.appendLog (s : State) (e : LogEntry) : State :=
  if s.log.count = 0 then s
  else if s.log.full then
    let s := s.rereadLog
    if s.log.full then s.dropEntry else s.placeEntry e
  else s.placeEntry e

end Sys2Proof.Machine
end

