-- ==== Sys2Proof/Machine/Gpi.lean ====
section
/-!
DEFINITION. The GPI unit's outputs and chord (10.2, 10.3), and the tally conditions behind two output functions (9.6).
-/

namespace Sys2Proof.Machine

/-- The inputs on program: the PROGRAM_TALLY condition of deck `d` (R159). -/
def State.programTally (s : State) (d : Deck) : Bool :=
  let c := s.generator.content
  let input := (s.deck d).settings.input
  match c.kind with
  | .idle => false
  | .none => input == c.program
  | .mix => input == c.program || input == c.preset
  | .wipe => input == c.program || input == c.preset

/-- Whether output `l` is active, by its function (R173). -/
def State.outputActive (s : State) (l : Line) : Bool :=
  match s.gpi.outputs.get l with
  | .off => false
  | .event => (s.gpi.pulses.get l).isSome
  | .mark => (s.gpi.pulses.get l).isSome
  | .recordTally => s.generator.recordTally
  | .programTally d => s.programTally d

/-- The later of a running pulse's end and a new one, by the modular difference (R173). -/
def laterEnd (running : Option FieldCount) (new : FieldCount) : FieldCount :=
  match running with
  | none => new
  | some old => if 0 < fieldDiff new old then new else old

/-- A pulse of `width` fields asked for on `line`, made only if the line's function is `fn` (R173). -/
def State.requestPulse (s : State) (fn : OutputFunction) (line : Line) (width : Nat) : State :=
  if s.gpi.outputs.get line = fn then
    let finish := laterEnd (s.gpi.pulses.get line) (fieldAdd s.F width)
    s.onGpi fun g => { g with pulses := g.pulses.set line (some finish) }
  else s

/-- Input `l` is a chord member (R171). -/
def GpiUnit.member (g : GpiUnit) (l : Line) : Bool := (g.inputs.get l).function == .chord

/-- A chord member stands at its active level: high for RISING and BOTH, low for FALLING (R171). -/
def GpiUnit.atActive (g : GpiUnit) (l : Line) : Bool :=
  g.levels.get l == ((g.inputs.get l).edge != .falling)

/-- The chord is non-empty and every member stands at its active level (R171). -/
def GpiUnit.chordClosed (g : GpiUnit) : Bool :=
  Line.list.any g.member && Line.list.all fun l => !g.member l || g.atActive l

/-- A change of input `line` to level `high` is an edge by the input's selection (R170). -/
def GpiUnit.isEdge (g : GpiUnit) (line : Line) (high : Bool) : Bool :=
  match (g.inputs.get line).edge with
  | .rising => high
  | .falling => !high
  | .both => true

/-- The GPI_IN entry of a CAPTURE edge on `line` (R178): the capture deck's latest sample, or none. -/
def State.gpiEntry (s : State) (line : Line) (high : Bool) : LogEntry :=
  let edge := if high then 0 else 1
  let blank : LogEntry := ⟨2, none, s.F, ⟨0, 0, 0, 0⟩, none, .none, line.num, edge⟩
  match s.gpi.captureDeck with
  | none => blank
  | some d =>
    let t := (s.deck d).tracker
    match t.latest with
    | none => blank
    | some x => ⟨2, some d, s.F, addrOf x.kind (x.pos / 2), some x.kind, t.quality, line.num, edge⟩

end Sys2Proof.Machine
end

