-- ==== Sys2Proof/Machine/Marks.lean ====
section
/-!
DEFINITION. The mark unit: loading the table, comparing samples, the probe (10.1).
-/

namespace Sys2Proof.Machine

/-! ## Loading -/

/-- The result codes of a mark entry (Table 12-13). -/
inductive MarkResult where
  | accepted | badLine | badField
  deriving DecidableEq, Repr

/-- Table 12-13. -/
def MarkResult.code : MarkResult → Nat
  | .accepted => 1
  | .badLine => 2
  | .badField => 3

/-- The direction filter of a code (Table 12-13). -/
def MarkDirection.ofCode? : Nat → Option MarkDirection
  | 0 => some .forward
  | 1 => some .reverse
  | 2 => some .either
  | _ => none

/-- A PULSE entry's line: 0 to 7, with the output function MARK (R164). -/
def markLine (outputs : Eight OutputFunction) (n : Nat) : Option Line :=
  match Line.ofNum? n with
  | none => none
  | some l => if outputs.get l = .mark then some l else none

/-- An entry read whose enable is set, validated in the order of R164. Without PULSE its line and width are disregarded;
what the model holds there is log entry 54. -/
def checkMark (std : Standard) (outputs : Eight OutputFunction) (r : List Byte) : Except MarkResult Mark :=
  let mask := byteAt r 7 % 16
  let actions := byteAt r 10
  match Deck.ofNum? (byteAt r 1) with
  | none => .error .badField
  | some deck =>
    match hostAddress std (addrAt r 2) (byteAt r 6) with
    | none => .error .badField
    | some (_, k) =>
      match MarkDirection.ofCode? (byteAt r 9) with
      | none => .error .badField
      | some dir =>
        if 1 < byteAt r 8 ∨ 15 < actions then .error .badField
        else if byteAt r 8 = 1 ∧ mask ≠ 0 then .error .badField
        else
          let pulse := actions.testBit 1
          let m : Mark :=
            { enabled := true, deck := deck, address := addrAt r 2, kind := k
              maskFrames := mask.testBit 0, maskSeconds := mask.testBit 1
              maskMinutes := mask.testBit 2, maskHours := mask.testBit 3
              crossing := byteAt r 8 == 1, direction := dir
              capture := actions.testBit 0, pulse := pulse
              notice := actions.testBit 2, once := actions.testBit 3
              line := .l0, width := 1, matching := false }
          if pulse then
            match markLine outputs (byteAt r 11) with
            | none => .error .badLine
            | some l =>
              if byteAt r 12 = 0 then .error .badField else .ok { m with line := l, width := byteAt r 12 }
          else .ok m

/-- An entry read, as it is loaded, with its result (R164): an entry not enabled is not examined. What the other fields of
an entry loaded disabled hold is log entry 54. -/
def loadMark (std : Standard) (outputs : Eight OutputFunction) (r : List Byte) : Mark × MarkResult :=
  if byteAt r 0 % 2 = 0 then (.disabled, .accepted)
  else
    match checkMark std outputs r with
    | .ok m => (m, .accepted)
    | .error e => (.disabled, e)

/-- `n` records of 16 bytes read in order from `a` on, none once a read has failed. -/
def State.readRecords (s : State) (a : Nat) : Nat → Option (List (List Byte)) × State
  | 0 => (some [], s)
  | n + 1 =>
    match s.readMem a 16 with
    | (none, s) => (none, s)
    | (some r, s) =>
      match s.readRecords (a + 16) n with
      | (none, s) => (none, s)
      | (some rs, s) => (some (r :: rs), s)

/-- The mark table loaded (R163): every read made first, then the table replaced, then the results written. -/
def State.loadMarks (s : State) : State :=
  match s.readRecords (16 * s.iface.bases.mark) 16 with
  | (none, s) => s
  | (some rs, s) =>
    let loaded := rs.map (loadMark s.standard s.gpi.outputs)
    let s := s.onMarks fun u => { u with entries := loaded.map Prod.fst }
    (s.writeAll ((loaded.zipIdx).map fun (x, i) =>
      (16 * s.iface.bases.mark + 16 * i + 13, [byte x.2.code]))).2

/-! ## Comparing -/

/-- The motion of a deck from its previous sample of the same kind to frame `b` (R165). -/
def motion (previous : Option (Nat × Kind)) (k : Kind) (b : Nat) : Option Int :=
  match previous with
  | none => none
  | some (a, k') => if k' = k then some (sdiff k.day b a) else none

/-- The direction filter passes a motion (R165): EITHER passes every one, unknown and 0 included. -/
def MarkDirection.passes (f : MarkDirection) (d : Option Int) : Bool :=
  match f with
  | .either => true
  | .forward => d.elim false (0 < ·)
  | .reverse => d.elim false (· < 0)

/-- Every field of the address not removed by the mask equals the same field of `a` (R166). -/
def Mark.matches (m : Mark) (a : Addr) : Bool :=
  (m.maskHours || m.address.hh == a.hh) && (m.maskMinutes || m.address.mm == a.mm)
    && (m.maskSeconds || m.address.ss == a.ss) && (m.maskFrames || m.address.ff == a.ff)

/-- The compare frame lies in the span of motion `d` ending at frame `b` of kind `k` (R167). -/
def Mark.crossed (m : Mark) (k : Kind) (b : Nat) (d : Option Int) : Bool :=
  match d with
  | none => false
  | some d =>
    let c : Int := frameOf m.kind m.address
    let a : Int := b - d
    2 * d.natAbs < k.day && m.direction.passes (some d) &&
      (if 0 < d then (1 ≤ (c - a) % (k.day : Int) && (c - a) % (k.day : Int) ≤ d)
       else if d < 0 then (1 ≤ (a - c) % (k.day : Int) && (a - c) % (k.day : Int) ≤ -d)
       else false)

/-- Whether an enabled entry fires on a sample at frame `b` of kind `k` with motion `d` (R166, R167). -/
def Mark.fires (m : Mark) (k : Kind) (b : Nat) (d : Option Int) : Bool :=
  m.kind == k &&
    (if m.crossing then m.crossed k b d
     else m.matches (addrOf k b) && !m.matching && m.direction.passes d)

/-- The edge state of an enabled entry after a sample (R165, R166); a CROSSING entry has none. -/
def Mark.edgeAfter (m : Mark) (k : Kind) (b : Nat) : Mark :=
  if m.crossing then m else { m with matching := m.kind == k && m.matches (addrOf k b) }

/-- The actions of entry `i` firing on a sample, in order (R168). -/
def State.fireMark (s : State) (i : Nat) (m : Mark) (x : Sample) : State :=
  let s := if m.capture then
      s.appendLog ⟨1, some m.deck, x.stamp, addrOf x.kind (x.pos / 2), some x.kind,
        (s.deck m.deck).tracker.quality, i, 0⟩
    else s
  let s := if m.pulse then s.requestPulse .mark m.line m.width else s
  let s := if m.notice then s.raise .mark else s
  if m.once then
    s.onMarks fun u => { u with entries := u.entries.modify i fun m => { m with enabled := false } }
  else s

/-- Entry `i` compared with a sample of deck `n` (R165): its edge state moved, and its actions made if it fires. -/
def State.compareMark (s : State) (n : Deck) (x : Sample) (d : Option Int) (i : Nat) : State :=
  let m := s.marks.entries.getD i .disabled
  if m.enabled ∧ m.deck = n then
    let s := s.onMarks fun u => { u with entries := u.entries.modify i fun m => m.edgeAfter x.kind (x.pos / 2) }
    if m.fires x.kind (x.pos / 2) d then s.fireMark i m x else s
  else s

/-- A sample of deck `n` handed to the mark unit (R165): each entry compared, entry 0 first, then the sample's frame
and kind become the previous sample. -/
def State.compareMarks (s : State) (n : Deck) (x : Sample) : State :=
  let d := motion (s.marks.previous.get n) x.kind (x.pos / 2)
  let s := (List.range 16).foldl (fun s i => s.compareMark n x d i) s
  s.onMarks fun u => { u with previous := u.previous.set n (some (x.pos / 2, x.kind)) }

/-! ## The probe -/

/-- Entry `m` hits a probe from frame `a` to frame `b` of kind `k` (R169). -/
def Mark.hits (m : Mark) (deck : Deck) (k : Kind) (a b : Nat) : Bool :=
  let d := sdiff k.day b a
  m.enabled && m.deck == deck && m.kind == k &&
    (if m.crossing then m.crossed k b (some d)
     else m.matches (addrOf k b) && !m.matches (addrOf k a) && m.direction.passes (some d))

/-- The hit set of a probe record (R169): empty when the deck or an address fails. -/
def MarkUnit.hitSet (u : MarkUnit) (std : Standard) (r : List Byte) : Nat :=
  match Deck.ofNum? (byteAt r 0), hostAddress std (addrAt r 2) (byteAt r 1), hostAddress std (addrAt r 6) (byteAt r 1) with
  | some deck, some (a, k), some (b, _) =>
    (u.entries.zipIdx).foldl (fun n (m, i) => if m.hits deck k a b then n + 2 ^ i else n) 0
  | _, _, _ => 0

/-- The probe record evaluated: hit set, then done flag, then PROBE_DONE (R169). -/
def State.evaluateProbe (s : State) : State :=
  let a := 16 * s.iface.bases.probe
  match s.readMem a 16 with
  | (none, s) => s
  | (some r, s) =>
    match s.writeAll [(a + 10, half (s.marks.hitSet s.standard r)), (a + 12, [byte 1])] with
    | (false, s) => s
    | (true, s) => s.raise .probeDone

end Sys2Proof.Machine
end

