-- ==== Sys2Proof/Machine/Chase.lean ====
section
/-!
DEFINITION. The chase controller (Chapter 6): masters and targets, the evaluation of a slave sample, starts and ends,
the outcomes of its commands.
-/

namespace Sys2Proof.Machine

/-! ## Prediction (R79) -/

/-- P(F): the position predicted at `f`, with the base sample's kind; none without a base sample. -/
def Tracker.predict (t : Tracker) (f : FieldCount) : Option (Nat × Kind) :=
  match t.base with
  | none => none
  | some b => some (displacePos b.kind b.pos (roundDiv (t.v * fieldDiff f b.stamp) 1000), b.kind)

/-! ## Masters and targets -/

/-- The master's position and speed at `f` as a chase controller reads them (R97); none while it has no position. A
deck master without a base sample has none (log entry 31). -/
def State.masterAt (s : State) (c : Chase) (f : FieldCount) : Option (Int × Int) :=
  match c.master with
  | none => none
  | some .timeline =>
    match c.origin, c.startField with
    | some (n, _), some fc => some (2 * (n : Int) + fieldDiff f fc, 1000)
    | _, _ => none
  | some (.deck m) =>
    let t := (s.deck m).tracker
    if t.quality = .none then none
    else (t.predict f).map fun (p, _) => ((p : Int), t.v)

/-- The target T of a slave sample of kind `k` (R97). A chase that is not OFF holds an offset (R95, R96). -/
def Chase.target (c : Chase) (k : Kind) (m : Int) : Nat := displacePos k 0 (m + 2 * c.offset.getD 0)

/-! ## The chase law (R100) -/

/-- The rows of Table 6-4. -/
inductive ChaseRow where
  | noMaster | tooFast | send | hold | far | trim
  deriving DecidableEq, Repr

/-- The first row of Table 6-4 that fits, with the master's speed and the error; row 1 is chosen before it. -/
def chaseRow (d : DeckSettings) (vm e : Int) : ChaseRow :=
  if 3000 < vm.natAbs then .tooFast
  else if vm = 0 then (if d.lockWindow < e.natAbs then .send else .hold)
  else if 2 * d.windThreshold < e.natAbs then .far
  else .trim

/-- The commanded speed of row 6 (R101). -/
def trimSpeed (d : DeckSettings) (vm e : Int) : Int :=
  let trim := if e.natAbs ≤ d.lockWindow then 0
    else clamp (-(d.vmax : Int)) d.vmax (roundDiv (d.gain * e) 16)
  clamp (-3000) 3000 (vm - trim)

/-- A sample is a counted sample (R104). -/
def Chase.counts (c : Chase) (stamp : FieldCount) : Bool :=
  match c.lastCounted with
  | none => true
  | some k => 2 ≤ fieldDiff stamp k

/-- The lock count after a counted sample in row 6 (R104). -/
def Chase.countAfter (c : Chase) (d : DeckSettings) (stamp : FieldCount) (e : Int) : Nat :=
  if d.lockWindow < e.natAbs then 0
  else
    match c.lastCounted with
    | none => 1
    | some k => if fieldDiff stamp k ≤ 3 then min 15 (c.lockCount + 1) else 1

/-- A controller after an evaluation in rows 1 to 5: the row's state, its lock counters cleared, F_k moved at a counted
sample (R100, R104). R100 clears the lock count at every sample in these rows, and R104 has a sample that is not counted
leave it: the model follows R100 (DESIGN CHOICE, log entry 56). -/
def Chase.unlockedTo (c : Chase) (state : ChaseState) (stamp : FieldCount) (e : Option Int) : Chase :=
  { c with
    state := state
    lockCount := 0
    unlockRun := 0
    lockDue := false
    lastCounted := if c.counts stamp then some stamp else c.lastCounted
    lastError := e }

/-- A command other than a SEEK offered, or nothing: an offer makes the outstanding seek none (R103). -/
def Chase.offering (c : Chase) (cmd : Option LinkCommand) : Chase × Option LinkCommand :=
  (if cmd.isSome then { c with seek := none } else c, cmd)

/-- A SEEK offered with its purpose: it becomes the outstanding seek (R103). -/
def Chase.offeringSeek (c : Chase) (p : SeekPurpose) (k : Kind) (frame : Nat) : Chase × Option LinkCommand :=
  ({ c with seek := some ⟨p, frame, k⟩ }, some (seekTo k frame))

/-- A purpose's seek is outstanding. -/
def Chase.seeking (c : Chase) (p : SeekPurpose) : Bool := (c.seek.map ChaseSeek.purpose) == some p

/-- A speed offered as a command, unless it is the last speed sent (R100, R101). -/
def Chase.unlessSent (c : Chase) (v : Int) (cmd : LinkCommand) : Option LinkCommand :=
  if c.lastSpeed = some v then none else some cmd

/-- Row 6 (R101, R104, R105): lock counted, the unlock run moved, a trim offered. -/
def Chase.trimRow (c : Chase) (d : DeckSettings) (stamp : FieldCount) (vm e : Int) : Chase × Option LinkCommand :=
  let v := trimSpeed d vm e
  let counted := c.counts stamp
  let count := if counted then c.countAfter d stamp e else c.lockCount
  let locked : Bool := c.state == .locked
  let run := if d.unlockWindow < e.natAbs then c.unlockRun + 1 else 0
  let c' : Chase :=
    { c with
      state := if locked then .locked else .closing
      lockCount := count
      lastCounted := if counted then some stamp else c.lastCounted
      unlockRun := if locked then run else c.unlockRun
      lastError := some e
      lockDue := !locked && counted && decide (e.natAbs ≤ d.lockWindow) && decide (d.lockCount ≤ count) }
  c'.offering (c.unlessSent v (.runVar v))

/-- A master sample has moved WAIT to SEEKING (R98), and no slave sample has been evaluated since. It is computed, not
held: row 1 leaves no last error and a counted stamp, every other evaluation leaves a last error, and a start leaves no
counted stamp (log entry 46). -/
def Chase.resumed (c : Chase) : Bool := c.state == .seeking && c.lastError.isNone && c.lastCounted.isSome

/-- The evaluation of a slave sample (R99, R100): `m` is the master's position and speed at its stamp. Row 1 offers its HALT
once, at the evaluation that enters WAIT: not in WAIT, and not at the sample evaluated after R98 has moved the state to
SEEKING. -/
def Chase.evaluate (c : Chase) (d : DeckSettings) (x : Sample) (m : Option (Int × Int)) : Chase × Option LinkCommand :=
  match m with
  | none =>
    (c.unlockedTo .wait x.stamp none).offering (if c.state = .wait ∨ c.resumed then none else some .halt)
  | some (m, vm) =>
    let t := c.target x.kind m
    let e := sdiff x.kind.dayFields x.pos t
    match chaseRow d vm e with
    | .noMaster => (c, none)
    | .tooFast => (c.unlockedTo .seeking x.stamp (some e)).offering (c.unlessSent vm (.wind vm))
    | .send =>
      let c' := c.unlockedTo .seeking x.stamp (some e)
      if c.seek = some ⟨.park, t / 2, x.kind⟩ then (c', none) else c'.offeringSeek .park x.kind (t / 2)
    | .hold =>
      (c.unlockedTo .parked x.stamp (some e)).offering
        (if c.lastSpeed = some 0 ∨ c.seeking .park then none else some .halt)
    | .far =>
      if c.seeking .runOn then ({ c with lastError := some e }, none)
      else
        let lead : Int := if 0 < vm then 2 * d.seekLead else -(2 * d.seekLead)
        (c.unlockedTo .seeking x.stamp (some e)).offeringSeek .runOn x.kind (displacePos x.kind t lead / 2)
    | .trim =>
      if c.seeking .runOn then ({ c with lastError := some e }, none) else c.trimRow d x.stamp vm e

/-! ## The controller in the part -/

/-- Deck `n`'s chase controller changed, CHASE raised for a chase begun by the host when it enters or leaves LOCKED
(R106). -/
def State.moveChase (s : State) (n : Deck) (f : Chase → Chase) : State :=
  let old := (s.deck n).chase
  let s := s.onChase n f
  if old.starter = some .host ∧ (old.state = .locked) ≠ ((f old).state = .locked) then s.raise .chase else s

/-- A newer offer of deck `n`'s chase has replaced its outstanding seek (R103): the SEEK in exchange and the pending seek
at the deck are no longer that seek. -/
def Link.replaceSeek (l : Link) : Link :=
  { l with
    exchange := l.exchange.map fun e => if e.requester = .chase then { e with overtaken := true } else e
    seek := l.seek.map fun p => if p.requester = .chase then { p with live := false } else p }

/-- A command offered to deck `n`'s trim slot (R71), dropped while the link is ABSENT (R48). -/
def State.offerTrim (s : State) (n : Deck) (cmd : Option LinkCommand) : State :=
  match cmd with
  | none => s
  | some c =>
    if (s.deck n).link.state = .absent then s
    else
      s.onDeck n fun d => { d with link := d.link.replaceSeek, arbiter := { d.arbiter with trim := some c } }

/-- A sample of the slave handed to deck `n`'s controller (R89, R99). -/
def State.evaluateChase (s : State) (n : Deck) (x : Sample) : State :=
  let c := (s.deck n).chase
  if c.state = .off then s
  else
    let r := c.evaluate (s.deck n).settings x (s.masterAt c x.stamp)
    (s.moveChase n fun _ => r.1).offerTrim n r.2

/-- A sample of deck `m` handed to deck `n`'s controller as its master (R89, R98). -/
def State.masterSample (s : State) (m n : Deck) : State :=
  let c := (s.deck n).chase
  if c.master = some (.deck m) ∧ c.state = .wait then s.moveChase n fun c => { c with state := .seeking } else s

/-- The exchange and the pending seek of deck `n`'s chase no longer concern it (R102). -/
def Link.dropChase (l : Link) : Link :=
  { l with
    exchange := l.exchange.map fun e => if e.requester = .chase then { e with live := false } else e
    seek := l.seek.map fun p => if p.requester = .chase then { p with live := false } else p }

/-- Deck `n`'s trim slot emptied (R71). -/
def State.emptyTrim (s : State) (n : Deck) : State := s.onArbiter n fun a => { a with trim := none }

/-- A chase of deck `n` started (R95, R96); F_c is the F of the start. -/
def State.startChase (s : State) (n : Deck) (starter : Starter) (master : Master) (offset : Int)
    (origin : Option (Nat × Kind)) : State :=
  let s := s.moveChase n fun c => { c with state := .seeking }
  let started : Chase :=
    { state := .seeking, starter := some starter, master := some master, offset := some offset, origin := origin
      startField := if master = .timeline then some s.F else none
      lastSpeed := none, seek := none, lockCount := 0, lastCounted := none, unlockRun := 0, lastError := none
      lockDue := false }
  ((s.onChase n fun _ => started).onLink n Link.dropChase).emptyTrim n

/-- A chase of deck `n` ended (R107); nothing when it is OFF. -/
def State.endChase (s : State) (n : Deck) : State :=
  if (s.deck n).chase.state = .off then s
  else
    ((s.moveChase n fun c =>
      { c with state := .off, seek := none, lastSpeed := none, lockCount := 0, unlockRun := 0, lockDue := false }).onLink
        n Link.dropChase).emptyTrim n

/-- A chase command's frame begun (R102): the last speed sent. -/
def Chase.begun (c : Chase) (cmd : LinkCommand) : Chase :=
  match cmd with
  | .runVar v => { c with lastSpeed := some v }
  | .wind v => { c with lastSpeed := some v }
  | .run => { c with lastSpeed := some 1000 }
  | .halt => { c with lastSpeed := some 0 }
  | .seek _ _ => { c with lastSpeed := none }
  | _ => c

/-- A live chase exchange of deck `n` refused or failed (R102). -/
def State.chaseRejected (s : State) (n : Deck) (cmd : LinkCommand) : State :=
  s.onChase n fun c => { c with lastSpeed := none, seek := if cmd.isSeek then none else c.seek }

/-- The pending seek is the outstanding seek: begun in this chase and not replaced since (R102, R103, log entry 27). -/
def Chase.ownsSeek (c : Chase) (p : PendingSeek) : Bool := p.live && c.seek.isSome

/-- A chase seek of deck `n` completed (R103). -/
def State.chaseArrived (s : State) (n : Deck) (p : PendingSeek) : State :=
  let c := (s.deck n).chase
  if c.ownsSeek p then
    if c.seeking .park then
      s.moveChase n fun c => { c with state := .parked, lastSpeed := some 0, seek := none }
    else
      (s.moveChase n fun c => { c with state := .closing, lockCount := 0, seek := none }).offerTrim n (some .run)
  else s

/-- A chase seek of deck `n` ended unfinished (R103). -/
def State.chaseSeekFailed (s : State) (n : Deck) (p : PendingSeek) (superseded : Bool) : State :=
  if (s.deck n).chase.ownsSeek p then
    s.onChase n fun c => { c with seek := none, lastSpeed := if superseded then c.lastSpeed else none }
  else s

/-- The entry to LOCKED (R104). -/
def State.lockChase (s : State) (n : Deck) : State :=
  s.moveChase n fun c => { c with state := .locked, unlockRun := 0, lockDue := false }

/-- The release from LOCKED (R105). -/
def State.unlockChase (s : State) (n : Deck) : State :=
  s.moveChase n fun c => { c with state := .closing, lockCount := 0, unlockRun := 0 }

end Sys2Proof.Machine
end

