-- ==== Sys2Proof/Machine/Tracker.lean ====
section
/-!
DEFINITION. The position tracker (Chapter 5): judging words, accepting samples, quality, position requests, and the
handing on of samples.
-/

namespace Sys2Proof.Machine

/-! ## The tracker's own state -/

/-- A sample joins a history (R83): it replaces a newest entry of the same stamp, and 8 entries are kept. -/
def joinHistory (h : List Sample) (x : Sample) : List Sample :=
  match h with
  | [] => [x]
  | y :: ys => if y.stamp = x.stamp then x :: ys else (x :: y :: ys).take 8

/-- The speed estimate recomputed for a sample (R83): from the newest history entry 4 fields older or more, else kept. -/
def speedFrom (h : List Sample) (x : Sample) (v : Int) : Int :=
  match h.find? fun y => 4 ≤ fieldDiff x.stamp y.stamp with
  | none => v
  | some y =>
    clamp (-50000) 50000
      (roundDiv (1000 * sdiff x.kind.dayFields x.pos y.pos) (fieldDiff x.stamp y.stamp).toNat)

/-- A sample that has joined the history `h` accepted with speed `v` (R82). -/
def Tracker.accept (t : Tracker) (h : List Sample) (v : Int) (x : Sample) : Tracker :=
  match x.source with
  | .ltc =>
    { t with latest := some x, base := some x, history := h, v := v, kind := some x.kind, quality := .ltc
             lastWord := some x.stamp, flywheelCount := 0, candidate := none, limitDue := false }
  | _ =>
    { t with latest := some x, base := some x, history := h, v := v, kind := some x.kind, quality := .link
             candidate := none, limitDue := false }

/-- A sample accepted other than by a jump (R82, R83). The sample joins the history first, and v is then recomputed from
the history it has joined, so an entry that leaves as the ninth is not used (DEDUCED, log entry 53). -/
def Tracker.acceptPlain (t : Tracker) (h : List Sample) (x : Sample) : Tracker :=
  let joined := joinHistory h x
  t.accept joined (speedFrom joined x t.v) x

/-- The sample of a word (R77). -/
def wordSample (w : LtcWord) (f : FieldCount) : Sample :=
  let end_ : Int := match w.direction with
    | .forward => 2 * ((w.frame : Int) + 1)
    | .reverse => 2 * (w.frame : Int)
  ⟨displacePos w.kind 0 end_, w.kind, f, .ltc⟩

/-- A word's sample fits the candidate held (R81). -/
def fitsCandidate (c : Sample) (x : Sample) (dir : Direction) : Bool :=
  let run := fieldDiff x.stamp c.stamp
  let q : Int := match dir with
    | .forward => c.pos + run
    | .reverse => c.pos - run
  x.kind == c.kind && (sdiff x.kind.dayFields x.pos q).natAbs ≤ 2

/-- A word's sample is consistent with the prediction (R80 step 3), given a base sample of its kind. -/
def Tracker.consistent (t : Tracker) (x : Sample) : Bool :=
  match t.predict x.stamp with
  | none => false
  | some (p, k) => k == x.kind && (sdiff x.kind.dayFields x.pos p).natAbs ≤ 2

/-- A word is fresh (R80 step 2). -/
def Tracker.fresh (t : Tracker) (x : Sample) : Bool :=
  match t.base with
  | none => true
  | some b => b.kind != x.kind

/-- The jump of a word that fits the candidate `c` (R81). -/
def Tracker.jump (t : Tracker) (c x : Sample) (dir : Direction) : Tracker :=
  t.accept (joinHistory [c] x) (match dir with | .forward => 1000 | .reverse => -1000) x

/-- A word judged against the base sample (R80 steps 2 to 4): whether it is accepted. -/
def Tracker.judgeBase (t : Tracker) (x : Sample) (dir : Direction) : Bool × Tracker :=
  if t.fresh x then (true, t.acceptPlain [] x)
  else if t.consistent x then (true, t.acceptPlain t.history x)
  else (false, { t with candidate := some (x, dir) })

/-- A word judged (R80): whether it is accepted, and the tracker after. -/
def Tracker.judge (t : Tracker) (x : Sample) (dir : Direction) : Bool × Tracker :=
  match t.candidate with
  | some (c, _) => if fitsCandidate c x dir then (true, t.jump c x dir) else t.judgeBase x dir
  | none => t.judgeBase x dir

/-- FLYWHEEL quality left for LINK while the link is UP and for NONE otherwise, the candidate dropped (R84, R85). -/
def Tracker.leaveFlywheel (t : Tracker) (up : Bool) : Tracker :=
  { t with quality := if up then .link else .none, candidate := none, limitDue := false }

/-- A STATE reply examined (R87). -/
def Tracker.takeState (t : Tracker) (d : DeckState) : Tracker :=
  if !d.tapeIn then
    { t with quality := .none, base := none, history := [], candidate := none, v := 0, limitDue := false }
  else if d.mode = .stopped ∨ d.mode = .still ∨ d.mode = .standbyOff then
    { t with
      v := 0
      history := t.history.take 1
      candidate := none
      limitDue := false
      quality := match t.quality with
        | .ltc => .link
        | .flywheel => .link
        | q => q }
  else t

/-- The link enters DOWN or ABSENT (R86). -/
def Tracker.linkLost (t : Tracker) : Tracker :=
  if t.quality = .link then { t with quality := .none, candidate := none } else t

/-! ## The tracker in the part -/

/-- Deck `n`'s link is UP. -/
def State.linkUp (s : State) (n : Deck) : Bool := (s.deck n).link.state == .up

/-- A sample of deck `n` handed on (R89). -/
def State.handOn (s : State) (n : Deck) (x : Sample) : State :=
  let s := (s.evaluateChase n x).eachDeck fun m s => s.masterSample n m
  if x.source = .flywheel then s else s.compareMarks n x

/-- A word arrival at deck `n` (R76, R77, R80). -/
def State.takeWord (s : State) (n : Deck) (w : LtcWord) : State :=
  let x := wordSample w s.F
  let t := { (s.deck n).tracker with userBits := w.userBits, colour := w.colour }
  match t.judge x w.direction with
  | (true, t) => (s.onTracker n fun _ => t).handOn n x
  | (false, t) => s.onTracker n fun _ => t

/-- A POSITION reply handed to deck `n`'s tracker, with its arrival field (R78). -/
def State.takePosition (s : State) (n : Deck) (p : Option TapePosition) (f : FieldCount) : State :=
  let t := (s.deck n).tracker
  match t.quality, p with
  | .ltc, _ => s
  | .flywheel, _ => s
  | .none, none => s
  | .link, none => s.onTracker n fun t => { t with quality := .none }
  | _, some p =>
    let x : Sample := ⟨2 * p.frame + p.field.code, p.kind, f, .link⟩
    (s.onTracker n fun t => t.acceptPlain t.history x).handOn n x

/-- Deck `n` is in use (R88): claimed, chasing, or the master of a chase. -/
def State.inUse (s : State) (n : Deck) : Bool :=
  s.engine.claims.contains n || (s.deck n).chase.state != .off ||
    Deck.list.any fun m => m != n && (s.deck m).chase.state != .off && (s.deck m).chase.master == some (.deck n)

/-- Deck `n`'s position request set pending (R72): cleared at once while the link is ABSENT. -/
def State.requestPosition (s : State) (n : Deck) : State :=
  if (s.deck n).link.state = .absent then s else s.onArbiter n fun a => { a with positionRequest := true }

/-- The quality in which positions are requested (R88). -/
def Tracker.asks (t : Tracker) : Bool := t.quality == .link || t.quality == .none

/-- The position request of a frame boundary (R88). -/
def State.boundaryRequest (s : State) (n : Deck) : State :=
  if (s.deck n).tracker.asks && s.inUse n then s.requestPosition n else s

/-- The position request of a poll timer expiry (R88). -/
def State.pollRequest (s : State) (n : Deck) : State :=
  if (s.deck n).tracker.asks && !s.inUse n then s.requestPosition n else s

/-- The flywheel's act of a frame boundary (R85): within the limit a sample is made and handed on; beyond it the end of
FLYWHEEL is due. -/
def State.flywheelBoundary (s : State) (n : Deck) : State :=
  let t := (s.deck n).tracker
  if t.quality = .flywheel then
    let count := min 16 (t.flywheelCount + 1)
    if count ≤ (s.deck n).settings.flywheelLimit then
      match t.predict s.F with
      | none => s.onTracker n fun t => { t with flywheelCount := count }
      | some (p, k) =>
        let x : Sample := ⟨p, k, s.F, .flywheel⟩
        (s.onTracker n fun t => { t with flywheelCount := count, latest := some x }).handOn n x
    else s.onTracker n fun t => { t with flywheelCount := count, limitDue := true }
  else s

/-- The end of FLYWHEEL beyond the limit (R85), and the request of the same frame boundary (R88, 5.10). -/
def State.endFlywheel (s : State) (n : Deck) : State :=
  let up := s.linkUp n
  (s.onTracker n fun t => t.leaveFlywheel up).boundaryRequest n

/-- Three fields have passed since the last accepted word (R84). -/
def Tracker.gap (t : Tracker) (f : FieldCount) : Bool :=
  match t.quality, t.lastWord with
  | .ltc, some w => 3 ≤ fieldDiff f w
  | _, _ => false

/-- The gap's act (R84): FLYWHEEL, and at a frame boundary the act of R85; with a flywheel limit of 0 LINK or NONE at
once, and at a frame boundary the request of R88. -/
def State.enterFlywheel (s : State) (n : Deck) : State :=
  let boundary := s.timeline.field == .first
  if (s.deck n).settings.flywheelLimit = 0 then
    let up := s.linkUp n
    let s := s.onTracker n fun t => t.leaveFlywheel up
    if boundary then s.boundaryRequest n else s
  else
    let s := s.onTracker n fun t => { t with quality := .flywheel, flywheelCount := 0, limitDue := false }
    if boundary then s.flywheelBoundary n else s

end Sys2Proof.Machine
end

