-- ==== Sys2Proof/Machine/Ports.lean ====
section
/-!
DEFINITION. The ports (Chapter 2): the transmitter and the receiver as they move byte by byte, and the starts and stops
of each direction.
-/

namespace Sys2Proof.Machine

/-! ## Transmission -/

/-- A byte taken from the owner (R23), given that the port takes one: it enters holding, and moves to an empty shift at
once. -/
def Transmitter.accept (t : Transmitter) (b : TxByte) : Transmitter :=
  match t.shift with
  | none => { t with shift := some b, state := .sending }
  | some _ => { t with holding := some b }

/-- The owner places the next byte of its frame (R23): none is taken in OFF or while the holding byte is present. The
last byte carries the final mark. -/
def Transmitter.placeNext (t : Transmitter) : Transmitter :=
  if t.state = .off ∨ t.holding.isSome then t
  else
    match t.outgoing with
    | [] => t
    | b :: rest => { t with outgoing := rest }.accept ⟨b, rest.isEmpty⟩

/-- A frame begun on an IDLE port: its first byte placed, the rest kept by the owner (R22, R36). -/
def Transmitter.start (t : Transmitter) (frame : List Byte) : Transmitter := { t with outgoing := frame }.placeNext

/-- The shift byte's last stop bit ends (R24): the transmitter after, and whether the frame is sent (R25). -/
def Transmitter.characterEnd (t : Transmitter) : Transmitter × Bool :=
  match t.shift, t.holding with
  | none, _ => (t, false)
  | some _, some h => ({ t with shift := some h, holding := none }, false)
  | some b, none => ({ t with shift := none, state := .idle }, b.final)

/-- The transmit side with its enable clear (R31): OFF, every byte gone. -/
def Transmitter.stopped : Transmitter := ⟨.off, none, none, []⟩

/-- The transmit side newly enabled or restarted (R31, R33): IDLE, every byte gone. -/
def Transmitter.started : Transmitter := ⟨.idle, none, none, []⟩

/-- The transmit side set by a transmit enable. -/
def Transmitter.enabled (on : Bool) : Transmitter := if on then .started else .stopped

/-- A byte is on the line: the shift byte is present (R24). -/
def Transmitter.busy (t : Transmitter) : Bool := t.shift.isSome

/-! ## The character on the line (R21) -/

/-- The number of 1s among the bits of a byte and a parity bit (R21). -/
def onesCount (data : Byte) (p : Bool) : Nat :=
  ((List.range 8).filter fun i => data.getLsbD i).length + p.toNat

/-- The parity bit sent with a byte, when one is sent (Table 2-2, R21). -/
def Parity.bit (setting : Parity) (data : Byte) : List Bool :=
  match setting with
  | .none => []
  | .odd => [onesCount data false % 2 == 0]
  | .even => [onesCount data false % 2 == 1]
  | .zero => [false]

/-- The bits of a transmitted character in line order, mark as true: one start bit at space, the data bits with the least
significant first, the parity bit, one or two stop bits at mark (R20, R21). -/
def PortSettings.character (p : PortSettings) (data : Byte) : List Bool :=
  false :: ((List.range 8).map data.getLsbD ++ p.parity.bit data ++ List.replicate (if p.twoStopBits then 2 else 1) true)

/-- What a port sends: the bits of its shift byte's character, each for one bit period (R21, R23). With the shift byte
absent the line rests at mark. -/
def PortSettings.line (p : PortSettings) (t : Transmitter) : List Bool :=
  match t.shift with
  | none => []
  | some b => p.character b.data

/-- The character on the line of a port, none at mark. -/
def State.sentOn (s : State) (p : PortId) : List Bool :=
  match p with
  | .deck n => (s.deck n).port.line (s.deck n).tx
  | .ep => s.ep.port.line s.ep.tx

/-! ## Reception -/

/-- A data bit sampled into the receive shift: the first bit sampled comes to stand lowest (R27). -/
def shiftIn (r : Byte) (b : Bool) : Byte := BitVec.cons b (r.extractLsb' 1 7)

/-- The receive shift after the eight data bits of a character (R27). -/
def receiveShift (r : Byte) (samples : BitVec 8) : Byte :=
  (List.range 8).foldl (fun r i => shiftIn r (samples.getLsbD i)) r

/-- The parity mark of a received character (R28). -/
def parityMark (setting : Parity) (data : Byte) (p : Bool) : Bool :=
  match setting with
  | .odd => onesCount data p % 2 == 0
  | .even => onesCount data p % 2 == 1
  | .none => false
  | .zero => false

/-- A completed byte delivered (R29): held with its marks, or discarded with the held byte's overrun mark set. -/
def Receiver.deliver (r : Receiver) (data : Byte) (parity framing : Bool) : Receiver :=
  match r.holding with
  | none => { r with holding := some ⟨data, parity, framing, false⟩ }
  | some b => { r with holding := some { b with overrun := true } }

/-- A character sampled to its stop bit in RECEIVING: bit i of `samples` is the line at the centre of the bit period i + 1
after the start bit's, `parity` and `stop` those that follow (R27 to R29). No character completes in another state (log
entry 18). -/
def Receiver.arrive (r : Receiver) (setting : Parity) (samples : BitVec 8) (parity stop : Bool) : Receiver :=
  if r.state = .receiving then
    let data := receiveShift r.shift samples
    { r.deliver data (parityMark setting data parity) (!stop) with
      state := if stop then .ready else .settling
      shift := data }
  else r

/-- The line has rested at mark for one receive character time (R26). -/
def Receiver.settled (r : Receiver) : Receiver := if r.state = .settling then { r with state := .ready } else r

/-- A fall of the line to space (R26, R27): a start in READY; in SETTLING the interval begins again. -/
def Receiver.fall (r : Receiver) : Receiver := if r.state = .ready then { r with state := .receiving } else r

/-- A start bit sampled at mark (R27). -/
def Receiver.falseStart (r : Receiver) : Receiver := if r.state = .receiving then { r with state := .ready } else r

/-- The receive side after a change of its enable (R30): the held byte is kept, the bits sampled so far discarded. -/
def Receiver.enabled (r : Receiver) (on : Bool) : Receiver :=
  { r with state := if on then .settling else .disabled, shift := 0 }

/-- The receive side after a port restart (R33). -/
def Receiver.restarted (on : Bool) : Receiver := ⟨if on then .settling else .disabled, none, 0⟩

end Sys2Proof.Machine
end

