-- ==== Sys2Proof/Machine/Effects.lean ====
section
/-!
DEFINITION. The transition generator and the effects port (Chapter 9).
-/

namespace Sys2Proof.Machine

/-! ## Positions and contents -/

/-- p(k) of a transition of N fields (R156), for 0 ≤ k < N. -/
def transitionPosition (curve : Curve) (n k : Nat) : Nat :=
  match curve with
  | .linear => (1023 * k + n / 2) / n
  | .sCurve => (1023 * k ^ 2 * (3 * n - 2 * k) + n ^ 3 / 2) / n ^ 3

/-- The content before the transition (R155). -/
def GeneratorEvent.before (g : GeneratorEvent) : Content :=
  ⟨g.programSource, g.presetSource, .none, g.pattern, 0⟩

/-- The content after the handover (R156) or the cut (R157). -/
def GeneratorEvent.after (g : GeneratorEvent) : Content :=
  ⟨g.presetSource, g.presetSource, .none, g.pattern, 0⟩

/-- The content in CARRYING at field `f` (R155 to R157). -/
def GeneratorEvent.content (g : GeneratorEvent) (f : FieldCount) : Content :=
  let k := fieldDiff f g.fT
  if !g.twoSources ∨ k < 0 then g.before
  else
    match g.transition with
    | .cut => g.after
    | .dissolve =>
      if k < g.n then ⟨g.programSource, g.presetSource, .mix, g.pattern, transitionPosition g.curve g.n k.toNat⟩
      else g.after
    | .wipe =>
      if k < g.n then ⟨g.programSource, g.presetSource, .wipe, g.pattern, transitionPosition g.curve g.n k.toNat⟩
      else g.after

/-- The 9 bytes of a field frame (Tables 9-2, 12-18). -/
def fieldFrame (sequence : Byte) (c : Content) : List Byte :=
  let body := [sequence, byte c.program, byte c.preset, byte c.kind.code, byte c.pattern] ++ half c.position
  (0x9A : Byte) :: (body ++ [checkByte body])

/-! ## The generator -/

/-- The content brought up to date at field `f` (R150). -/
def Generator.update (g : Generator) (f : FieldCount) : Generator :=
  match g.state, g.event with
  | .carrying, some e => { g with content := e.content f }
  | _, _ => g

/-- A field tick (R150): the content brought up to date, then a frame begun on an IDLE EP with no frame in progress. -/
def State.fieldFrameTick (s : State) : State :=
  let s := s.onGenerator fun g => g.update s.F
  if s.ep.tx.state = .idle ∧ !s.generator.inProgress then
    { s with
      ep := { s.ep with tx := s.ep.tx.start (fieldFrame s.generator.sequence s.generator.content) }
      generator := { s.generator with inProgress := true } }
  else s

/-- The frame-sent of a field frame (R151). -/
def Generator.frameSent (g : Generator) : Generator :=
  { g with sequence := g.sequence + 1, inProgress := false }

/-- The frame in progress cut off (R152). -/
def Generator.abandonFrame (g : Generator) : Generator := { g with inProgress := false }

/-- The event record handed over at the roll (R149, R155): CARRYING, the content computed at once. -/
def Generator.carry (g : Generator) (e : GeneratorEvent) (f : FieldCount) : Generator :=
  { g with state := .carrying, event := some e, content := e.content f }

/-- The engine enters ABORTING (R149, R158). -/
def Generator.freeze (g : Generator) : Generator :=
  if g.state = .carrying then { g with state := .frozen } else g

/-- The event completes (R149, R154). -/
def Generator.rest (g : Generator) : Generator :=
  { g with state := .rest, event := none, content := .idle }

end Sys2Proof.Machine
end

