-- ==== Sys2Proof/Machine/EngineBase.lean ====
section
/-!
DEFINITION. The edit engine's shared acts (Chapter 8): offers to the engine queues, entry to ABORTING, the result
fields and the progress writes.
-/

namespace Sys2Proof.Machine

/-! ## Engine queues (R70) -/

/-- A request offered to deck `n`'s engine queue: whether it was queued. A full queue hands it back with QUEUE_FULL,
severity 2, offered to the deck's capture. -/
def State.offerEngine (s : State) (n : Deck) (r : EngineRequest) : Bool × State :=
  if (s.deck n).arbiter.engineQueue.length < 4 then
    (true, s.onArbiter n fun a => { a with engineQueue := a.engineQueue ++ [r] })
  else (false, s.offerDeck n 2 .queueFull 0)

/-- Deck `n`'s engine queue emptied, its requests discarded without an outcome. -/
def State.emptyEngineQueue (s : State) (n : Deck) : State := s.onArbiter n fun a => { a with engineQueue := [] }

/-- Deck `n` is claimed (R127). -/
def State.claimed (s : State) (n : Deck) : Bool := s.engine.claims.contains n

/-! ## States and punches -/

/-- CUEING through POSTROLL: the states in which an abort cause can act (R143). -/
def EngineState.running : EngineState → Bool
  | .cueing => true
  | .cued => true
  | .rolling => true
  | .synced => true
  | .recording => true
  | .postroll => true
  | _ => false

/-- No event runs: IDLE or HELD. -/
def EngineState.atRest : EngineState → Bool
  | .idle => true
  | .held => true
  | _ => false

/-- The punch's window is open: status WINDOW or QUEUED (R135). -/
def Punch.inWindow (p : Punch) : Bool := p.status == .window || p.status == .queued

/-- The punch has been sent: its frame has been begun (R134). -/
def Punch.sent (p : Punch) : Bool := p.actual.isSome

/-- The entry of a name. -/
def PunchPlan.get (p : PunchPlan) : PunchId → Option Punch
  | .video => p.video
  | .audio => p.audio
  | .out => p.out

/-- The plan with one entry replaced. -/
def PunchPlan.set (p : PunchPlan) (i : PunchId) (x : Option Punch) : PunchPlan :=
  match i with
  | .video => { p with video := x }
  | .audio => { p with audio := x }
  | .out => { p with out := x }

/-- Some entry holds the punch window open (R135). -/
def PunchPlan.window (p : PunchPlan) : Bool :=
  p.video.any Punch.inWindow || p.audio.any Punch.inWindow || p.out.any Punch.inWindow

/-- A PUNCH-IN has been sent and no PUNCH-OUT has been begun (R144 step 3). -/
def PunchPlan.open (p : PunchPlan) : Bool :=
  (p.video.any Punch.sent || p.audio.any Punch.sent) && !p.out.any Punch.sent

/-- The status of one entry moved. -/
def State.setPunch (s : State) (i : PunchId) (status : PunchStatus) : State :=
  s.onEngine fun e => { e with punches := e.punches.set i ((e.punches.get i).map fun p => { p with status := status }) }

/-- The recorder of the running event. -/
def State.recorder (s : State) : Option Deck := s.engine.working.map Event.recorder

/-- The punch window of deck `n` is open: it is the event's recorder, and some entry is in its window (R73, R135). The
window closes on entry to ABORTING. -/
def State.punchWindow (s : State) (n : Deck) : Bool :=
  s.recorder == some n && s.engine.state != .aborting && s.engine.punches.window

/-! ## Results (Table 12-11) -/

/-- The suite-memory offset of an event slot. -/
def State.eventSlot (s : State) (i : Fin 64) : Nat := 16 * s.iface.bases.edit + 64 * i.val

/-- The two sync flag bits of one deck. -/
def syncCode : Option SyncResult → Nat
  | none => 0
  | some r => if r.locked then 1 else if r.error.isSome then 2 else 3

/-- The sync error of one deck: 0 when not a deck or not checked. -/
def syncErrorBytes : Option SyncResult → List Byte
  | none => half 0
  | some r => errorBytes r.error

/-- Byte 33. -/
def Results.syncFlags (r : Results) : Nat :=
  syncCode r.syncRecorder + 4 * syncCode r.syncA + 16 * syncCode r.syncB + 64 * r.advisory.toNat

/-- A punch's results are known: it has been begun, answered or abandoned (log entry 15). -/
def Punch.known (p : Punch) : Bool := p.status != .planned && p.status != .window && p.status != .queued

/-- The five result bytes of a punch: planned field, actual field, lateness up to 255 (R136, R195). -/
def punchBytes (p : Option Punch) : List Byte :=
  match p with
  | none => half 0 ++ half 0 ++ [0]
  | some p =>
    if p.known then
      match p.actual with
      | none => halfOfField p.planned ++ half 0 ++ [0]
      | some a => halfOfField p.planned ++ halfOfField a ++ [byte (min 255 (fieldDiff a p.planned).toNat)]
    else half 0 ++ half 0 ++ [0]

/-- The offset of a punch's result bytes within the event record. -/
def punchOffset : PunchId → Nat
  | .video => 44
  | .audio => 49
  | .out => 54

/-- The sent flag of a punch. -/
def punchSent (p : Option Punch) : Nat := (p.any fun p => p.known && p.sent).toNat

/-- Byte 42. -/
def PunchPlan.flags (p : PunchPlan) : Nat := punchSent p.video + 2 * punchSent p.audio + 4 * punchSent p.out

/-- Bytes 59 to 63: the actual out with its kind flag, zero when there is none. -/
def Engine.actualOutBytes (e : Engine) : List Byte :=
  match e.results.actualOut, e.working with
  | some n, some w => addrBytes (addrOf w.recordKind n) ++ [byte w.recordKind.flag]
  | _, _ => [0, 0, 0, 0, 0]

/-- Bytes 30 to 42. -/
def Engine.resultHead (e : Engine) (reached : Nat) (fault : FaultCode) (completion : List Byte) : List Byte :=
  [byte reached, byte fault.num, 0, byte e.results.syncFlags] ++ completion ++ syncErrorBytes e.results.syncRecorder
    ++ syncErrorBytes e.results.syncA ++ syncErrorBytes e.results.syncB ++ [byte e.punches.flags]

/-- Bytes 44 to 63. -/
def Engine.resultTail (e : Engine) : List Byte :=
  punchBytes e.punches.video ++ punchBytes e.punches.audio ++ punchBytes e.punches.out ++ e.actualOutBytes

/-- Bytes 30 to 63 whole. -/
def Engine.resultWhole (e : Engine) (reached : Nat) (fault : FaultCode) (completion : List Byte) : List Byte :=
  e.resultHead reached fault completion ++ [0] ++ e.resultTail

/-- The result fields of one punch (R136): byte 42 and the punch's five bytes, each with its offset in the record. -/
def Engine.punchFields (e : Engine) (i : PunchId) : List (Nat × List Byte) :=
  [(42, [byte e.punches.flags]), (punchOffset i, punchBytes (e.punches.get i))]

/-- The reached state that a first result write gives: the state entered, and in ABORTING, CUEING (R145). -/
def EngineState.firstReached (st : EngineState) : Nat :=
  if st = .aborting then EngineState.cueing.code else st.code

/-- The writes of result fields into slot `slot`, each field an offset within the record and its bytes. The first result
write of the event is made whole, bytes 30 to 63 (R195). -/
def State.resultWrites (s : State) (slot : Fin 64) (fields : List (Nat × List Byte)) : List (Nat × List Byte) :=
  let a := s.eventSlot slot
  if s.engine.results.reached.isNone then
    [(a + 30, s.engine.resultWhole s.engine.state.firstReached .none (half 0))]
  else fields.map fun (o, b) => (a + o, b)

/-! ## Entry to ABORTING (R144) -/

/-- Entries in their windows abandoned (R144 step 2); a PUNCH-OUT still PLANNED is dropped with the schedule. -/
def PunchPlan.abandonOpen (p : PunchPlan) : PunchPlan :=
  let drop (x : Punch) : Punch := if x.inWindow then { x with status := .abandoned } else x
  ⟨p.video.map drop, p.audio.map drop, p.out.map drop⟩

/-- The results of punch `i`, which the abort has abandoned, written into the taken slot (R136). The engine is in ABORTING,
where a write that fails is not repeated (R125). -/
def State.writeAbandoned (s : State) (i : PunchId) : State :=
  match s.engine.takenSlot with
  | none => s
  | some slot => (s.writeAll (s.resultWrites slot (s.engine.punchFields i))).2

/-- Step 2 of an abort (R144): every entry in its window abandoned, then the results of each written (R136). -/
def State.abandonPunches (s : State) : State :=
  let old := s.engine.punches
  let s := s.onEngine fun e => { e with punches := e.punches.abandonOpen }
  [PunchId.video, .audio, .out].foldl
    (fun s i => if (old.get i).any Punch.inWindow then s.writeAbandoned i else s) s

/-- The abort's own PUNCH-OUT, offered when a PUNCH-IN has been sent and no PUNCH-OUT begun (R144 step 3); its planned
field is the F of the entry (R145). -/
def State.abortPunchOut (s : State) : State :=
  match s.recorder with
  | none => s
  | some r =>
    if s.engine.punches.open then
      let entry : Punch := ⟨15, s.F, .queued, none⟩
      ((s.offerEngine r ⟨.punchOut 15, true, some .out⟩).2).onEngine fun e =>
        { e with punches := { e.punches with out := some entry } }
    else s

/-- An act done for each claimed deck, in the order recorder, A, B. -/
def State.eachClaimed (s : State) (f : State → Deck → State) : State := s.engine.claims.foldl f s

/-- The event aborted with `code` in CUEING through POSTROLL; no effect in any other state (R143, R144). -/
def State.abort (s : State) (code : FaultCode) : State :=
  if s.engine.state.running then
    let s := s.onEngine fun e => { e with state := .aborting, abortCode := some code, rollDue := false }
    let s := s.eachClaimed fun s d => s.emptyEngineQueue d
    let s := s.abandonPunches
    let s := s.abortPunchOut
    let s := s.eachClaimed fun s d => (s.offerEngine d ⟨.halt, true, none⟩).2
    let s := s.onEngine fun e => { e with haltsAwaited := e.claims }
    let s := s.eachClaimed State.endChase
    let s := s.onGenerator Generator.freeze
    s.onEngine fun e =>
      { e with triggers := e.triggers.map fun t => if t.status = .planned then { t with status := .cancelled } else t }
  else s

/-! ## Progress writes (R125) -/

/-- A progress write of result fields into the taken slot (R125). An outcome taken in ABORTING makes none: the completion
writes its fields (log entry 36). A failed write aborts the event in CUEING through POSTROLL; what of the act that made
the write is then still done is log entry 47. -/
def State.progress (s : State) (fields : List (Nat × List Byte)) : State :=
  match s.engine.takenSlot with
  | none => s
  | some slot =>
    if s.engine.state = .aborting then s
    else
      match s.writeAll (s.resultWrites slot fields) with
      | (true, s) => s
      | (false, s) => s.abort .memoryLimit

/-- The engine enters a running state after CUEING: the reached state is written, and kept as last written when the
write was made (R125). A write that fails aborts the event, and the cause and the offers of the entry are still made
(log entry 47). At the entry to ENDING the engine is in ENDING when the write is made: one that fails is not repeated and
aborts nothing (DEDUCED, log entry 58). -/
def State.enterRunning (s : State) (st : EngineState) : State :=
  match s.engine.takenSlot with
  | none => s.onEngine fun e => { e with state := st }
  | some slot =>
    let s := s.onEngine fun e => { e with state := st }
    let a := s.eventSlot slot
    let write := if s.engine.results.reached.isNone
      then (a + 30, s.engine.resultWhole st.code .none (half 0)) else (a + 30, [byte st.code])
    match s.writeMem write.1 write.2 with
    | (true, s) => s.onEngine fun e => { e with results := { e.results with reached := some st } }
    | (false, s) => s.abort .memoryLimit

end Sys2Proof.Machine
end

