-- ==== Sys2Proof/Machine/CommandList.lean ====
section
/-!
DEFINITION. The command list unit (4.1 to 4.4): validating and taking records, examining the head, completing records.
-/

namespace Sys2Proof.Machine

/-! ## Validation (R61) -/

/-- The bound on the magnitude of a CHASE offset. -/
def chaseOffsetLimit : Standard → Nat
  | .s525 => 1294704
  | .s625 => 1080000

/-- A motion command whose argument passes, else the offset of its first failing field. -/
def motionIf (ok : Bool) (field : Nat) (c : LinkCommand) : Except Nat HostCommand :=
  if ok then .ok (.motion c) else .error field

/-- A SEEK's argument (Table 12-9). -/
def parseSeek (std : Standard) (r : List Byte) : Except Nat HostCommand :=
  match hostAddress std (addrAt r 4) (byteAt r 8) with
  | none => .error 4
  | some (_, k) => .ok (.motion (.seek (addrAt r 4) (k == .df525)))

/-- A punch's channel mask: V, A1, A2, TC, at least one and no other bit. -/
def maskOk (m : Nat) : Bool := 1 ≤ m && m ≤ 15

/-- A CHASE's argument, for a record of deck `n` (Table 12-9). -/
def parseChase (std : Standard) (n : Deck) (r : List Byte) : Except Nat HostCommand :=
  let offset := signed 32 (wordAt r 5)
  let offsetOk : Bool := offset.natAbs < chaseOffsetLimit std
  if byteAt r 4 = 0x80 then
    if !offsetOk then .error 5
    else
      match hostAddress std (addrAt r 9) (byteAt r 13) with
      | none => .error 9
      | some o => .ok (.chase .timeline offset (some o))
  else
    match Deck.ofNum? (byteAt r 4) with
    | none => .error 4
    | some m => if m = n then .error 4 else if !offsetOk then .error 5 else .ok (.chase (.deck m) offset none)

/-- A command record of deck `n` validated: its command, or the offset of the first field found bad (R61). -/
def parseRecord (std : Standard) (n : Deck) (r : List Byte) : Except Nat HostCommand :=
  match byteAt r 1 with
  | 0x01 => .ok (.motion .halt)
  | 0x02 => .ok (.motion .run)
  | 0x03 => let v := signed 16 (halfAt r 4); motionIf (v.natAbs ≤ 3000) 4 (.runVar v)
  | 0x04 => let v := signed 32 (wordAt r 4); motionIf (v.natAbs ≤ 50000) 4 (.wind v)
  | 0x05 => parseSeek std r
  | 0x06 => motionIf (byteAt r 4 ≤ 1) 4 (.standby (byteAt r 4 == 1))
  | 0x07 => motionIf (maskOk (byteAt r 4)) 4 (.punchIn (BitVec.ofNat 4 (byteAt r 4)))
  | 0x08 => motionIf (maskOk (byteAt r 4)) 4 (.punchOut (BitVec.ofNat 4 (byteAt r 4)))
  | 0x20 => parseChase std n r
  | 0x21 => .ok .unchase
  | 0x22 => .ok .clearFault
  | _ => .error 1

/-! ## Completion (R68) -/

/-- The results a record completes with (Table 4-5). -/
structure HostResult where
  done : Bool
  /-- The final reply: 0 none, 0x40 TAKEN, 0x41 REFUSED. -/
  reply : Nat
  reason : Nat
  fault : FaultCode
  field : Nat
  deriving DecidableEq, Repr

/-- A record completed DONE with the given final reply. -/
def HostResult.ok (reply : Nat) : HostResult := ⟨true, reply, 0, .none, 0⟩

/-- A record completed FAULTED with no final reply. -/
def HostResult.failed (code : FaultCode) : HostResult := ⟨false, 0, 0, code, 0⟩

/-- A record answered REFUSED. -/
def HostResult.refused (r : RefusalReason) : HostResult := ⟨false, 0x41, r.code, .deckRefused, 0⟩

/-- A SEEK that ended unfinished. -/
def HostResult.unfinished (code : FaultCode) : HostResult := ⟨false, 0x40, 0, code, 0⟩

/-- The result fields of a command record, bytes 4 to 9 (Table 12-8). -/
def HostResult.bytes (r : HostResult) (f : FieldCount) : List Byte :=
  [byte r.reply, byte r.reason, byte r.fault.num, byte r.field] ++ halfOfField f

/-- The record blocks the head (Table 4-3). -/
def HoldStatus.blocks : HoldStatus → Bool
  | .chosen => true
  | .engine => true
  | _ => false

/-- The head of a host queue: its oldest WAITING record (R63). -/
def CommandList.head (l : CommandList) : Option HeldRecord := l.queue.find? fun h => h.status == .waiting

/-- The head is blocked (R63). -/
def CommandList.blocked (l : CommandList) : Bool := l.queue.any fun h => h.status.blocks

/-- The record leaves the queue; a place becomes free, which starts a scan whether or not the completion's writes were
made (log entry 44), and the head is examined when the record blocked the head or was it (R63, R68). -/
def CommandList.remove (l : CommandList) (h : HeldRecord) : CommandList :=
  { l with queue := l.queue.erase h, rescan := true
           examine := l.examine || h.status.blocks || l.head == some h }

/-- A held record of deck `n` completes (R68): result fields, host tag, state, then the cause. After a failed write no
cause is raised; the record leaves the queue all the same (R62). -/
def State.completeRecord (s : State) (n : Deck) (h : HeldRecord) (r : HostResult) : State :=
  let s :=
    match s.writeAll [(h.offset + 4, r.bytes s.F), (h.offset + 2, half h.tag.toNat),
      (h.offset, [byte (if r.done then 3 else 4)])] with
    | (true, s) => s.raise (if r.done then .deckDone else .deckFault)
    | (false, s) => s
  s.onList n fun l => l.remove h

/-- A completion whose fault the command list unit offers, with the slot's offset (Table 4-5). The offer is made before
the completion's writes, and whether or not they are made (log entry 45). -/
def State.completeOffered (s : State) (n : Deck) (h : HeldRecord) (r : HostResult) (severity : Nat) : State :=
  (s.offerDeck n severity r.fault h.offset).completeRecord n h r

/-! ## The scan (R59, R60) -/

/-- The offset of slot `i` of deck `n`'s ring, at the base in force. -/
def State.ringSlot (s : State) (n : Deck) (i : Fin 16) : Nat := 16 * s.iface.bases.deck.get n + 16 * i.val

/-- A valid record joins the tail of the queue; it becomes the head when no record was WAITING (R60, R63). -/
def CommandList.join (l : CommandList) (h : HeldRecord) : CommandList :=
  { l with queue := l.queue ++ [h], nextSlot := l.nextSlot + 1, examine := l.examine || l.head.isNone }

/-- A record found invalid refused (R60 step 4): whether every write was made. -/
def State.refuseRecord (s : State) (n : Deck) (a field : Nat) : Bool × State :=
  let r : HostResult := ⟨false, 0, 0, .badCommand, field⟩
  match s.writeAll [(a + 4, r.bytes s.F), (a, [4])] with
  | (false, s) => (false, s)
  | (true, s) =>
    (true, ((s.offerDeck n 2 .badCommand a).raise .deckFault).onList n fun l => { l with nextSlot := l.nextSlot + 1 })

/-- One slot of a scan whose state has been read as POSTED, with room in the queue: whether the scan goes on. -/
def State.takeSlot (s : State) (n : Deck) (a : Nat) : Bool × State :=
  match s.readMem a 16 with
  | (none, s) => (false, s)
  | (some r, s) =>
    match parseRecord s.standard n r with
    | .error field => s.refuseRecord n a field
    | .ok c =>
      match s.writeMem a [2] with
      | (false, s) => (false, s)
      | (true, s) => (true, s.onList n fun l => l.join ⟨a, BitVec.ofNat 16 (halfAt r 2), c, .waiting⟩)

/-- The slots of a scan from the next-slot index on (R60), `fuel` of them at most. Each slot taken or refused is left
not POSTED, so that 17 reach the end of every scan. -/
def State.scanSlots (s : State) (n : Deck) : Nat → State
  | 0 => s
  | fuel + 1 =>
    let a := s.ringSlot n (s.deck n).list.nextSlot
    match s.readMem a 1 with
    | (none, s) => s
    | (some st, s) =>
      if byteAt st 0 ≠ 1 ∨ 4 ≤ (s.deck n).list.queue.length then s
      else
        match s.takeSlot n a with
        | (true, s) => s.scanSlots n fuel
        | (false, s) => s

/-- A start of deck `n`'s scan acted on (R59): attention bit n cleared and the ring read, or the start deferred before
the first configuration. -/
def State.scan (s : State) (n : Deck) : State :=
  let s := s.onList n fun l => { l with rescan := false }
  if s.iface.configured then (s.setAttention n.num false).scanSlots n 17
  else s.onList n fun l => { l with deferred := true }

/-! ## The head (R63 to R67) -/

/-- The oldest WAITING record of a queue given a status. -/
def markHead (status : HoldStatus) : List HeldRecord → List HeldRecord
  | [] => []
  | h :: rest => if h.status = .waiting then { h with status := status } :: rest else h :: markHead status rest

/-- How the engine's HALT ended, as the result of a host HALT record (R66). -/
def EngineOutcome.hostResult : EngineOutcome → HostResult
  | .taken => .ok 0x40
  | .refused r => .refused r
  | .faulted code => .failed code

/-- A host HALT record in status ENGINE completed from the engine's HALT to deck `n` (R66); a refusal is offered by the
command list unit, as for any record answered REFUSED (log entry 37). -/
def State.completeFromEngine (s : State) (n : Deck) (o : EngineOutcome) : State :=
  match (s.deck n).list.queue.find? fun h => h.status == .engine with
  | none => s
  | some h =>
    match o with
    | .refused _ => s.completeOffered n h o.hostResult 2
    | _ => s.completeRecord n h o.hostResult

/-- A host HALT at the head of a claimed deck's queue (R66). -/
def State.hostHalt (s : State) (n : Deck) : State :=
  let s := (s.onList n fun l => { l with queue := markHead .engine l.queue }).abort .hostHalt
  match s.engine.haltOutcome.get n with
  | none => s
  | some o => s.completeFromEngine n o

/-- A record for a claimed deck refused (R65). -/
def State.refuseClaimed (s : State) (n : Deck) (h : HeldRecord) : State :=
  s.completeOffered n h (.failed .deckClaimed) 2

/-- A motion command at the head of a deck that is not claimed (Table 4-4, rows 3 and 5 to 7). -/
def State.examineMotion (s : State) (n : Deck) (h : HeldRecord) (c : LinkCommand) : State :=
  let d := s.deck n
  let punchIn : Bool := match c with
    | .punchIn _ => true
    | _ => false
  if punchIn ∧ d.settings.role ≠ .recorder then s.completeOffered n h ⟨false, 0, 0, .badCommand, 1⟩ 2
  else if d.link.state = .absent ∨ d.link.state = .down then s.completeOffered n h (.failed .linkDown) 3
  else s.endChase n

/-- Deck `n`'s head examined (R63): the first row of Table 4-4 that fits. -/
def State.examineHead (s : State) (n : Deck) : State :=
  let s := s.onList n fun l => { l with examine := false }
  let l := (s.deck n).list
  match l.head, l.blocked with
  | none, _ => s
  | some _, true => s
  | some h, false =>
    match h.command with
    | .motion .halt => if s.claimed n then s.hostHalt n else s.examineMotion n h .halt
    | .motion c => if s.claimed n then s.refuseClaimed n h else s.examineMotion n h c
    | .chase master offset origin =>
      if s.claimed n then s.refuseClaimed n h
      else (s.startChase n .host master offset origin).completeRecord n h (.ok 0)
    | .unchase =>
      if s.claimed n then s.refuseClaimed n h else (s.endChase n).emptyTrim n |>.completeRecord n h (.ok 0)
    | .clearFault => (s.onDeck n fun d => { d with capture := .empty }).completeRecord n h (.ok 0)

/-- The starts and examinations of deck `n` acted on until none is left; a deck whose link is entering DOWN waits for
that entry. A scan is finished, its refusals included, before the record that became the head in it is examined, an order
R63 leaves open (DESIGN CHOICE, log entry 50). After a completion the scan comes before the examination, as in Table 4-9,
where the text of R68 names them the other way round (DEDUCED, log entry 57). Each round makes a start or an examination; 64 rounds exceed what 4 held
records and a ring of 16 slots can ask for. -/
def State.serviceRounds (s : State) (n : Deck) : Nat → State
  | 0 => s
  | fuel + 1 =>
    let l := (s.deck n).list
    if l.rescan then (s.scan n).serviceRounds n fuel
    else if l.examine then (s.examineHead n).serviceRounds n fuel
    else s

/-- Deck `n`'s command list brought up to date, after the act that asked for it; while the link is about to enter DOWN,
after that entry (DESIGN CHOICE, log entry 55). -/
def State.service (s : State) (n : Deck) : State :=
  if (s.deck n).link.downDue then s else s.serviceRounds n 64

/-- An event of R63: deck `n`'s head is to be examined. -/
def State.examineSoon (s : State) (n : Deck) : State := s.onList n fun l => { l with examine := true }

/-! ## Outcomes handed to the unit (R45, R50, R51) -/

/-- The CHOSEN record of deck `n`. -/
def CommandList.chosen (l : CommandList) : Option HeldRecord := l.queue.find? fun h => h.status == .chosen

/-- The SEEKING record of deck `n`. -/
def CommandList.seeking (l : CommandList) : Option HeldRecord := l.queue.find? fun h => h.status == .seeking

/-- A queue's CHOSEN record given status SEEKING. -/
def markSeeking : List HeldRecord → List HeldRecord
  | [] => []
  | h :: rest => if h.status = .chosen then { h with status := .seeking } :: rest else h :: markSeeking rest

/-- A host exchange of deck `n` ended TAKEN (R68): a SEEK waits on its pending seek, any other record is DONE. -/
def State.hostTaken (s : State) (n : Deck) (c : LinkCommand) : State :=
  match (s.deck n).list.chosen with
  | none => s
  | some h =>
    if c.isSeek then
      s.onList n fun l => { l with queue := markSeeking l.queue, examine := true }
    else s.completeRecord n h (.ok 0x40)

/-- A host exchange of deck `n` ended REFUSED. -/
def State.hostRefused (s : State) (n : Deck) (r : RefusalReason) : State :=
  match (s.deck n).list.chosen with
  | none => s
  | some h => s.completeOffered n h (.refused r) 2

/-- A host exchange of deck `n` ended FAULTED, its fault already offered. -/
def State.hostFaulted (s : State) (n : Deck) (code : FaultCode) : State :=
  match (s.deck n).list.chosen with
  | none => s
  | some h => s.completeRecord n h (.failed code)

/-- A host exchange of deck `n` ended by a failure after the deck was claimed (R65). -/
def State.hostOvertaken (s : State) (n : Deck) : State :=
  match (s.deck n).list.chosen with
  | none => s
  | some h => s.completeOffered n h (.failed .deckClaimed) 2

/-- A host seek of deck `n` ended: complete, or unfinished with a code (R50, R51). -/
def State.hostSeekEnd (s : State) (n : Deck) (code : Option FaultCode) : State :=
  match (s.deck n).list.seeking with
  | none => s
  | some h =>
    match code with
    | none => s.completeRecord n h (.ok 0x40)
    | some c => s.completeRecord n h (.unfinished c)

/-- The host motion command records R47 completes on entering DOWN: every one but a SEEKING SEEK. -/
def HeldRecord.lostOnDown (h : HeldRecord) : Bool :=
  match h.command, h.status with
  | .motion _, .seeking => false
  | .motion _, _ => true
  | _, _ => false

/-- R47 step 1. -/
def State.faultHeldRecords (s : State) (n : Deck) : State :=
  ((s.deck n).list.queue.filter HeldRecord.lostOnDown).foldl
    (fun s h => s.completeRecord n h (.failed .linkDown)) s

end Sys2Proof.Machine
end

