-- ==== Sys2Proof/Machine/EditList.lean ====
section
/-!
DEFINITION. The edit list (Chapter 7): the checks of an event record, its refusal, and the take.
-/

namespace Sys2Proof.Machine

/-! ## Reading an event record (Tables 7-2, 12-10) -/

/-- The number of the first field whose check fails. -/
def firstFailure : List (Nat × Bool) → Option Nat
  | [] => none
  | (n, ok) :: rest => if ok then firstFailure rest else some n

/-- A source's byte: a deck, or BLACK. -/
def Source.ofCode? (b : Nat) : Option Source :=
  if b = 0x80 then some .black else (Deck.ofNum? b).map .deck

/-- The deck of a source. -/
def Source.deck? : Source → Option Deck
  | .deck n => some n
  | .black => none

/-- Trigger `i`'s line byte, offset and width. -/
def triggerFields (r : List Byte) (i : Nat) : Nat × Int × Nat :=
  (byteAt r (43 + 4 * i), signed 16 (halfAt r (44 + 4 * i)), byteAt r (46 + 4 * i))

/-- Check 0 of one trigger entry. -/
def triggerRange (r : List Byte) (i : Nat) : List (Nat × Bool) :=
  let (line, offset, width) := triggerFields r i
  [(23 + 3 * i, line ≤ 7), (24 + 3 * i, offset.natAbs ≤ 600), (25 + 3 * i, 1 ≤ width)]

/-- Check 0 (R120): every examined field of a record in its range, in field-number order. -/
def eventRanges (r : List Byte) : List (Nat × Bool) :=
  let transition := byteAt r 30
  let effect : Bool := transition == 1 || transition == 2
  let preroll := halfAt r 38
  ([(1, halfAt r 2 ≤ 9999), (2, byteAt r 1 ≤ 1), (3, byteAt r 4 ≤ 2), (4, byteAt r 5 ≤ 5), (5, byteAt r 6 ≤ 1),
    (6, byteAt r 6 != 1 || byteAt r 7 ≤ 15), (8, byteAt r 13 ≤ 1), (10, (Source.ofCode? (byteAt r 18)).isSome),
    (12, byteAt r 19 == 0xFF || (Source.ofCode? (byteAt r 19)).isSome), (14, transition ≤ 2),
    (15, transition != 2 || byteAt r 31 ≤ 15), (16, !effect || (1 ≤ halfAt r 32 && halfAt r 32 ≤ 999)),
    (18, !effect || byteAt r 36 ≤ 1), (19, (signed 8 (byteAt r 37)).natAbs ≤ 99),
    (20, preroll == 0 || (30 ≤ preroll && preroll ≤ 900)), (21, halfAt r 40 ≤ 900), (22, byteAt r 42 ≤ 4)] : List (Nat × Bool))
    ++ ((List.range (byteAt r 42)).map (triggerRange r)).flatten

/-- The record's in points and duration once check 3 and check 4 have read them. -/
structure EventAddresses where
  record : Nat × Kind
  aIn : Option (Nat × Kind)
  bIn : Option (Nat × Kind)
  duration : Int
  deriving DecidableEq, Repr

/-- The entries in use of a trigger list in range. -/
def readTriggers (r : List Byte) : List TriggerEntry :=
  (List.range (byteAt r 42)).map fun i =>
    let (line, offset, width) := triggerFields r i
    ⟨(Line.ofNum? line).getD .l0, offset, width⟩

/-- The start field of a code. -/
def StartKind.ofCode : Nat → StartKind
  | 0 => .auto
  | 1 => .host
  | _ => .gpi

/-- The transition of a code. -/
def Transition.ofCode : Nat → Transition
  | 0 => .cut
  | 1 => .dissolve
  | _ => .wipe

/-- The working copy of a record whose fields are in range (R112, R113): fields not examined are not held. -/
def readEvent (r : List Byte) (defaultPreroll editDelay : Nat) (a : EventAddresses) : Event :=
  let transition := Transition.ofCode (byteAt r 30)
  let effect : Bool := transition != .cut
  let sourceB := if byteAt r 19 = 0xFF then none else Source.ofCode? (byteAt r 19)
  { number := halfAt r 2
    perform := byteAt r 1 == 0
    start := .ofCode (byteAt r 4)
    recorder := (Deck.ofNum? (byteAt r 5)).getD .d0
    insert := byteAt r 6 == 1
    mask := if byteAt r 6 = 1 then BitVec.ofNat 4 (byteAt r 7) else 0
    recordIn := a.record.1
    recordKind := a.record.2
    duration := a.duration.toNat
    sourceA := (Source.ofCode? (byteAt r 18)).getD .black
    aIn := a.aIn
    sourceB := sourceB
    bIn := a.bIn
    transition := transition
    pattern := if transition = .wipe then byteAt r 31 else 0
    transitionFrames := if effect then halfAt r 32 else 0
    startOffset := if effect || sourceB.isSome then halfAt r 34 else 0
    curve := if effect && byteAt r 36 == 1 then .sCurve else .linear
    split := signed 8 (byteAt r 37)
    preroll := if halfAt r 38 = 0 then defaultPreroll else halfAt r 38
    postroll := halfAt r 40
    triggers := readTriggers r
    editDelay := editDelay }

/-! ## The checks (R120 to R122) -/

/-- Check 1: the recorder. -/
def State.recorderOk (s : State) (n : Deck) : Bool := (s.deck n).settings.role == .recorder && s.linkUp n

/-- A source deck of check 2, distinct from the decks given. -/
def State.sourceOk (s : State) (n : Deck) (others : List Deck) : Bool :=
  (s.deck n).settings.role == .source && !others.contains n && s.linkUp n

/-- Checks 1 and 2, on the bytes of a record in range. -/
def State.deckChecks (s : State) (r : List Byte) : List (Nat × Bool) :=
  let recorder := (Deck.ofNum? (byteAt r 5)).getD .d0
  let a := Deck.ofNum? (byteAt r 18)
  let b := Deck.ofNum? (byteAt r 19)
  [(4, s.recorderOk recorder), (10, a.all fun n => s.sourceOk n [recorder]),
    (12, b.all fun n => s.sourceOk n (recorder :: a.toList))]

/-- A source's in point (check 3): valid by R6 and of its deck's timecode kind; none when the source is no deck. -/
def State.inPoint (s : State) (deck : Option Deck) (a : Addr) (flag : Nat) : Option (Option (Nat × Kind)) :=
  match deck with
  | none => some none
  | some n =>
    match hostAddress s.standard a flag with
    | none => none
    | some (f, k) => if (s.deck n).tracker.kind = some k then some (some (f, k)) else none

/-- The duration of a record (check 3 for an OUT address, R121): none for an invalid OUT address. -/
def recordDuration (r : List Byte) (recordIn : Nat) (k : Kind) : Option Int :=
  if byteAt r 13 = 1 then some (wordAt r 14)
  else if (addrAt r 14).valid k then some (sdiff k.day (frameOf k (addrAt r 14)) recordIn)
  else none

/-- Check 3: the addresses, in field-number order. -/
def State.addressChecks (s : State) (r : List Byte) : Except Nat EventAddresses :=
  match hostAddress s.standard (addrAt r 8) (byteAt r 12) with
  | none => .error 7
  | some (n, k) =>
    match recordDuration r n k with
    | none => .error 9
    | some d =>
      match s.inPoint (Deck.ofNum? (byteAt r 18)) (addrAt r 20) (byteAt r 24) with
      | none => .error 11
      | some a =>
        match s.inPoint (Deck.ofNum? (byteAt r 19)) (addrAt r 25) (byteAt r 29) with
        | none => .error 13
        | some b => .ok ⟨(n, k), a, b, d⟩

/-- The mask allows a split (check 8). -/
def Event.splits (e : Event) : Bool :=
  e.insert && e.mask.getLsbD 0 && (e.mask.getLsbD 1 || e.mask.getLsbD 2)

/-- Checks 4 to 8, on the working copy. -/
def Event.formChecks (e : Event) (duration : Int) : List (Nat × Bool) :=
  let effect : Bool := e.transition != .cut
  [(9, 1 ≤ duration && duration ≤ e.recordKind.day / 2 - 1), (6, !e.insert || e.mask != 0),
    (12, !effect || e.sourceB.isSome), (16, !effect || 1 ≤ e.transitionFrames),
    (17, !effect || e.startOffset + e.transitionFrames ≤ e.duration),
    (17, effect || e.sourceB.isNone || e.startOffset < e.duration),
    (19, e.split == 0 ||
      (e.splits && 0 < (e.preroll : Int) + e.split - e.editDelay && e.split < (e.duration : Int)))]

/-- Check 9 of each trigger entry in use. -/
def Event.triggerTimes (e : Event) : List (Nat × Bool) :=
  (e.triggers.zipIdx).map fun (t, i) =>
    (24 + 3 * i, -(e.preroll : Int) ≤ t.offset && t.offset < (e.duration : Int) + e.postroll)

/-- Check 10 of each trigger entry in use. -/
def State.triggerLines (s : State) (e : Event) : List (Nat × Bool) :=
  (e.triggers.zipIdx).map fun (t, i) => (23 + 3 * i, s.gpi.outputs.get t.line == .event)

/-- Checks 11 and 12. -/
def State.lastChecks (s : State) (e : Event) : List (Nat × Bool) :=
  [(4, !e.perform || !((s.deck e.recorder).link.lastState.any DeckState.recordInhibit)),
    (20, s.suite.syncMargin + e.editDelay + 2 < e.preroll)]

/-- An event record validated (7.4): its working copy, or the field number the first failing check names. -/
def State.checkEvent (s : State) (r : List Byte) : Except Nat Event :=
  match firstFailure (eventRanges r ++ s.deckChecks r) with
  | some n => .error n
  | none =>
    match s.addressChecks r with
    | .error n => .error n
    | .ok a =>
      let recorder := (Deck.ofNum? (byteAt r 5)).getD .d0
      let e := readEvent r s.suite.defaultPreroll (s.deck recorder).settings.editDelay a
      match firstFailure (e.formChecks a.duration ++ e.triggerTimes ++ s.triggerLines e ++ s.lastChecks e) with
      | some n => .error n
      | none => .ok e

/-! ## The take (R116 to R119, R128) -/

/-- The decks an event claims, in the order recorder, A, B (R117). -/
def Event.decks (e : Event) : List Deck :=
  e.recorder :: ((e.sourceA.deck?).toList ++ (e.sourceB.bind Source.deck?).toList)

/-- The in point of a claimed deck (R128). -/
def Event.inPointOf (e : Event) (n : Deck) : Nat × Kind :=
  if e.recorder = n then (e.recordIn, e.recordKind)
  else if e.sourceA = .deck n then e.aIn.getD (0, .nd525)
  else e.bIn.getD (0, .nd525)

/-- The cue of a claimed deck: its in point less the preroll (R128). -/
def Event.cueOf (e : Event) (n : Deck) : Nat × Kind :=
  let (f, k) := e.inPointOf n
  (displaceFrame k f (-(e.preroll : Int)), k)

/-- The result bytes of a refused event (R114, R118). -/
def refusalBytes (field : Nat) (f : FieldCount) : List Byte :=
  [0, byte FaultCode.validation.num, byte field, 0] ++ halfOfField f ++ List.replicate 28 0

/-- An event refused (R118); after a failed write the engine stays IDLE and the index is unchanged (R119). -/
def State.refuseEvent (s : State) (a : Nat) (r : List Byte) (field : Nat) : State :=
  match s.writeAll [(a + 30, refusalBytes field s.F), (a + 2, half (halfAt r 2)), (a, [4])] with
  | (false, s) => s
  | (true, s) =>
    (s.raise .editFault).onEngine fun e => { e with state := .held, nextEvent := e.nextEvent + 1 }

/-- A host exchange outstanding on a deck that becomes claimed (R65). -/
def Link.overtake (l : Link) : Link :=
  { l with exchange := l.exchange.map fun e => if e.requester = .host then { e with overtaken := true } else e }

/-- A deck claimed (R117 step 3): its chase ends, and its head is to be examined. -/
def State.claim (s : State) (n : Deck) : State := ((s.endChase n).onLink n Link.overtake).examineSoon n

/-- A running-event command offered to a claimed deck's engine queue; refused by a full queue it ends FAULTED and
aborts the event (R70, R130). Once the event is aborted no further offer of the same act is made (log entry 29). -/
def State.offerRunning (s : State) (n : Deck) (c : LinkCommand) : State :=
  if s.engine.state.running then
    match s.offerEngine n ⟨c, true, none⟩ with
    | (true, s) => s
    | (false, s) => s.abort .deckFailed
  else s

/-- The SEEK to a deck's cue offered (R128). -/
def State.offerCue (s : State) (e : Event) (n : Deck) : State :=
  let (f, k) := e.cueOf n
  s.offerRunning n (seekTo k f)

/-- The engine's state for a newly taken event, before it enters CUEING (R117 steps 1 to 3). -/
def Engine.taking (g : Engine) (slot : Fin 64) (e : Event) : Engine :=
  { g with
    working := some e
    takenSlot := some slot
    claims := e.decks
    cue := .all none
    schedule := none
    punches := ⟨none, none, none⟩
    triggers := []
    haltsAwaited := []
    haltOutcome := .all none
    abortCode := none
    endFault := none
    results := .none
    rollDue := false
    completionFailed := false
    retryDue := false }

/-- CUEING entered (R117 steps 4 and 5, R128). -/
def Engine.cueing (g : Engine) (e : Event) : Engine :=
  { g with
    startPending := e.start == .auto
    state := .cueing
    nextEvent := g.nextEvent + 1
    cue := .of fun n => if e.decks.contains n then some .seeking else none }

/-- An event that passed every check taken (R117), and its SEEKs offered (R128). -/
def State.takeEvent (s : State) (a : Nat) (e : Event) : State :=
  match s.writeMem a [2] with
  | (false, s) => s
  | (true, s) =>
    let s := s.onEngine fun g => g.taking g.nextEvent e
    let s := e.decks.foldl State.claim s
    let s := e.decks.foldl State.service s
    let s := s.onEngine fun g => g.cueing e
    e.decks.foldl (fun s n => s.offerCue e n) s

/-- A take (R116), begun in IDLE. -/
def State.take (s : State) : State :=
  let a := s.eventSlot s.engine.nextEvent
  match s.readMem a 1 with
  | (none, s) => s
  | (some st, s) =>
    if byteAt st 0 ≠ 1 then s
    else
      match s.readMem a 64 with
      | (none, s) => s
      | (some r, s) =>
        match s.checkEvent r with
        | .error field => s.refuseEvent a r field
        | .ok e => s.takeEvent a e

/-- An attention 6 acted on after the first acceptance, its bit cleared: a take in IDLE, or in HELD after its release
(R115). -/
def State.attendTake (s : State) : State :=
  let s := s.setAttention 6 false
  if s.engine.state.atRest then (s.onEngine fun e => { e with state := .idle }).take else s

end Sys2Proof.Machine
end

