-- ==== Sys2Proof/Machine/Engine.lean ====
section
/-!
DEFINITION. Edit execution (Chapter 8): the completion of an event, the outcomes of the engine's commands, the cue, the
start, and the acts of the schedule.
-/

namespace Sys2Proof.Machine

/-! ## Completion (R141, R145) -/

/-- The engine's exchange and pending seek on a link belong to an ended event (R130). -/
def Link.dropEngine (l : Link) : Link :=
  { l with
    exchange := l.exchange.map fun e => if e.requester = .engine then { e with live := false } else e
    seek := l.seek.map fun p => if p.requester = .engine then { p with live := false } else p }

/-- The engine's requests, exchange and pending seek on deck `n` belong to an ended event. -/
def DeckUnit.dropEngine (d : DeckUnit) : DeckUnit :=
  { d with
    link := d.link.dropEngine
    arbiter := { d.arbiter with engineQueue := d.arbiter.engineQueue.map fun r => { r with live := false } } }

/-- The fault an event completes with: the abort code, or the end fault; none for DONE. -/
def Engine.completionFault (e : Engine) : Option FaultCode :=
  if e.state = .aborting then e.abortCode else e.endFault

/-- The reached state a completion writes (R141, R145). -/
def Engine.reachedCode (e : Engine) : Nat :=
  if e.state = .aborting then (e.results.reached.getD .cueing).code else EngineState.ending.code

/-- The writes of a completion, in order: the result fields, the event number, the state. Bytes 30 to 63 are written
whole when no result write has been made before (R195). -/
def State.completionWrites (s : State) (slot : Fin 64) (number : Nat) : List (Nat × List Byte) :=
  let a := s.eventSlot slot
  let e := s.engine
  let fault := e.completionFault.getD .none
  let results :=
    if e.results.reached.isNone then [(a + 30, e.resultWhole e.reachedCode fault (halfOfField s.F))]
    else [(a + 30, e.resultHead e.reachedCode fault (halfOfField s.F)), (a + 44, e.resultTail)]
  results ++ [(a + 2, half number), (a, [byte (if e.completionFault.isNone then 3 else 4)])]

/-- The claims released and the running state dropped (R127, R141, R145). -/
def Engine.release (e : Engine) (next : EngineState) : Engine :=
  { e with
    state := next
    working := none
    takenSlot := none
    claims := []
    cue := .all none
    startPending := false
    schedule := none
    punches := ⟨none, none, none⟩
    triggers := []
    haltsAwaited := []
    haltOutcome := .all none
    abortCode := none
    endFault := none
    results := .none
    rollDue := false
    completionFailed := false
    retryDue := false }

/-- The event completed, every write made: cause, release, idle frames, IDLE with a take or HELD. -/
def State.finishEvent (s : State) : State :=
  let done := s.engine.completionFault.isNone
  let s := s.raise (if done then .editDone else .editFault)
  let s := s.onGenerator fun g => { g.rest with recordTally := false }
  let s := s.eachDeck fun n s => s.onDeck n DeckUnit.dropEngine
  let s := s.onEngine fun e => e.release (if done then .idle else .held)
  if done then s.take else s

/-- A completion made from its first write; after a failed write the engine stays as it is, and the completion is made
again at each frame boundary (R141, R145). -/
def State.completeEvent (s : State) : State :=
  match s.engine.takenSlot, s.engine.working with
  | some slot, some ev =>
    match s.writeAll (s.completionWrites slot ev.number) with
    | (true, s) => s.finishEvent
    | (false, s) => s.onEngine fun e => { e with completionFailed := true, retryDue := false }
  | _, _ => s

/-- The PUNCH-OUT, if one was queued, has ended (R141). -/
def PunchPlan.outEnded (p : PunchPlan) : Bool :=
  match p.out with
  | none => true
  | some x => x.status != .queued && x.status != .begun

/-- The event completes when its last HALT, and in ENDING its PUNCH-OUT, has ended (R141, R145). -/
def State.tryComplete (s : State) : State :=
  let e := s.engine
  if e.completionFailed || !e.haltsAwaited.isEmpty then s
  else if e.state = .aborting then s.completeEvent
  else if e.state = .ending ∧ e.punches.outEnded then s.completeEvent
  else s

/-! ## Outcomes of the engine's commands (R130) -/

/-- The end fault set, if none is held (R130). -/
def State.setEndFault (s : State) (code : FaultCode) : State :=
  s.onEngine fun e => { e with endFault := match e.endFault with | none => some code | some c => some c }

/-- The engine's HALT to deck `n` ended (R130, R141, R145): kept for a host HALT record, which it completes (R66). -/
def State.haltEnded (s : State) (n : Deck) (o : EngineOutcome) : State :=
  let s :=
    match s.engine.state, o with
    | .ending, .refused _ => s.setEndFault .deckRefused
    | .ending, .faulted c => s.setEndFault c
    | _, _ => s
  let s := s.onEngine fun e =>
    { e with haltOutcome := e.haltOutcome.set n (some o), haltsAwaited := e.haltsAwaited.erase n }
  (s.completeFromEngine n o).tryComplete

/-- The results of one punch written into the slot (R136). -/
def State.writePunch (s : State) (i : PunchId) : State :=
  s.progress (s.engine.punchFields i)

/-- A log entry of the edit engine (R178). -/
def State.editEntry (s : State) (kind : Nat) (ev : Event) (frame : Nat) : LogEntry :=
  ⟨kind, some ev.recorder, s.F, addrOf ev.recordKind frame, some ev.recordKind, (s.deck ev.recorder).tracker.quality,
    (s.engine.takenSlot.map Fin.val).getD 0, 0⟩

/-- An entry handed to the log writer when the log-edits option is on. -/
def State.logEdit (s : State) (kind : Nat) (ev : Event) (frame : Nat) : State :=
  if s.log.logEdits then s.appendLog (s.editEntry kind ev frame) else s

/-- Some PUNCH-IN of the event has been answered TAKEN. -/
def PunchPlan.inTaken (p : PunchPlan) : Bool :=
  p.video.any (fun x => x.status == .taken) || p.audio.any fun x => x.status == .taken

/-- A PUNCH-IN answered TAKEN (R136, R137, R160): the first makes the record tally active, enters RECORDING from SYNCED
and is logged. In ABORTING it has no effect in the event (R130), and the tally alone is made active (log entry 41). When the
write of the punch's results fails, the event is aborting before RECORDING: it is not entered and no EDIT_PROGRESS is
raised, and EDIT_IN is logged all the same (DEDUCED, log entry 47). -/
def State.punchInTaken (s : State) (i : PunchId) (ev : Event) : State :=
  let first := !s.engine.punches.inTaken
  let s := s.setPunch i .taken
  let s := if first then s.onGenerator fun g => { g with recordTally := true } else s
  if s.engine.state = .aborting then s
  else
    let s := s.writePunch i
    if first then
      let s := if s.engine.state = .synced then (s.enterRunning .recording).raise .editProgress else s
      s.logEdit 3 ev ev.recordIn
    else s

/-- The actual out of a PUNCH-OUT begun at `actual` (R139, R145): record in displaced by (actual + 2E − F_in) / 2
frames, rounded up. -/
def actualOut (ev : Event) (fIn actual : FieldCount) : Nat :=
  displaceFrame ev.recordKind ev.recordIn (ceilDiv (fieldDiff (fieldAdd actual (2 * ev.editDelay)) fIn) 2)

/-- A PUNCH-OUT answered TAKEN (R139, R145): the actual out is known, and logged. -/
def State.punchOutTaken (s : State) (ev : Event) : State :=
  let s := s.setPunch .out .taken
  match s.engine.schedule, s.engine.punches.out.bind Punch.actual with
  | some sch, some f =>
    let n := actualOut ev sch.fIn f
    let s := s.onEngine fun e => { e with results := { e.results with actualOut := some n } }
    let s := s.progress [(42, [byte s.engine.punches.flags]), (54, punchBytes s.engine.punches.out),
      (59, s.engine.actualOutBytes)]
    s.logEdit 4 ev n
  | _, _ => s

/-- A punch that was refused or ended FAULTED, by the engine's state (R130). A failed write of its results aborts the
event first (log entry 47). -/
def State.punchLost (s : State) (i : PunchId) (status : PunchStatus) (abortCode endCode : FaultCode) : State :=
  let s := (s.setPunch i status).writePunch i
  if s.engine.state.running then s.abort abortCode
  else if s.engine.state = .ending then s.setEndFault endCode
  else s

/-- The outcome of a punch exchange. -/
def State.punchEnded (s : State) (i : PunchId) (o : EngineOutcome) : State :=
  let s :=
    match o, s.engine.working with
    | .taken, some ev => if i = .out then s.punchOutTaken ev else s.punchInTaken i ev
    | .taken, none => s
    | .refused _, _ => s.punchLost i .refused .recordRefused .deckRefused
    | .faulted c, _ => s.punchLost i .failed .deckFailed c
  if i = .out then (s.onGenerator fun g => { g with recordTally := false }).tryComplete else s

/-- The outcome of a SEEK or a RUN (R130). REFUSED in ENDING, where the table of R130 has a dash, has no effect (DEDUCED, log
entry 59). -/
def State.moveEnded (s : State) (o : EngineOutcome) : State :=
  match o with
  | .taken => s
  | .refused _ => s.abort .deckFailed
  | .faulted c => if s.engine.state = .ending then s.setEndFault c else s.abort .deckFailed

/-- The outcome of a live engine exchange on deck `n` (R130). -/
def State.engineOutcome (s : State) (n : Deck) (c : LinkCommand) (punch : Option PunchId) (o : EngineOutcome) : State :=
  match punch with
  | some i => s.punchEnded i o
  | none => if c = .halt then s.haltEnded n o else s.moveEnded o

/-! ## The cue (R128, R129, R131) -/

/-- An engine seek of deck `n` completed: the deck is ARRIVED, and the last arrival enters CUED. -/
def State.cueArrived (s : State) (n : Deck) : State :=
  if s.engine.state = .cueing ∧ s.claimed n then
    let s := s.onEngine fun e => { e with cue := e.cue.set n (some .arrived) }
    if s.engine.claims.all fun d => s.engine.cue.get d == some .arrived then s.enterRunning .cued else s
  else s

/-- An engine seek ended unfinished (R129). -/
def State.cueFailed (s : State) (code : FaultCode) : State :=
  if s.engine.state = .cueing then s.abort (if code = .seekTimeout then .cueTimeout else .deckFailed) else s

/-- A STATE from deck `n` handed to the engine (R131). -/
def State.engineState (s : State) (n : Deck) (d : DeckState) : State :=
  if s.claimed n ∧ !d.tapeIn then s.abort .deckFailed else s

/-! ## Start and roll (R132) -/

/-- A start request of a kind. -/
def State.startRequest (s : State) (kind : StartKind) : State :=
  if (s.engine.state = .cueing ∨ s.engine.state = .cued) ∧ s.engine.working.any (fun ev => ev.start == kind) then
    s.onEngine fun e => { e with startPending := true }
  else s

/-- The punch plan at F0 (R134), with every entry PLANNED. -/
def punchPlan (ev : Event) (fIn fOut : FieldCount) : PunchPlan :=
  if ev.perform then
    let e : Int := ev.editDelay
    let entry (mask : BitVec 4) (f : FieldCount) : Option Punch := some ⟨mask, f, .planned, none⟩
    let out := entry 15 (fieldAdd fOut (-(2 * e)))
    let picture := fieldAdd fIn (-(2 * e))
    if !ev.insert then ⟨entry 15 picture, none, out⟩
    else if ev.split = 0 then ⟨entry ev.mask picture, none, out⟩
    else ⟨entry (ev.mask &&& 9) picture, entry (ev.mask &&& 6) (fieldAdd fIn (2 * ev.split - 2 * e)), out⟩
  else ⟨none, none, none⟩

/-- The window of an entry whose window field falls before F0 opens at the roll (R135). -/
def Punch.atRoll (p : Punch) (f0 : FieldCount) : Punch :=
  if fieldDiff p.planned f0 < 4 then { p with status := .window } else p

/-- The entries of a plan at the rolling advance. -/
def PunchPlan.atRoll (p : PunchPlan) (f0 : FieldCount) : PunchPlan :=
  ⟨p.video.map (·.atRoll f0), p.audio.map (·.atRoll f0), p.out.map (·.atRoll f0)⟩

/-- The sync check's field less F_in: the sync margin before it, or the first planned PUNCH-IN if that comes first
(R133). -/
def syncLead (ev : Event) (margin : Nat) : Int :=
  let lead : Int := -(2 * (margin : Int))
  if ev.perform then
    let first : Int := -(2 * (ev.editDelay : Int)) + (if ev.split < 0 then 2 * ev.split else 0)
    min lead first
  else lead

/-- The schedule of an event rolling at `f0` (Table 8-3). -/
def Event.schedule (ev : Event) (margin : Nat) (f0 : FieldCount) : Schedule :=
  let fIn := fieldAdd f0 (2 * ev.preroll)
  let fOut := fieldAdd fIn (2 * ev.duration)
  { f0 := f0
    fS := fieldAdd fIn (syncLead ev margin)
    fIn := fIn
    fT := fieldAdd fIn (2 * ev.startOffset)
    fOut := fOut
    fEnd := fieldAdd fOut (2 * ev.postroll) }

/-- The switcher input of a source (R153). -/
def State.inputOf (s : State) : Source → Nat
  | .deck n => (s.deck n).settings.input
  | .black => s.suite.blackInput

/-- The event record handed to the generator at the roll (R153, R155). -/
def State.generatorEvent (s : State) (ev : Event) (sch : Schedule) : GeneratorEvent :=
  let program := s.inputOf ev.sourceA
  { programSource := program
    presetSource := (ev.sourceB.map s.inputOf).getD program
    twoSources := ev.sourceB.isSome
    transition := ev.transition
    pattern := ev.pattern
    n := 2 * ev.transitionFrames
    curve := ev.curve
    fT := sch.fT }

/-- The chase of one claimed deck on its ideal (R96). -/
def State.chaseIdeal (s : State) (ev : Event) (n : Deck) : State :=
  if s.engine.state = .cued then s.startChase n .engine .timeline 0 (some (ev.cueOf n)) else s

/-- The roll (R132), at the current F. -/
def State.rollEvent (s : State) (ev : Event) : State :=
  let sch := ev.schedule s.suite.syncMargin s.F
  let plan := (punchPlan ev sch.fIn sch.fOut).atRoll s.F
  let triggers := ev.triggers.map fun t => (⟨t.line, fieldAdd sch.fIn (2 * t.offset), t.width, .planned⟩ : Trigger)
  let s := s.onEngine fun e =>
    { e with schedule := some sch, punches := plan, triggers := triggers, rollDue := false }
  let s := s.eachClaimed fun s n => s.offerRunning n .run
  let s := s.eachClaimed fun s n => s.chaseIdeal ev n
  if s.engine.state = .cued then
    let g := s.generatorEvent ev sch
    let f := s.F
    let s := s.onGenerator fun x => x.carry g f
    (s.onEngine fun e => { e with startPending := false }).enterRunning .rolling
  else s

/-! ## The sync check (R133) -/

/-- What the check reads of a deck (R110). -/
def State.syncOf (s : State) (n : Deck) : SyncResult :=
  let c := (s.deck n).chase
  ⟨c.state == .locked && c.starter == some .engine, c.lastError⟩

/-- The sync results of the claimed decks, by their places in the event. -/
def State.syncResults (s : State) (ev : Event) (r : Results) : Results :=
  { r with
    syncRecorder := some (s.syncOf ev.recorder)
    syncA := ev.sourceA.deck?.map s.syncOf
    syncB := (ev.sourceB.bind Source.deck?).map s.syncOf }

/-- The engine passes the check: SYNCED entered, EDIT_PROGRESS raised (log entry 47). -/
def State.enterSynced (s : State) : State := (s.enterRunning .synced).raise .editProgress

/-- The check passed under PROCEED with a deck not locked: the advisory flag, and SYNC_UNLOCKED for each deck not
locked (log entry 47). -/
def State.proceedUnlocked (s : State) (unlocked : List Deck) : State :=
  let s := (s.enterRunning .synced).onEngine fun e => { e with results := { e.results with advisory := true } }
  let s := (s.progress [(33, [byte s.engine.results.syncFlags])]).raise .editProgress
  unlocked.foldl (fun s n => s.offerDeck n 2 .syncUnlocked 0) s

/-- The sync check (R133): the results written, then the policy. When their write fails, the event is aborting with
MEMORY_LIMIT and the check ends there: SYNCED is not entered, no EDIT_PROGRESS is raised, no SYNC_UNLOCKED offered, and
SYNC_FAIL does not come in (DEDUCED, log entry 47). -/
def State.syncCheck (s : State) (ev : Event) : State :=
  let unlocked := s.engine.claims.filter fun n => !(s.syncOf n).locked
  let results := s.syncResults ev s.engine.results
  let s := s.onEngine fun e => { e with results := results }
  let s := s.progress [(33, [byte results.syncFlags]),
    (36, syncErrorBytes results.syncRecorder ++ syncErrorBytes results.syncA ++ syncErrorBytes results.syncB)]
  if s.engine.state = .rolling then
    if unlocked.isEmpty then s.enterSynced
    else
      match s.suite.syncPolicy with
      | .abort => s.abort .syncFail
      | .proceed => s.proceedUnlocked unlocked
  else s

/-! ## Punches, out and ending (R135 to R142) -/

/-- The states in which the schedule acts (R126). -/
def EngineState.scheduled : EngineState → Bool
  | .rolling => true
  | .synced => true
  | .recording => true
  | .postroll => true
  | .ending => true
  | _ => false

/-- A punch offered to the recorder's engine queue at its planned field (R136, R139); refused by a full queue it ends
FAULTED, a failed write of its results aborting the event first (log entry 47). -/
def State.offerPunch (s : State) (i : PunchId) (r : Deck) (c : LinkCommand) : State :=
  match s.offerEngine r ⟨c, true, some i⟩ with
  | (true, s) => s.setPunch i .queued
  | (false, s) => (s.setPunch i .failed).writePunch i |>.abort .deckFailed

/-- The punch's request removed from its queue (R136). -/
def State.withdrawPunch (s : State) (i : PunchId) (r : Deck) : State :=
  s.onArbiter r fun a => { a with engineQueue := a.engineQueue.filter fun q => !(q.live && q.punch == some i) }

/-- A PUNCH-IN still QUEUED abandoned (R136); the event aborts with PUNCH_LATE in SYNCED or RECORDING (R143), unless the
write of its results has failed and aborted it first (log entry 47). -/
def State.abandonPunch (s : State) (i : PunchId) (r : Deck) : State :=
  let s := ((s.withdrawPunch i r).setPunch i .abandoned).writePunch i
  if s.engine.state = .synced ∨ s.engine.state = .recording then s.abort .punchLate else s

/-- F_in in REHEARSE (R138; log entry 47). -/
def State.rehearseIn (s : State) : State := (s.enterRunning .recording).raise .editProgress

/-- F_out (R140). -/
def State.recordOut (s : State) : State := (s.eachClaimed State.endChase).enterRunning .postroll

/-- A HALT of ENDING offered to a claimed deck; refused by a full queue it has ended (R130). -/
def State.offerEndingHalt (s : State) (n : Deck) : State :=
  match s.offerEngine n ⟨.halt, true, none⟩ with
  | (true, s) => s
  | (false, s) =>
    let s := (s.setEndFault .queueFull).onEngine fun e =>
      { e with haltOutcome := e.haltOutcome.set n (some (.faulted .queueFull)), haltsAwaited := e.haltsAwaited.erase n }
    s.completeFromEngine n (.faulted .queueFull)

/-- F_end (R140): ENDING entered, a HALT offered to each claimed deck. -/
def State.endPostroll (s : State) : State :=
  let s := (s.enterRunning .ending).onEngine fun e => { e with haltsAwaited := e.claims }
  (s.eachClaimed State.offerEndingHalt).tryComplete

/-- Trigger entry `i` fired (R142). -/
def State.fireTrigger (s : State) (i : Nat) (t : Trigger) : State :=
  (s.requestPulse .event t.line t.width).onEngine fun e =>
    { e with triggers := e.triggers.set i { t with status := .fired } }

/-- A punch's frame begun (R136): BEGUN, with the current F as its actual field. -/
def State.punchBegun (s : State) (i : PunchId) : State :=
  s.onEngine fun e =>
    { e with punches := e.punches.set i ((e.punches.get i).map fun p =>
        if p.status = .queued then { p with status := .begun, actual := some s.F } else p) }

end Sys2Proof.Machine
end

