-- ==== Sys2Proof/Machine/Link.lean ====
section
/-!
DEFINITION. The deck link controller (Chapter 3): the assembler, the exchange and its outcomes, the link states, seeks
and polls.
-/

namespace Sys2Proof.Machine

/-! ## The assembler (R37, R38) -/

/-- A byte is disqualified: a framing or overrun mark, or a parity mark with parity trust on (R37). -/
def RxByte.disqualified (b : RxByte) (trust : Bool) : Bool := b.framing || b.overrun || (b.parity && trust)

/-- A frame in assembly is complete at its CHECK byte (R38). -/
def frameComplete (a : List Byte) : Bool := 4 < a.length && a.length == 5 + byteAt a 3

/-- The frame's LEN byte has just been taken and exceeds 10 (R38). -/
def lenTooLong (a : List Byte) : Bool := a.length == 4 && 10 < byteAt a 3

/-- A judged frame concerns the exchange: AWAITING or HOLDING, and of its tag when valid (R43, R44). -/
def Exchange.concerns (e : Exchange) (j : JudgedFrame) : Bool :=
  e.phase != .sending &&
    match j with
    | .garbled => true
    | .valid tag _ => tag == e.tag

/-- A completed frame handed to the exchange logic with its arrival field: held until it is acted on when it concerns
the outstanding exchange, else discarded (R43, R44). -/
def Link.hand (l : Link) (j : JudgedFrame) (f : FieldCount) : Link :=
  { l with
    assembly := []
    judged := if l.exchange.any fun e => e.concerns j then some (j, f) else l.judged }

/-- A byte taken into the frame in assembly (R37, R38); `a` includes it. -/
def Link.assemble (l : Link) (std : Standard) (a : List Byte) (f : FieldCount) : Link :=
  if lenTooLong a then l.hand .garbled f
  else if frameComplete a then l.hand (judgeFrame std a) f
  else { l with assembly := a }

/-- A byte without a disqualifying mark begins a frame in HUNTING or is the next field of the frame in assembly. -/
def Link.into (l : Link) (b : Byte) : Bool := !l.assembly.isEmpty || b == linkStart

/-- The held byte of deck `n` taken (R29, R37). -/
def State.takeByte (s : State) (n : Deck) : State :=
  let d := s.deck n
  match d.rx.holding with
  | none => s
  | some b =>
    let s := s.onRx n fun r => { r with holding := none }
    if b.disqualified d.port.parityTrust then s.onLink n fun l => { l with assembly := [] }
    else if d.link.into b.data then
      let s := if b.parity then s.offerDeck n 1 .linkParity 0 else s
      s.onLink n fun l => l.assemble s.standard (l.assembly ++ [b.data]) s.F
    else s

/-! ## Beginning a frame (R36, R41, R42) -/

/-- A timer loaded: 0 leaves it stopped. -/
def loadTimer (n : Nat) : Option Nat := if n = 0 then none else some n

/-- The frame of an exchange begun on deck `n`'s IDLE port: it takes the next tag (R41). What the beginning of a frame
tells a chase (R102), a punch (R136) or the poll timer (R52) is told. A poll timer that has expired and not been acted on
is loaded all the same, and that expiry is then not made (log entry 43). -/
def State.beginFrame (s : State) (n : Deck) (e : Exchange) : State :=
  let tag := (s.deck n).link.nextTag
  let s := s.onDeck n fun d =>
    { d with
      link := { d.link with exchange := some { e with tag := tag, phase := .sending, timer := none }
                            nextTag := d.link.nextTag + 1, judged := none }
      tx := d.tx.start (commandFrame tag e.command) }
  match e.requester, e.punch with
  | .chase, _ => if e.live then s.onChase n fun c => c.begun e.command else s
  | .engine, some i => if e.live then s.punchBegun i else s
  | .poll, _ =>
    s.onDeck n fun d => { d with link := { d.link with pollPending := false, pollTimer := loadTimer d.settings.pollInterval } }
  | _, _ => s

/-! ## Seeks (R49 to R51) -/

/-- Deck `n`'s pending seek ended: complete with no code, else unfinished; its requester is told. -/
def State.endSeek (s : State) (n : Deck) (code : Option FaultCode) : State :=
  match (s.deck n).link.seek with
  | none => s
  | some p =>
    let s := s.onLink n fun l => { l with seek := none, seekTimer := none }
    match p.requester, code with
    | .host, _ => s.hostSeekEnd n code
    | .engine, none => if p.live then s.cueArrived n else s
    | .engine, some c => if p.live then s.cueFailed c else s
    | .chase, none => s.chaseArrived n p
    | .chase, some c => s.chaseSeekFailed n p (c == .superseded)
    | _, _ => s

/-- The frame-sent of deck `n`'s port (R25, R42, R51). -/
def State.deckFrameSent (s : State) (n : Deck) : State :=
  match (s.deck n).link.exchange with
  | none => s
  | some e =>
    let s := s.onDeck n fun d =>
      { d with link := { d.link with exchange := some { e with phase := .awaiting, timer := some d.settings.replyTimeout } } }
    if e.command.isMotion ∧ (s.deck n).link.seek.isSome then
      (s.offerDeck n 2 .superseded 0).endSeek n (some .superseded)
    else s

/-! ## Outcomes (R43 to R46) -/

/-- The link state after a matching final reply (R46). -/
def LinkState.heard : LinkState → LinkState
  | .probing => .up
  | .down => .up
  | q => q

/-- The seek of an exchange still concerns its requester: a chase SEEK replaced by a newer offer does not (R103). -/
def Exchange.seekLive (e : Exchange) : Bool := e.live && !(e.requester == .chase && e.overtaken)

/-- A SEEK answered TAKEN makes the pending seek and starts its timer (R49). -/
def Link.makeSeek (l : Link) (e : Exchange) (limit : Nat) : Link :=
  match e.command with
  | .seek a df => { l with seek := some ⟨e.requester, a, df, e.seekLive⟩, seekTimer := loadTimer limit }
  | _ => l

/-- TAKEN handed to its requester (R45). -/
def State.deliverTaken (s : State) (n : Deck) (e : Exchange) : State :=
  let s := s.onDeck n fun d => { d with link := d.link.makeSeek e d.settings.seekLimit }
  match e.requester with
  | .host => s.hostTaken n e.command
  | .engine => if e.live then s.engineOutcome n e.command e.punch .taken else s
  | _ => s

/-- REFUSED handed to its requester (R45). -/
def State.deliverRefused (s : State) (n : Deck) (e : Exchange) (r : RefusalReason) : State :=
  match e.requester with
  | .host => s.hostRefused n r
  | .engine => if e.live then s.engineOutcome n e.command e.punch (.refused r) else s
  | .chase => if e.live then s.chaseRejected n e.command else s
  | _ => s

/-- A STATE stored, then handed to the pending-seek check, the tracker and the engine (R45, R50, R87, R131). -/
def State.deliverState (s : State) (n : Deck) (d : DeckState) : State :=
  let s := s.onLink n fun l => { l with lastState := some d }
  let s := if d.atTarget then s.endSeek n none else s
  (s.onTracker n fun t => t.takeState d).engineState n d

/-- An exchange ended by a final reply that fits (R43): the count cleared, the link state moved, the reply delivered. -/
def State.finalReply (s : State) (n : Deck) (e : Exchange) (r : Reply) (f : FieldCount) : State :=
  let s := s.onLink n fun l => { l with exchange := none, failures := 0, state := l.state.heard }
  match r with
  | .taken => s.deliverTaken n e
  | .refused why => s.deliverRefused n e why
  | .state d => s.deliverState n d
  | .position p => s.takePosition n p f
  | .holdOn => s

/-- The fault of an exhausted exchange (R44). -/
def Failure.code : Failure → FaultCode
  | .expiry => .linkTimeout
  | .garbled => .linkGarbled

/-- An exchange ended failed or FAULTED: the count rises, and the entry to DOWN falls due from PROBING or UP when the
retries were exhausted or the count has reached the limit (R44, R46). -/
def Link.endFailed (l : Link) (limit : Nat) (exhausted : Bool) : Link :=
  let count := min 255 (l.failures + 1)
  { l with
    exchange := none
    failures := count
    downDue := l.downDue || ((l.state == .probing || l.state == .up) && (exhausted || limit ≤ count)) }

/-- Deck `n`'s exchange ended failed (R44). -/
def State.endFailed (s : State) (n : Deck) (exhausted : Bool) : State :=
  s.onDeck n fun d => { d with link := d.link.endFailed d.settings.lossLimit exhausted }

/-- One failure of deck `n`'s exchange (R44): a retry, a FAULTED ending, or a failed ending. A host exchange of a deck
since claimed is not retried and ends FAULTED with DECK_CLAIMED (R65). -/
def State.failExchange (s : State) (n : Deck) (why : Failure) : State :=
  match (s.deck n).link.exchange with
  | none => s
  | some e =>
    let e := { e with lastFailure := some why }
    match e.requester with
    | .host =>
      if e.overtaken then (s.endFailed n false).hostOvertaken n
      else if 0 < e.retries then s.beginFrame n { e with retries := e.retries - 1 }
      else ((s.offerDeck n 3 why.code 0).endFailed n true).hostFaulted n why.code
    | .engine =>
      if 0 < e.retries then s.beginFrame n { e with retries := e.retries - 1 }
      else
        let s := (s.offerDeck n 3 why.code 0).endFailed n true
        if e.live then s.engineOutcome n e.command e.punch (.faulted why.code) else s
    | .chase =>
      let s := s.endFailed n false
      if e.live then s.chaseRejected n e.command else s
    | .tracker => s.endFailed n false
    | .poll => s.endFailed n false

/-- A HOLD-ON (R43, R46). -/
def State.holdOn (s : State) (n : Deck) : State :=
  s.onDeck n fun d =>
    { d with
      link :=
        { d.link with
          exchange := d.link.exchange.map fun e => { e with phase := .holding, timer := loadTimer d.settings.holdTimeout }
          state := if d.link.state = .probing then .up else d.link.state } }

/-- How the held frame of a link is acted on. -/
inductive FrameAct where
  | none | discard | garbled
  | reply (r : Reply)
  deriving DecidableEq, Repr

/-- The act of the frame held (R40, R43, R44): a frame that no longer concerns the exchange is discarded, and a
matching reply that does not fit counts as garbled (log entry 12). -/
def Link.frameAct (l : Link) : FrameAct :=
  match l.judged, l.exchange with
  | .none, _ => .none
  | some _, .none => .discard
  | some (j, _), some e =>
    if e.concerns j then
      match j with
      | .garbled => .garbled
      | .valid _ r => if r.fits e.command then .reply r else .garbled
    else .discard

/-- The held frame of deck `n` acted on. -/
def State.actOnFrame (s : State) (n : Deck) : State :=
  let l := (s.deck n).link
  let cleared := s.onLink n fun l => { l with judged := none }
  match l.frameAct, l.exchange, l.judged with
  | .none, _, _ => s
  | .discard, _, _ => cleared
  | .garbled, _, _ => cleared.failExchange n .garbled
  | .reply .holdOn, _, _ => cleared.holdOn n
  | .reply r, some e, some (_, f) => cleared.finalReply n e r f
  | .reply _, _, _ => cleared

/-! ## DOWN and ABSENT (R31, R33, R47) -/

/-- The entry to DOWN (R47), in its order. The head that the completions of step 1 make, be it a CLEAR-FAULT, a CHASE or
an UNCHASE, is examined after step 6, a place R47 and R63 leave open (DESIGN CHOICE, log entry 55). -/
def State.enterDown (s : State) (n : Deck) : State :=
  let s := s.onLink n fun l => { l with state := .down, downDue := false }
  let s := (s.faultHeldRecords n).endSeek n (some .linkDown)
  let s := (s.offerDeck n 3 .linkDown 0).raise .deckFault
  let s := s.onTracker n Tracker.linkLost
  let s := if s.claimed n then s.abort .deckFailed else s
  s.examineSoon n

/-- An exchange of deck `n` cut off by its port (R31, R33): it ends FAULTED with PORT_RESTART, and the count is 0. -/
def State.cutExchange (s : State) (n : Deck) : State :=
  match (s.deck n).link.exchange with
  | none => s
  | some e =>
    let s := s.onLink n fun l => { l with exchange := none, failures := 0, judged := none }
    let s :=
      match e.requester with
      | .host => s.hostFaulted n .portRestart
      | .engine => if e.live then s.engineOutcome n e.command e.punch (.faulted .portRestart) else s
      | .chase => if e.live then s.chaseRejected n e.command else s
      | _ => s
    s.offerDeck n 3 .portRestart 0

/-- Deck `n`'s link enters ABSENT (R31, R33, R48, R52, R72, R86, R108). -/
def State.enterAbsent (s : State) (n : Deck) : State :=
  let s := (s.cutExchange n).endSeek n (some .portRestart)
  let s := s.onDeck n fun d =>
    { d with
      link := { d.link with state := .absent, pollTimer := none, pollPending := false, judged := none }
      arbiter := { d.arbiter with trim := none, positionRequest := false }
      tracker := d.tracker.linkLost }
  (s.endChase n).examineSoon n

/-- Deck `n`'s link enters PROBING, from ABSENT or at a port restart (R31, R33, R52). -/
def State.enterProbing (s : State) (n : Deck) : State :=
  let s := (s.cutExchange n).endSeek n (some .portRestart)
  s.onDeck n fun d =>
    { d with link := { d.link with state := .probing, pollTimer := loadTimer d.settings.pollInterval, judged := none } }

/-! ## Timers (R51 to R53) -/

/-- The expiry of deck `n`'s seek timer (R51). -/
def State.seekExpired (s : State) (n : Deck) : State :=
  (s.offerDeck n 2 .seekTimeout 0).endSeek n (some .seekTimeout)

/-- Deck `n` is polled every frame (R53): it has a pending seek, or is claimed while the engine is CUEING. -/
def State.polledEachFrame (s : State) (n : Deck) : Bool :=
  (s.deck n).link.seek.isSome || (s.claimed n && s.engine.state == .cueing)

/-- A poll made pending (R52, R53). -/
def State.makePoll (s : State) (n : Deck) : State :=
  if (s.deck n).link.state = .absent then s else s.onLink n fun l => { l with pollPending := true }

/-- The expiry of deck `n`'s poll timer (R52, R53, R88). -/
def State.pollExpired (s : State) (n : Deck) : State :=
  let s := s.onDeck n fun d => { d with link := { d.link with pollTimer := loadTimer d.settings.pollInterval } }
  let s := if s.polledEachFrame n then s else s.makePoll n
  s.pollRequest n

/-- The poll of a frame boundary (R53). -/
def State.boundaryPoll (s : State) (n : Deck) : State := if s.polledEachFrame n then s.makePoll n else s

/-- One field tick of a timer. -/
def tickTimer (t : Option Nat) : Option Nat := t.map (· - 1)

/-- One field tick of a link's timers (R42). -/
def Link.tick (l : Link) : Link :=
  { l with
    exchange := l.exchange.map fun e => { e with timer := tickTimer e.timer }
    seekTimer := tickTimer l.seekTimer
    pollTimer := tickTimer l.pollTimer }

/-- The reply timer has expired: it has reached 0 while AWAITING or HOLDING. -/
def Link.replyDue (l : Link) : Bool := l.exchange.any fun e => e.timer == some 0

/-- The seek timer has expired. -/
def Link.seekDue (l : Link) : Bool := l.seekTimer == some 0

/-- The poll timer has expired. -/
def Link.pollDue (l : Link) : Bool := l.pollTimer == some 0

/-! ## All-stop's offer and the arbiter (R69 to R73, R172) -/

/-- The requests the arbiter may choose, in the order of Table 4-6. -/
inductive Choice where
  | engine (r : EngineRequest)
  | trim (c : LinkCommand)
  | host (h : HeldRecord) (c : LinkCommand)
  | position
  | poll
  deriving DecidableEq, Repr

/-- Deck `n`'s link is free (R42); a link about to enter DOWN waits for that entry. -/
def DeckUnit.free (d : DeckUnit) : Bool :=
  d.link.state != .absent && d.link.exchange.isNone && d.tx.state == .idle && !d.link.downDue

/-- The motion command at a head that is not blocked: source 3. -/
def CommandList.source (l : CommandList) : Option (HeldRecord × LinkCommand) :=
  if l.blocked then none
  else
    match l.head with
    | none => none
    | some h =>
      match h.command with
      | .motion c => some (h, c)
      | _ => none

/-- A PUNCH-IN of the event is not sent outside SYNCED and RECORDING (R134), nor from its planned field + 3 on, where it
is abandoned (R136). At the head of the engine queue it waits for that, and what stands behind it with it (log
entry 42). -/
def State.punchBarred (s : State) (r : EngineRequest) : Bool :=
  match r.command, r.punch with
  | .punchIn _, some i =>
    r.live && (!(s.engine.state == .synced || s.engine.state == .recording) ||
      (s.engine.punches.get i).any fun p => 3 ≤ fieldDiff s.F p.planned)
  | _, _ => false

/-- The first source that holds a request and is not passed over (R69, R73). -/
def State.choice (s : State) (n : Deck) : Option Choice :=
  let d := s.deck n
  let window := s.punchWindow n
  match d.arbiter.engineQueue with
  | r :: _ => if s.punchBarred r then none else some (.engine r)
  | [] =>
    match (if window then none else d.arbiter.trim), (if s.claimed n then none else d.list.source) with
    | some c, _ => some (.trim c)
    | none, some (h, c) => some (.host h c)
    | none, none =>
      if d.arbiter.positionRequest && !window then some .position
      else if d.link.pollPending && !window then some .poll
      else none

/-- A new exchange of a requester (R42). -/
def newExchange (q : Requester) (c : LinkCommand) (retries : Nat) (live : Bool) (punch : Option PunchId) : Exchange :=
  ⟨q, c, 0, .sending, none, retries, none, live, punch, false⟩

/-- A choice handed to the controller (R42, R69). A host head chosen while the link is DOWN is not sent (R48). -/
def State.handOver (s : State) (n : Deck) (c : Choice) : State :=
  let retries := (s.deck n).settings.retryLimit
  match c with
  | .engine r =>
    (s.onArbiter n fun a => { a with engineQueue := a.engineQueue.tail }).beginFrame n
      (newExchange .engine r.command retries r.live r.punch)
  | .trim c => (s.emptyTrim n).beginFrame n (newExchange .chase c 0 true none)
  | .host h c =>
    if (s.deck n).link.state = .down then s.completeOffered n h (.failed .linkDown) 3
    else
      (s.onList n fun l => { l with queue := markHead .chosen l.queue }).beginFrame n
        (newExchange .host c retries true none)
  | .position =>
    (s.onArbiter n fun a => { a with positionRequest := false }).beginFrame n
      (newExchange .tracker .readPosition 0 true none)
  | .poll => s.beginFrame n (newExchange .poll .report 0 true none)

/-- Deck `n`'s arbiter chooses while the link is free (R69). A choice that completed a record without a frame is
followed by another, at most `fuel` times: 4 held records and 16 slots bound them. -/
def State.arbitrate (s : State) (n : Deck) : Nat → State
  | 0 => s
  | fuel + 1 =>
    if (s.deck n).free then
      match s.choice n with
      | none => s
      | some c =>
        let s := s.handOver n c
        if (s.deck n).free then (s.service n).arbitrate n fuel else s
    else s

/-- The command lists and the arbiters brought up to date after a change (R59, R63, R69). -/
def State.settleDecks (s : State) : State :=
  (s.eachDeck fun n s => s.service n).eachDeck fun n s => s.arbitrate n 32

end Sys2Proof.Machine
end

