-- ==== Sys2Proof/Machine/Timeline.lean ====
section
/-!
DEFINITION. The timeline unit (1.5) and what a field tick and a frame boundary do in every block; the deck status
records (11.9).
-/

namespace Sys2Proof.Machine

/-! ## The timeline's own state -/

/-- The limit of the field timer in a reference state (R11). -/
def RefState.limit : RefState → TimerLimit
  | .locked => .nominalAndEighth
  | _ => .nominal

/-- One field advance (R10) with its identity, to a reference state and a miss count: the field timer restarts. -/
def Timeline.advance (t : Timeline) (id : FieldId) (state : RefState) (miss : Nat) : Timeline :=
  { t with
    F := t.F + 1
    field := id
    refState := state
    miss := miss
    timer := ⟨state.limit, t.standard⟩ }

/-- A pulse counted in ACQUIRING (R14). -/
def Timeline.countPulse (t : Timeline) (id : FieldId) : Timeline :=
  { t with
    good := match t.prevPulse with
      | none => 1
      | some p => if p = id then 0 else t.good + 1
    prevPulse := some id }

/-- A pulse in LOST begins acquisition (R15). -/
def Timeline.beginAcquiring (t : Timeline) (id : FieldId) : Timeline :=
  { t with refState := .acquiring, good := 1, prevPulse := some id, miss := 0 }

/-- A newly accepted standard and reference mode (R17): F, the identity and the running timer are kept. -/
def Timeline.configure (t : Timeline) (std : Standard) (mode : RefMode) : Timeline :=
  if t.standard = std ∧ t.refMode = mode then t
  else if t.refMode = .internal ∧ mode = .internal then { t with standard := std }
  else
    { t with
      standard := std
      refMode := mode
      refState := match mode with
        | .internal => .absent
        | .external => .acquiring
      good := 0
      prevPulse := none
      miss := 0 }

/-! ## Deck status records (R192, Table 12-12) -/

/-- Bytes 0 to 10: link, last STATE, and the tracker's sample. With no STATE the mode is 0xFF and the flags are written
0; with no sample the source is 0, and the address and the field identity are written 0 (log entry 49). -/
def DeckUnit.statusPosition (d : DeckUnit) : List Byte :=
  let state := match d.link.lastState with
    | none => [0xFF, 0]
    | some x => [byte x.mode.code, byte x.flags]
  let sample := match d.tracker.latest with
    | none => [0, 0, 0, 0, 0, 0]
    | some x => addrBytes (addrOf x.kind (x.pos / 2)) ++ [byte (posField x.pos).code, byte x.source.code]
  byte d.link.state.code :: (state ++ [byte d.tracker.quality.code, byte (kindCode d.tracker.kind)] ++ sample)

/-- The 64 bytes of a deck status record; `claim` is the claiming event slot. A capture offset above 0xFFFF is written as
0xFFFF (log entry 52). -/
def DeckUnit.status (d : DeckUnit) (claim : Option (Fin 64)) : List Byte :=
  d.statusPosition ++ [0] ++ wordSigned d.tracker.v ++ word d.tracker.userBits.toNat
    ++ [byte d.tracker.colour.toNat, byte d.chase.state.code] ++ errorBytes d.chase.lastError
    ++ [byte (claim.elim 0xFF Fin.val), 0, byte d.capture.severity, byte d.capture.code.num] ++ halfSat d.capture.offset
    ++ wordOfField d.capture.F ++ List.replicate 30 0

/-- The claiming event slot of deck `n`. -/
def State.claimSlot (s : State) (n : Deck) : Option (Fin 64) := if s.claimed n then s.engine.takenSlot else none

/-- Deck `n`'s status record written if its content differs from what was last written (R192). -/
def State.writeStatus (s : State) (n : Deck) : State :=
  if s.iface.configured ∧ s.iface.topmem.val ≠ 0 then
    let content := (s.deck n).status (s.claimSlot n)
    if (s.deck n).statusWritten = some content then s
    else
      match s.writeMem (16 * s.iface.bases.deck.get n + 256) content with
      | (true, s) => s.onDeck n fun d => { d with statusWritten := some content }
      | (false, s) => s
  else s

/-! ## The field tick (R10) -/

/-- The timers of every deck link at a field tick. -/
def State.tickTimers (s : State) : State := s.eachDeck fun n s => s.onLink n Link.tick

/-- What the engine notes at a frame boundary: a roll falls due (R132), and a completion that failed is to be made again
(R141). -/
def Engine.boundary (e : Engine) : Engine :=
  { e with
    rollDue := e.rollDue || (e.state == .cued && e.startPending)
    retryDue := e.retryDue || e.completionFailed }

/-- What a frame boundary does: the mirror (R18), the deck status records (R192), polls (R53), flywheels (R85), position
requests (R88), the engine. -/
def State.frameBoundary (s : State) : State :=
  let s := s.writeMirror.eachDeck fun n s => s.writeStatus n
  let s := s.eachDeck fun n s => s.boundaryPoll n
  let s := s.eachDeck fun n s => s.flywheelBoundary n
  let s := s.eachDeck fun n s => s.boundaryRequest n
  s.onEngine Engine.boundary

/-- One field tick, after the advance itself. -/
def State.fieldTick (s : State) : State :=
  let s := s.tickTimers.fieldFrameTick
  if s.timeline.field = .first then s.frameBoundary else s

/-- The timeline advanced and its tick made; everything due in the field that ends has been done before. -/
def State.advance (s : State) (id : FieldId) (state : RefState) (miss : Nat) : State :=
  (s.onTimeline fun t => t.advance id state miss).fieldTick

/-! ## Entry to LOST (R13, R16) -/

/-- The miss count has reached 16 in HOLDOVER. -/
def Timeline.lostDue (t : Timeline) : Bool := t.refState == .holdover && t.miss == 16

/-- The good-pulse count has reached 8 in ACQUIRING. -/
def Timeline.lockDue (t : Timeline) : Bool := t.refState == .acquiring && t.good == 8

/-- The states of the engine in which the loss of the reference aborts the event (Table 8-5). -/
def EngineState.needsReference : EngineState → Bool
  | .rolling => true
  | .synced => true
  | .recording => true
  | _ => false

/-- The entry to LOST. -/
def State.loseReference (s : State) : State :=
  let s := ((s.onTimeline fun t => { t with refState := .lost }).raise .reference).offerDevice 4 .referenceLost 0
  if s.engine.state.needsReference then s.abort .referenceLost else s

end Sys2Proof.Machine
end

