-- ==== Sys2Proof/Machine/Acts.lean ====
section
/-!
DEFINITION. The part's own acts: the rows of the opcode table that follow from a condition on the state. Each has the
condition under which it is due, and what it does. Some acts are made before any other command, the others at the latest
before the next field advance (log entries 6 and 7).
-/

namespace Sys2Proof.Machine

/-! ## Acts made before any other command -/

/-- Something of the immediate class is due on deck `n`: the entry to DOWN, the entry to LOCKED, the release from it. -/
def DeckUnit.immediate (d : DeckUnit) : Bool :=
  d.link.downDue || d.chase.lockDue || (d.chase.state == .locked && d.chase.unlockRun == 2)

/-- The immediate acts of deck `n` that are due. -/
def State.immediateDeck (s : State) (n : Deck) : State :=
  let s := if (s.deck n).link.downDue then s.enterDown n else s
  let s := if (s.deck n).chase.lockDue then s.lockChase n else s
  let c := (s.deck n).chase
  if c.state = .locked ∧ c.unlockRun = 2 then s.unlockChase n else s

/-- Some immediate act other than the lock of the reference is due. -/
def State.immediateDue (s : State) : Bool :=
  (Deck.list.any fun n => (s.deck n).immediate) || s.timeline.lostDue

/-- The immediate acts that are due made, but for the lock of the reference, and the decks settled after them. -/
def State.immediates (s : State) : State :=
  if s.immediateDue then
    let s := s.eachDeck fun n s => s.immediateDeck n
    (if s.timeline.lostDue then s.loseReference else s).settleDecks
  else s

/-! ## Acts made before the next field advance -/

/-- The acts. -/
inductive Act where
  | frame (n : Deck)
  | reply (n : Deck)
  | seek (n : Deck)
  | poll (n : Deck)
  | gap (n : Deck)
  | limit (n : Deck)
  | pulse (l : Line)
  | roll
  | trigger (i : Fin 4)
  | window (p : PunchId)
  | sync
  | abandon (p : PunchId)
  | punchIn (p : PunchId)
  | rehearseIn
  | punchOut
  | recordOut
  | endPostroll
  | retry
  deriving DecidableEq, Repr

/-- The entry `p` of the punch plan. -/
def State.punch (s : State) (p : PunchId) : Option Punch := s.engine.punches.get p

/-- Entry `p` has one of two statuses and its planned field displaced by `d` is the current F. -/
def State.punchAt (s : State) (p : PunchId) (d : Int) (a b : PunchStatus) : Bool :=
  (s.punch p).any fun x => (x.status == a || x.status == b) && s.F == fieldAdd x.planned d

/-- A field of the schedule is the current F. -/
def State.atField (s : State) (f : Schedule → FieldCount) : Bool := s.engine.schedule.any fun sch => s.F == f sch

/-- The engine is ROLLING through POSTROLL (R142). -/
def EngineState.rolled (e : EngineState) : Bool := e.running && e != .cueing && e != .cued

/-- An act is due. -/
def Act.due (a : Act) (s : State) : Bool :=
  let e := s.engine
  match a with
  | .frame n => (s.deck n).link.judged.isSome
  | .reply n => (s.deck n).link.replyDue
  | .seek n => (s.deck n).link.seekDue
  | .poll n => (s.deck n).link.pollDue
  | .gap n => (s.deck n).tracker.gap s.F
  | .limit n => (s.deck n).tracker.limitDue
  | .pulse l => s.gpi.pulses.get l == some s.F
  | .roll => e.rollDue && e.state == .cued && e.startPending
  | .trigger i => e.state.rolled && ((e.triggers[i.val]?).any fun t => t.status == .planned && t.field == s.F)
  | .window p => e.state.scheduled && s.punchAt p (-4) .planned .planned
  | .sync => e.state == .rolling && s.atField Schedule.fS
  | .abandon p => p != .out && e.state.scheduled && s.punchAt p 3 .queued .queued
  | .punchIn p => p != .out && (e.state == .synced || e.state == .recording) && s.punchAt p 0 .planned .window
  | .rehearseIn => e.state == .synced && (e.working.any fun w => !w.perform) && s.atField Schedule.fIn
  | .punchOut =>
    (e.state == .synced || e.state == .recording || e.state == .postroll) && s.punchAt .out 0 .planned .window
  | .recordOut => (e.state == .synced || e.state == .recording) && s.atField Schedule.fOut
  | .endPostroll => e.state == .postroll && s.atField Schedule.fEnd
  | .retry => e.retryDue && e.completionFailed

/-- An act of the engine on its event. -/
def State.onEvent (s : State) (f : State → Event → State) : State :=
  match s.engine.working with
  | none => s
  | some ev => f s ev

/-- What an act that is due does. -/
def Act.run (a : Act) (s : State) : State :=
  match a with
  | .frame n => s.actOnFrame n
  | .reply n => s.failExchange n .expiry
  | .seek n => s.seekExpired n
  | .poll n => s.pollExpired n
  | .gap n => s.enterFlywheel n
  | .limit n => s.endFlywheel n
  | .pulse l => s.onGpi fun g => { g with pulses := g.pulses.set l none }
  | .roll => s.onEvent State.rollEvent
  | .trigger i => match s.engine.triggers[i.val]? with
    | none => s
    | some t => s.fireTrigger i.val t
  | .window p => s.setPunch p .window
  | .sync => s.onEvent State.syncCheck
  | .abandon p => s.onEvent fun s ev => s.abandonPunch p ev.recorder
  | .punchIn p => s.onEvent fun s ev => s.offerPunch p ev.recorder (.punchIn ((s.punch p).elim 0 Punch.mask))
  | .rehearseIn => s.rehearseIn
  | .punchOut => s.onEvent fun s ev => s.offerPunch .out ev.recorder (.punchOut 15)
  | .recordOut => s.recordOut
  | .endPostroll => s.endPostroll
  | .retry => s.completeEvent

/-- The engine's acts in the order of Table 8-3. -/
def engineActs : List Act :=
  [.roll, .trigger 0, .trigger 1, .trigger 2, .trigger 3, .window .audio, .window .video, .window .out, .sync,
    .abandon .audio, .abandon .video, .punchIn .audio, .punchIn .video, .rehearseIn, .punchOut, .recordOut, .endPostroll]

/-- The order in which acts still due are made before a field advance (log entry 7). -/
def fieldActs : List Act :=
  Deck.list.map .frame ++ Deck.list.map .reply ++ Deck.list.map .seek ++ Deck.list.map .poll ++ Deck.list.map .gap
    ++ Deck.list.map .limit ++ Line.list.map .pulse ++ engineActs ++ [.retry]

/-- An act made if it is due, and everything settled after it. -/
def State.actIfDue (s : State) (a : Act) : State := if a.due s then (a.run s).settleDecks.immediates else s

/-- Every act still due made. -/
def State.catchUp (s : State) : State := fieldActs.foldl State.actIfDue s

/-- A field advance, after everything due in the field that ends. -/
def State.advanceField (s : State) (id : FieldId) (state : RefState) (miss : Nat) : State :=
  (s.catchUp.advance id state miss).settleDecks

/-- The lock of the reference (R14): the eighth pulse advances the timeline. -/
def State.lockReference (s : State) : State :=
  let id := s.timeline.prevPulse.getD .first
  (s.advanceField id .locked 0).raise .reference

/-- Everything made that comes before any other command. -/
def State.settle (s : State) : State :=
  let s := s.immediates
  if s.timeline.lockDue then s.lockReference.immediates else s

/-! ## Rows and acts -/

/-- A command of the part: what comes before any other command is made, then the command. -/
def command (f : State → State) (s : State) : Host.Outcome State Fault Refusal := .next (f s.settle)

/-- A write of the register window: without effect while the reset line is held (R194, log entry 9). -/
def registerWrite (f : State → State) (s : State) : Host.Outcome State Fault Refusal :=
  if s.resetHeld then .next s else command f s

/-- The row of an act: made when it is due. -/
def State.row (s : State) (a : Act) : State := if a.due s then (a.run s).settleDecks else s

/-- The row of an engine act: acts of the engine that fall on the same field and come earlier in Table 8-3 are made
first (R126). -/
def State.engineRow (s : State) (a : Act) : State :=
  if a.due s then ((engineActs.takeWhile (· ≠ a)).foldl State.actIfDue s).row a else s

end Sys2Proof.Machine
end

