-- ==== Sys2Proof/Machine/Setup.lean ====
section
/-!
DEFINITION. Loading a configuration (11.7), the post-reset sweep (R74), the resets (R194), and the all-stop (R172).
-/

namespace Sys2Proof.Machine

/-! ## The configuration record (Tables 12-5 to 12-7) -/

/-- `x` lies in lo..hi. -/
def within (lo hi x : Nat) : Bool := lo ≤ x && x ≤ hi

/-- The range checks of one port block at `o` (Table 12-6). -/
def portRanges (r : List Byte) (o : Nat) : List (Nat × Bool) :=
  [(o, byteAt r o ≤ 3), (o + 1, byteAt r (o + 1) ≤ 3), (o + 2, within 1 2 (byteAt r (o + 2)))]

/-- The range checks of one deck block at `o` (Table 12-7). -/
def deckRanges (r : List Byte) (o : Nat) : List (Nat × Bool) :=
  let b (i : Nat) := byteAt r (o + i)
  let h (i : Nat) := halfAt r (o + i)
  [(o, within 0 2 (b 0)), (o + 1, within 0 15 (b 1)), (o + 2, within 0 15 (b 2)), (o + 3, within 1 15 (b 3)),
    (o + 4, within 0 4095 (h 4)), (o + 6, within 0 7 (b 6)), (o + 7, within 1 15 (b 7)), (o + 8, within 0 4095 (h 8)),
    (o + 11, within 0 15 (b 11)), (o + 12, within 1 255 (b 12)), (o + 13, within 0 15 (b 13)),
    (o + 14, within 10 500 (h 14)), (o + 16, within (b 13) 31 (b 16)), (o + 17, within 1 15 (b 17)),
    (o + 18, within 10 9999 (h 18)), (o + 20, within 0 600 (h 20))]

/-- The output function of a code (Table 12-5). -/
def OutputFunction.ofCode? (c : Nat) : Option OutputFunction :=
  match c with
  | 0 => some .off
  | 1 => some .event
  | 2 => some .mark
  | 3 => some .recordTally
  | c => if 0x10 ≤ c then (Deck.ofNum? (c - 0x10)).map .programTally else none

/-- Every field of a configuration record in its range, in offset order (R189). -/
def configRanges (r : List Byte) : List (Nat × Bool) :=
  let b (i : Nat) := byteAt r i
  [(0x00, within 0 1 (b 0)), (0x01, within 0 1 (b 1)), (0x02, within 0 15 (b 2)), (0x03, within 0 1 (b 3)),
      (0x04, within 30 900 (halfAt r 4)), (0x06, within 1 300 (halfAt r 6)), (0x0E, within 0 1 (b 0x0E)),
      (0x0F, within 0 5 (b 0x0F) || b 0x0F == 0xFF)]
    ++ ((List.range 7).map fun p => portRanges r (0x10 + 4 * p)).flatten
    ++ ((List.range 13).map fun c => (0x2C + c, within 0 7 (b (0x2C + c))))
    ++ ((List.range 8).map fun i =>
      [(0x40 + 2 * i, within 0 2 (b (0x40 + 2 * i))), (0x41 + 2 * i, within 0 3 (b (0x41 + 2 * i)))]).flatten
    ++ ((List.range 8).map fun j => (0x50 + j, (OutputFunction.ofCode? (b (0x50 + j))).isSome))
    ++ ((List.range 6).map fun n => deckRanges r (0x60 + 24 * n)).flatten

/-- A region of Table 11-6: the offset of its base field, its first byte, its size. -/
structure Region where
  field : Nat
  start : Nat
  size : Nat
  deriving DecidableEq, Repr

/-- The regions other than the directory, in the table's order, the log passed over when its count is 0; `d` holds the
directory's host-written fields. -/
def regions (d : List Byte) : List Region :=
  let at_ (field size : Nat) : Region := ⟨field, 16 * halfAt d field, size⟩
  let count := halfAt d 0x16
  [at_ 0x00 320, at_ 0x02 320, at_ 0x04 320, at_ 0x06 320, at_ 0x08 320, at_ 0x0A 320, at_ 0x0C 4096, at_ 0x0E 256]
    ++ (if count = 0 then [] else [at_ 0x10 (16 + 16 * count)]) ++ [at_ 0x12 256, at_ 0x14 16]

/-- A region lies outside the directory and below the memory limit. -/
def Region.inBounds (x : Region) (limit : Nat) : Bool := 256 ≤ x.start && x.start + x.size ≤ limit

/-- Two regions share a byte. -/
def Region.overlaps (x y : Region) : Bool := x.start < y.start + y.size && y.start < x.start + x.size

/-- The first region that shares a byte with an earlier one. -/
def firstOverlap : List Region → List Region → Option Region
  | _, [] => none
  | earlier, x :: rest => if earlier.any x.overlaps then some x else firstOverlap (x :: earlier) rest

/-- The checks of the log count and threshold, on a record at `base`. -/
def logChecks (d r : List Byte) (base : Nat) : List (Nat × Bool) :=
  let count := halfAt d 0x16
  let threshold := halfAt r 0x0C
  [(0x16, count == 0 || within 4 1024 count), (base + 0x0C, threshold == 0 || threshold < count)]

/-- The checks of R189 after the first, in order: the refusal code and the offset it names. -/
def configFailure (d r : List Byte) (base limit : Nat) : Option (FaultCode × Nat) :=
  match firstFailure (configRanges r) with
  | some o => some (.badValue, base + o)
  | none =>
    match firstFailure (logChecks d r base) with
    | some o => some (.badValue, o)
    | none =>
      match (regions d).find? fun x => !x.inBounds limit with
      | some x => some (.regionBounds, x.field)
      | none => (firstOverlap [] (regions d)).map fun x => (.regionOverlap, x.field)

/-! ## Settings from a record in range -/

/-- The rate of a code. -/
def Rate.ofCode : Nat → Rate
  | 0 => .r9600
  | 1 => .r19200
  | 2 => .r38400
  | _ => .r76800

/-- The parity of a code. -/
def Parity.ofCode : Nat → Parity
  | 0 => .none
  | 1 => .odd
  | 2 => .even
  | _ => .zero

/-- A deck port's settings (Table 12-6). -/
def readPort (r : List Byte) (o : Nat) : PortSettings :=
  let enables := byteAt r (o + 3)
  ⟨.ofCode (byteAt r o), .ofCode (byteAt r (o + 1)), byteAt r (o + 2) == 2, enables.testBit 0, enables.testBit 1,
    enables.testBit 2⟩

/-- EP's settings: the receive enable and parity trust fields are disregarded (R34). -/
def readEffectsPort (r : List Byte) (o : Nat) : PortSettings :=
  { readPort r o with rxEnable := false, parityTrust := false }

/-- The role of a code. -/
def Role.ofCode : Nat → Role
  | 0 => .off
  | 1 => .source
  | _ => .recorder

/-- A deck's settings (Table 12-7). -/
def readDeck (r : List Byte) (o : Nat) : DeckSettings :=
  let b (i : Nat) := byteAt r (o + i)
  let h (i : Nat) := halfAt r (o + i)
  { role := .ofCode (b 0), input := b 1, editDelay := b 2, replyTimeout := b 3, holdTimeout := h 4, retryLimit := b 6
    lossLimit := b 7, seekLimit := h 8, pollInterval := b 10, flywheelLimit := b 11, gain := b 12, lockWindow := b 13
    vmax := h 14, unlockWindow := b 16, lockCount := b 17, windThreshold := h 18, seekLead := h 20 }

/-- The edge selection of a code. -/
def EdgeSelection.ofCode : Nat → EdgeSelection
  | 0 => .rising
  | 1 => .falling
  | _ => .both

/-- The input function of a code. -/
def InputFunction.ofCode : Nat → InputFunction
  | 0 => .none
  | 1 => .start
  | 2 => .capture
  | _ => .chord

/-- An input's settings. -/
def readInput (r : List Byte) (l : Line) : InputSettings :=
  ⟨.ofCode (byteAt r (0x40 + 2 * l.num)), .ofCode (byteAt r (0x41 + 2 * l.num))⟩

/-- An output's function. -/
def readOutput (r : List Byte) (l : Line) : OutputFunction :=
  (OutputFunction.ofCode? (byteAt r (0x50 + l.num))).getD .off

/-- The level of a cause. -/
def readLevel (r : List Byte) (c : Cause) : BitVec 3 := BitVec.ofNat 3 (byteAt r (0x2C + c.num))

/-- The levels of the thirteen causes. -/
def readLevels (r : List Byte) : PerCause (BitVec 3) :=
  Cause.list.foldl (fun v c => v.set c (readLevel r c)) (.all 0)

/-- The region bases of the directory. -/
def readBases (d : List Byte) : Bases :=
  ⟨.of fun n => halfAt d (2 * n.num), halfAt d 0x0C, halfAt d 0x0E, halfAt d 0x14⟩

/-- The suite's settings. -/
def readSuite (r : List Byte) : SuiteSettings :=
  ⟨halfAt r 4, halfAt r 6, if byteAt r 3 = 0 then .abort else .proceed, byteAt r 2⟩

/-- The standard of a record. -/
def readStandard (r : List Byte) : Standard := if byteAt r 0 = 0 then .s525 else .s625

/-- The reference mode of a record. -/
def readRefMode (r : List Byte) : RefMode := if byteAt r 1 = 0 then .external else .internal

/-! ## Ports at an acceptance (R30 to R33) -/

/-- The port is enabled (R32). -/
def PortSettings.enabled (p : PortSettings) : Bool := p.txEnable || p.rxEnable

/-- The line settings agree (R32). -/
def PortSettings.sameLine (p q : PortSettings) : Bool :=
  p.rate == q.rate && p.parity == q.parity && p.twoStopBits == q.twoStopBits && p.parityTrust == q.parityTrust

/-- A change of deck `n`'s transmit enable (R31). -/
def State.changeTransmit (s : State) (n : Deck) (on : Bool) : State :=
  let s := s.onTx n fun _ => .enabled on
  if on then s.enterProbing n else s.enterAbsent n

/-- A restart of deck `n`'s port with new settings (R33). -/
def State.restartPort (s : State) (n : Deck) (p : PortSettings) : State :=
  let s := s.onDeck n fun d =>
    { d with
      port := p
      tx := .enabled p.txEnable
      rx := .restarted p.rxEnable
      link := { d.link with assembly := [], judged := none } }
  if p.txEnable then s.enterProbing n else s.enterAbsent n

/-- The handling of deck `n`'s port (Table 2-8): the first row that fits. -/
def State.configurePort (s : State) (n : Deck) (p : PortSettings) : State :=
  let old := (s.deck n).port
  if old.enabled ∧ !old.sameLine p then s.restartPort n p
  else
    let s := s.onDeck n fun d => { d with port := p }
    let s := if old.rxEnable = p.rxEnable then s else s.onRx n fun r => r.enabled p.rxEnable
    if old.txEnable = p.txEnable then s else s.changeTransmit n p.txEnable

/-- The handling of EP (R32, R34, R152). -/
def State.configureEffects (s : State) (p : PortSettings) : State :=
  let old := s.ep.port
  if old = p then s
  else if old.enabled then
    ({ s with ep := ⟨p, .enabled p.txEnable⟩ }).onGenerator Generator.abandonFrame
  else { s with ep := ⟨p, .enabled p.txEnable⟩ }

/-! ## The other blocks at an acceptance (R190 step 1) -/

/-- The GPI unit's new settings (R171, R174). -/
def GpiUnit.configure (g : GpiUnit) (r : List Byte) : GpiUnit :=
  let outputs := Eight.of (readOutput r)
  let g' : GpiUnit :=
    { g with
      inputs := .of (readInput r)
      outputs := outputs
      pulses := .of fun l => if g.outputs.get l = outputs.get l then g.pulses.get l else none
      captureDeck := Deck.ofNum? (byteAt r 0x0F) }
  { g' with armed := !g'.chordClosed }

/-- The log writer's new settings (R179). -/
def LogWriter.configure (l : LogWriter) (d r : List Byte) : LogWriter :=
  let base := halfAt d 0x10
  let count := halfAt d 0x16
  let threshold := halfAt r 0x0C
  let edits := byteAt r 0x0E == 1
  if l.base = base ∧ l.count = count then { l with threshold := threshold, logEdits := edits }
  else
    { l with base := base, count := count, threshold := threshold, logEdits := edits, writeIndex := 0, consumed := 0
             armed := true }

/-- The header of a new log region as the part writes it, from byte 2 on: write index 0, overflow flag clear, unused
bytes 0 (R179, R195). The consumed index before it is the host's (log entry 40). -/
def newLogHeader : List Byte := List.replicate 14 0

/-- The log writer configured; a new region's header is written unless the count is 0 (R179). -/
def State.configureLog (s : State) (d r : List Byte) : State :=
  let old := s.log
  let s := s.onLog fun l => l.configure d r
  if (old.base = s.log.base ∧ old.count = s.log.count) ∨ s.log.count = 0 then s
  else (s.writeMem (s.log.header + 2) newLogHeader).2

/-- A judged frame under a newly accepted standard: a POSITION of a kind that is not the standard's is judged again and
found garbled, so that no sample of the old standard is accepted under the new (R5, R90, log entry 11). -/
def JudgedFrame.under (std : Standard) (j : JudgedFrame) : JudgedFrame :=
  match j with
  | .valid _ (.position (some p)) => if p.kind.standard = std then j else .garbled
  | _ => j

/-- The judged frame a link holds, judged again under a newly accepted standard. -/
def Link.rejudge (l : Link) (std : Standard) : Link :=
  { l with judged := l.judged.map fun (j, f) => (j.under std, f) }

/-- What a change of standard ends (R91, R108, R174): every chase, the trackers' positions, the mark table. A frame held
for its exchange is judged again (R90). -/
def State.changeStandard (s : State) : State :=
  let s := s.eachDeck fun n s => s.endChase n
  let s := s.eachDeck fun n s => s.onTracker n fun _ => .reset
  (s.eachDeck fun n s => s.onLink n fun l => l.rejudge s.standard).onMarks fun _ => .reset

/-- Deck `n`'s settings taken, and its status record due (R192). -/
def State.configureDeck (s : State) (n : Deck) (r : List Byte) : State :=
  s.onDeck n fun d => { d with settings := readDeck r (0x60 + 24 * n.num), statusWritten := none }

/-- Deck `n`'s poll timer loaded unless the link is ABSENT after the acceptance (R52); an expiry not yet acted on is then
not made (log entry 43). -/
def State.loadPollTimer (s : State) (n : Deck) : State :=
  s.onDeck n fun d =>
    if d.link.state = .absent then d
    else { d with link := { d.link with pollTimer := loadTimer d.settings.pollInterval } }

/-- Every block takes its settings (R190 step 1). -/
def State.takeSettings (s : State) (d r : List Byte) : State :=
  let std := s.standard
  let s := s.onTimeline fun t => t.configure (readStandard r) (readRefMode r)
  let s := { s with suite := readSuite r }
  let s := s.eachDeck fun n s => s.configureDeck n r
  let s := s.eachDeck fun n s => s.configurePort n (readPort r (0x10 + 4 * n.num))
  let s := s.configureEffects (readEffectsPort r 0x28)
  let s := s.eachDeck fun n s => s.loadPollTimer n
  let s := if std = s.standard then s else s.changeStandard
  let s := (s.onGpi fun g => g.configure r).configureLog d r
  s.onIface fun i => { i with levels := readLevels r, bases := readBases d }

/-! ## The post-reset sweep (R74) -/

/-- A slot the sweep reads: its offset, and whether it is an event slot. -/
structure SweepSlot where
  offset : Nat
  event : Bool
  deriving DecidableEq, Repr

/-- The slots of the sweep in order: the six rings, then the edit list. -/
def sweepSlots (b : Bases) : List SweepSlot :=
  (Deck.list.map fun n => (List.range 16).map fun i => ⟨16 * b.deck.get n + 16 * i, false⟩).flatten
    ++ (List.range 64).map fun i => ⟨16 * b.edit + 64 * i, true⟩

/-- The writes of a slot found TAKEN. -/
def SweepSlot.writes (x : SweepSlot) (f : FieldCount) : List (Nat × List Byte) :=
  let code := byte FaultCode.restarted.num
  if x.event then [(x.offset + 30, [0, code, 0, 0] ++ halfOfField f ++ List.replicate 28 0), (x.offset, [4])]
  else [(x.offset + 4, [0, 0, code, 0] ++ halfOfField f), (x.offset, [4])]

/-- The sweep of slots, ended by the first access that fails: whether a command slot and an event slot were swept. -/
def State.sweepAll (s : State) (swept : Bool × Bool) : List SweepSlot → (Bool × Bool) × State
  | [] => (swept, s)
  | x :: rest =>
    match s.readMem x.offset 1 with
    | (none, s) => (swept, s)
    | (some st, s) =>
      if byteAt st 0 = 2 then
        match s.writeAll (x.writes s.F) with
        | (false, s) => (swept, s)
        | (true, s) => s.sweepAll (swept.1 || !x.event, swept.2 || x.event) rest
      else s.sweepAll swept rest

/-- The sweep and its causes. -/
def State.sweep (s : State) : State :=
  let (swept, s) := s.sweepAll (false, false) (sweepSlots s.iface.bases)
  let s := if swept.1 then s.raise .deckFault else s
  if swept.2 then s.raise .editFault else s

/-! ## The load (R188 to R190) -/

/-- The result field written and CONFIG raised; a write that fails is not made. -/
def State.writeResult (s : State) (base : Nat) (code : FaultCode) (offset : Nat) : State :=
  (s.writeAll [(base + 8, [byte code.num]), (base + 0x0A, halfSat offset)]).2

/-- Deck `n`'s deferred scan (R59). -/
def State.deferredScan (s : State) (n : Deck) : State :=
  if (s.deck n).list.deferred then (s.onList n fun l => { l with deferred := false, rescan := true }).service n else s

/-- An attention to the mark unit acted on: its bit cleared, then the act (R163, R169). -/
def State.attendMarks (s : State) (g : Nat) (f : State → State) : State := f (s.setAttention g false)

/-- The groups deferred before the first acceptance acted on, in group order (R183). -/
def State.deferredGroups (s : State) : State :=
  let s := s.eachDeck fun n s => s.deferredScan n
  let s := if s.engine.deferred then (s.onEngine fun e => { e with deferred := false }).attendTake else s
  let s := if s.iface.attention.getLsbD 9 then s.attendMarks 9 State.loadMarks else s
  if s.iface.attention.getLsbD 12 then s.attendMarks 12 State.evaluateProbe else s

/-- A load accepted (R190). -/
def State.acceptConfig (s : State) (d r : List Byte) (base : Nat) : State :=
  let first := !s.iface.configured
  let s := (s.takeSettings d r).writeResult base .accepted 0
  let s := s.onIface fun i => { i with configured := true }
  (if first then s.sweep.deferredGroups else s).raise .config

/-- A load refused (R189). -/
def State.refuseConfig (s : State) (base : Nat) (code : FaultCode) (offset : Nat) : State :=
  (s.writeResult base code offset).raise .config

/-- A load (R188), its attention bit cleared. -/
def State.loadConfig (s : State) : State :=
  match s.readMem 0 24 with
  | (none, s) => s
  | (some d, s) =>
    let base := 16 * halfAt d 0x12
    match s.readMem base 256 with
    | (none, s) => s
    | (some r, s) =>
      if !s.engine.state.atRest ∨ s.engine.takeInProgress then s.refuseConfig base .engineActive 0
      else
        match configFailure d r base s.iface.limit with
        | some (code, o) => s.refuseConfig base code o
        | none => s.acceptConfig d r base

/-! ## Resets (R194) -/

/-- Every block at its values after a reset. Suite memory, the levels on the GPI inputs, the commands waiting and the
latch of the last CAUSE read are no block's. -/
def State.resetBlocks (s : State) (cause : ResetCause) (topmem : Fin 257) (held : Bool) : State :=
  { State.reset with
    pending := s.pending
    resetHeld := held
    causeRead := s.causeRead
    mem := s.mem
    iface := .reset cause topmem
    gpi := .reset s.gpi.levels }

/-! ## TOPMEM (R193) -/

/-- A written TOPMEM value as held: above 256 as 256. -/
def topmemOf (v : Half) : Fin 257 := if h : v.toNat < 257 then ⟨v.toNat, h⟩ else 256

/-- A write of TOPMEM (R193, R187). -/
def State.writeTopmem (s : State) (v : Half) : State :=
  let old := s.iface.topmem
  let s := s.onIface fun i => { i with topmem := topmemOf v }
  if s.iface.topmem = 0 then s
  else if s.iface.startUpDue then s.writeStartUp
  else if old = 0 then s.writeDevice
  else s

/-! ## All-stop (R172) -/

/-- The all-stop's HALT offered to a deck whose link is UP or PROBING and which is not claimed. -/
def State.allStopHalt (s : State) (n : Deck) : State :=
  let q := (s.deck n).link.state
  if (q = .up ∨ q = .probing) ∧ !s.claimed n then (s.offerEngine n ⟨.halt, false, none⟩).2 else s

/-- An all-stop. -/
def State.allStop (s : State) : State :=
  let s := (s.abort .allStop).eachDeck fun n s => s.endChase n
  (s.eachDeck fun n s => s.allStopHalt n).raise .allStop

/-! ## GPI inputs (R170, R171) -/

/-- The chord judged after a level change (R171): whether an all-stop occurs. -/
def GpiUnit.judgeChord (g : GpiUnit) : Bool × GpiUnit :=
  if g.armed ∧ g.chordClosed then (true, { g with armed := false })
  else if !g.armed ∧ Line.list.any (fun l => g.member l && !g.atActive l) then (false, { g with armed := true })
  else (false, g)

/-- What an edge does, by the input's function (R170). -/
def State.edge (s : State) (line : Line) (high : Bool) : State :=
  match (s.gpi.inputs.get line).function with
  | .none => s
  | .start => s.startRequest .gpi
  | .capture => s.appendLog (s.gpiEntry line high)
  | .chord => s

/-- A change of input `line` to `high` (R170, R171). -/
def State.inputChange (s : State) (line : Line) (high : Bool) : State :=
  if s.gpi.levels.get line = high then s
  else
    let s := s.onGpi fun g => { g with levels := g.levels.set line high }
    let s := if s.gpi.isEdge line high then s.edge line high else s
    match s.gpi.judgeChord with
    | (true, g) => (s.onGpi fun _ => g).allStop
    | (false, g) => s.onGpi fun _ => g

end Sys2Proof.Machine
end

