-- ==== Sys2Proof/Machine/TimelineRows.lean ====
section
/-!
DEFINITION. The rows of the timeline unit (1.5), of the LTC inputs and the trackers (Chapter 5), and of the chase
controllers (Chapter 6).
-/

namespace Sys2Proof.Machine

/-- A row that is itself one of the acts made before any other command. -/
def directRow (f : State → State) (s : State) : Host.Outcome State Fault Refusal := .next (f s)

/-! ## The timeline -/

/-- An expiry of the field timer (R11, R13, R14, R15). -/
def State.timerExpiry (s : State) : State :=
  let t := s.timeline
  match t.refState with
  | .locked => (s.advanceField t.field.other .holdover 1).raise .reference
  | .holdover => s.advanceField t.field.other .holdover (min 16 (t.miss + 1))
  | .absent => s.advanceField t.field.other .absent t.miss
  | .acquiring => s.advanceField t.field.other .acquiring t.miss
  | .lost => s.advanceField t.field.other .lost t.miss

/-- FIELD_TIMER_EXPIRY (R11). -/
def execFieldTimerExpiry (s : State) : Host.Outcome State Fault Refusal := command State.timerExpiry s

/-- A reference pulse (R12, R14, R15). -/
def State.pulse (s : State) (id : FieldId) : State :=
  let t := s.timeline
  match t.refState with
  | .locked => if id = t.field.other then s.advanceField id .locked t.miss else s
  | .holdover => if id = t.field.other then (s.advanceField id .locked 0).raise .reference else s
  | .acquiring => s.onTimeline fun t => t.countPulse id
  | .lost => s.onTimeline fun t => t.beginAcquiring id
  | .absent => s

/-- REFERENCE_PULSE (R12). -/
def execReferencePulse (id : FieldId) (s : State) : Host.Outcome State Fault Refusal :=
  command (fun s => s.pulse id) s

/-- REFERENCE_LOCK (R14): made when the good-pulse count has reached 8 in ACQUIRING. -/
def execReferenceLock (s : State) : Host.Outcome State Fault Refusal :=
  directRow (fun s => if s.timeline.lockDue then s.immediates.lockReference else s) s

/-- REFERENCE_LOST (R13): made when the miss count has reached 16 in HOLDOVER. -/
def execReferenceLost (s : State) : Host.Outcome State Fault Refusal :=
  directRow (fun s => if s.timeline.lostDue then s.loseReference.settleDecks else s) s

/-! ## Words and quality -/

/-- WORD_ARRIVAL (R76): a word with a bad sync pattern or a malformed address produces no arrival. -/
def execWordArrival (n : Deck) (bits : BitVec 80) (s : State) : Host.Outcome State Fault Refusal :=
  command (fun s =>
    match ltcWord s.standard bits with
    | none => s
    | some w => (s.takeWord n w).settleDecks) s

/-- LTC_GAP (R84). -/
def execLtcGap (n : Deck) (s : State) : Host.Outcome State Fault Refusal := command (fun s => s.row (.gap n)) s

/-- FLYWHEEL_LIMIT (R85). -/
def execFlywheelLimit (n : Deck) (s : State) : Host.Outcome State Fault Refusal :=
  command (fun s => s.row (.limit n)) s

/-! ## Lock -/

/-- CHASE_LOCK (R104): made when the lock count has reached its setting. -/
def execChaseLock (n : Deck) (s : State) : Host.Outcome State Fault Refusal :=
  directRow (fun s => if (s.deck n).chase.lockDue then s.lockChase n else s) s

/-- CHASE_UNLOCK (R105): made when the unlock run has reached 2 in LOCKED. -/
def execChaseUnlock (n : Deck) (s : State) : Host.Outcome State Fault Refusal :=
  directRow (fun s =>
    let c := (s.deck n).chase
    if c.state = .locked ∧ c.unlockRun = 2 then s.unlockChase n else s) s

end Sys2Proof.Machine
end

