-- ==== Sys2Proof/Machine/LinkRows.lean ====
section
/-!
DEFINITION. The rows of the ports (Chapter 2) and of the deck links (Chapter 3).
-/

namespace Sys2Proof.Machine

/-! ## Ports -/

/-- The owner of port `p` places the next byte of its frame (R23). -/
def State.placeByte (s : State) (p : PortId) : State :=
  match p with
  | .deck n => s.onTx n Transmitter.placeNext
  | .ep => { s with ep := { s.ep with tx := s.ep.tx.placeNext } }

/-- TX_BYTE_PLACE (R23). -/
def execTxBytePlace (p : PortId) (s : State) : Host.Outcome State Fault Refusal :=
  command (fun s => s.placeByte p) s

/-- The character of port `p`'s shift byte ends (R24, R25, R151). -/
def State.endCharacter (s : State) (p : PortId) : State :=
  match p with
  | .deck n =>
    let (t, sent) := (s.deck n).tx.characterEnd
    let s := s.onTx n fun _ => t
    if sent then (s.deckFrameSent n).settleDecks else s
  | .ep =>
    let (t, sent) := s.ep.tx.characterEnd
    let s := { s with ep := { s.ep with tx := t } }
    if sent then s.onGenerator Generator.frameSent else s

/-- CHARACTER_END (R24). -/
def execCharacterEnd (p : PortId) (s : State) : Host.Outcome State Fault Refusal :=
  command (fun s => s.endCharacter p) s

/-- RECEIVER_SETTLED (R26). -/
def execReceiverSettled (n : Deck) (s : State) : Host.Outcome State Fault Refusal :=
  command (fun s => s.onRx n Receiver.settled) s

/-- BYTE_ARRIVAL (R27 to R29). -/
def execByteArrival (n : Deck) (samples : BitVec 8) (parity stop : Bool) (s : State) :
    Host.Outcome State Fault Refusal :=
  command (fun s => s.onDeck n fun d => { d with rx := d.rx.arrive d.port.parity samples parity stop }) s

/-- LINE_FALL_TO_SPACE (R26, R27). -/
def execLineFallToSpace (n : Deck) (s : State) : Host.Outcome State Fault Refusal :=
  command (fun s => s.onRx n Receiver.fall) s

/-- FALSE_START (R27). -/
def execFalseStart (n : Deck) (s : State) : Host.Outcome State Fault Refusal :=
  command (fun s => s.onRx n Receiver.falseStart) s

/-! ## Frames and replies -/

/-- BYTE_TAKE (R37): a completed frame still held is acted on first. -/
def execByteTake (n : Deck) (s : State) : Host.Outcome State Fault Refusal :=
  command (fun s => (s.actIfDue (.frame n)).takeByte n) s

/-- The row of a reply: the held frame is that reply. A matching reply that does not fit is left to GARBLED_FRAME. -/
def State.replyRow (s : State) (n : Deck) (is : Reply → Bool) : State :=
  let l := (s.deck n).link
  match l.judged with
  | some (.valid _ r, _) => if is r ∧ l.frameAct ≠ .garbled then s.row (.frame n) else s
  | _ => s

/-- REPLY_TAKEN (R43). -/
def execReplyTaken (n : Deck) (s : State) : Host.Outcome State Fault Refusal :=
  command (fun s => s.replyRow n fun r => r == .taken) s

/-- The reply is a REFUSED. -/
def Reply.isRefused : Reply → Bool
  | .refused _ => true
  | _ => false

/-- REPLY_REFUSED (R43). -/
def execReplyRefused (n : Deck) (s : State) : Host.Outcome State Fault Refusal :=
  command (fun s => s.replyRow n Reply.isRefused) s

/-- REPLY_HOLD_ON (R43). -/
def execReplyHoldOn (n : Deck) (s : State) : Host.Outcome State Fault Refusal :=
  command (fun s => s.replyRow n fun r => r == .holdOn) s

/-- The reply is a STATE. -/
def Reply.isState : Reply → Bool
  | .state _ => true
  | _ => false

/-- REPLY_STATE (R45). -/
def execReplyState (n : Deck) (s : State) : Host.Outcome State Fault Refusal :=
  command (fun s => s.replyRow n Reply.isState) s

/-- The reply is a POSITION. -/
def Reply.isPosition : Reply → Bool
  | .position _ => true
  | _ => false

/-- REPLY_POSITION (R78). -/
def execReplyPosition (n : Deck) (s : State) : Host.Outcome State Fault Refusal :=
  command (fun s => s.replyRow n Reply.isPosition) s

/-- The row of a garbled frame: the held frame is garbled, or a matching reply that does not fit. -/
def State.garbledRow (s : State) (n : Deck) : State :=
  let l := (s.deck n).link
  let garbled : Bool := match l.judged with
    | some (.garbled, _) => true
    | _ => false
  if garbled ∨ l.frameAct = .garbled then s.row (.frame n) else s

/-- GARBLED_FRAME (R44). -/
def execGarbledFrame (n : Deck) (s : State) : Host.Outcome State Fault Refusal :=
  command (fun s => s.garbledRow n) s

/-! ## Timers and DOWN -/

/-- REPLY_TIMER_EXPIRY (R44). -/
def execReplyTimerExpiry (n : Deck) (s : State) : Host.Outcome State Fault Refusal :=
  command (fun s => s.row (.reply n)) s

/-- LINK_ENTERS_DOWN (R47): made when the conditions of R46 have been met. -/
def execLinkEntersDown (n : Deck) (s : State) : Host.Outcome State Fault Refusal :=
  directRow (fun s => if (s.deck n).link.downDue then (s.enterDown n).settleDecks else s) s

/-- SEEK_TIMER_EXPIRY (R51). -/
def execSeekTimerExpiry (n : Deck) (s : State) : Host.Outcome State Fault Refusal :=
  command (fun s => s.row (.seek n)) s

/-- POLL_TIMER_EXPIRY (R52). -/
def execPollTimerExpiry (n : Deck) (s : State) : Host.Outcome State Fault Refusal :=
  command (fun s => s.row (.poll n)) s

end Sys2Proof.Machine
end

