-- ==== Sys2Proof/Machine/EngineRows.lean ====
section
/-!
DEFINITION. The rows of the edit engine's schedule (Chapter 8) and of the GPI unit (10.2, 10.3).
-/

namespace Sys2Proof.Machine

/-! ## The schedule (Table 8-3) -/

/-- ROLL (R132). -/
def execRoll (s : State) : Host.Outcome State Fault Refusal := command (fun s => s.engineRow .roll) s

/-- SYNC_CHECK (R133). -/
def execSyncCheck (s : State) : Host.Outcome State Fault Refusal := command (fun s => s.engineRow .sync) s

/-- TRIGGER (R142). -/
def execTrigger (i : Fin 4) (s : State) : Host.Outcome State Fault Refusal :=
  command (fun s => s.engineRow (.trigger i)) s

/-- PUNCH_WINDOW_OPEN (R135). -/
def execPunchWindowOpen (p : PunchId) (s : State) : Host.Outcome State Fault Refusal :=
  command (fun s => s.engineRow (.window p)) s

/-- PUNCH_IN_QUEUED (R136). -/
def execPunchInQueued (p : PunchId) (s : State) : Host.Outcome State Fault Refusal :=
  command (fun s => s.engineRow (.punchIn p)) s

/-- PUNCH_ABANDONED (R136). -/
def execPunchAbandoned (p : PunchId) (s : State) : Host.Outcome State Fault Refusal :=
  command (fun s => s.engineRow (.abandon p)) s

/-- REHEARSE_RECORD_IN (R138). -/
def execRehearseRecordIn (s : State) : Host.Outcome State Fault Refusal := command (fun s => s.engineRow .rehearseIn) s

/-- PUNCH_OUT_QUEUED (R139). -/
def execPunchOutQueued (s : State) : Host.Outcome State Fault Refusal := command (fun s => s.engineRow .punchOut) s

/-- RECORD_OUT (R140). -/
def execRecordOut (s : State) : Host.Outcome State Fault Refusal := command (fun s => s.engineRow .recordOut) s

/-- END_OF_POSTROLL (R140). -/
def execEndOfPostroll (s : State) : Host.Outcome State Fault Refusal := command (fun s => s.engineRow .endPostroll) s

/-- COMPLETION_RETRY (R141). -/
def execCompletionRetry (s : State) : Host.Outcome State Fault Refusal := command (fun s => s.row .retry) s

/-! ## GPI lines -/

/-- GPI_INPUT_CHANGE (R170, R171). -/
def execGpiInputChange (line : Line) (high : Bool) (s : State) : Host.Outcome State Fault Refusal :=
  command (fun s => (s.inputChange line high).settleDecks) s

/-- PULSE_END (R173). -/
def execPulseEnd (line : Line) (s : State) : Host.Outcome State Fault Refusal :=
  command (fun s => if (Act.pulse line).due s then (Act.pulse line).run s else s) s

end Sys2Proof.Machine
end

