-- ==== Sys2Proof/Machine/RegisterRows.lean ====
section
/-!
DEFINITION. The rows of the resets, the register window and the attention groups (Chapter 11).
-/

namespace Sys2Proof.Machine

/-! ## Resets (R194) -/

/-- POWER_ON. An act that is due and not yet made is dropped (R194 is silent: DESIGN CHOICE, log entry 51). -/
def execPowerOn (s : State) : Host.Outcome State Fault Refusal := .next (s.resetBlocks .powerOn 0 false)

/-- RESET_LINE: as power-on but for the reset cause; the line is held from here on. An act that is due and not yet made
is dropped (R194 is silent: DESIGN CHOICE, log entry 51). -/
def execResetLine (s : State) : Host.Outcome State Fault Refusal := .next (s.resetBlocks .resetLine 0 true)

/-- RESET_LINE_RELEASE. -/
def execResetLineRelease (s : State) : Host.Outcome State Fault Refusal := .next { s with resetHeld := false }

/-- A restart (R186, R193, R194): TOPMEM is kept, and a due start-up record is written at once if it is not 0. -/
def State.restart (s : State) : State :=
  let s := s.resetBlocks .restart s.iface.topmem false
  if s.iface.topmem = 0 then s else s.writeStartUp

/-- RESTART. The immediate acts that are due are made before it, as before any register write (R194 is silent: DESIGN
CHOICE, log entry 51). -/
def execRestart (s : State) : Host.Outcome State Fault Refusal := registerWrite State.restart s

/-! ## COMMAND -/

/-- ALL_STOP (R172, R186). -/
def execAllStop (s : State) : Host.Outcome State Fault Refusal := registerWrite (fun s => s.allStop.settleDecks) s

/-- The device capture cleared and written (R186). -/
def State.clearDevice (s : State) : State := (s.onIface fun i => { i with device := .empty }).writeDevice

/-- CLEAR_DEVICE_FAULT (R186). -/
def execClearDeviceFault (s : State) : Host.Outcome State Fault Refusal := registerWrite State.clearDevice s

/-! ## CAUSE, FLOOR, TOPMEM -/

/-- A read of CAUSE (R185): what it returns is latched, and the flag of the cause it took is cleared. -/
def State.readCause (s : State) : State :=
  let s' := { s with causeRead := s.iface.causeValue }
  match s.iface.top with
  | none => s'
  | some c => s'.onIface fun i => { i with pending := i.pending.set c false }

/-- CAUSE_READ (R185): a read, which the held reset line does not bar (R194). -/
def execCauseRead (s : State) : Host.Outcome State Fault Refusal := command State.readCause s

/-- A written FLOOR value as held: above 7 as 7 (R181). -/
def floorOf (v : Byte) : BitVec 3 := if 7 < v.toNat then 7 else BitVec.ofNat 3 v.toNat

/-- FLOOR_WRITE (R181, R184). -/
def execFloorWrite (v : Byte) (s : State) : Host.Outcome State Fault Refusal :=
  registerWrite (fun s => s.onIface fun i => { i with floor := floorOf v }) s

/-- TOPMEM_WRITE (R181, R193). -/
def execTopmemWrite (v : Half) (s : State) : Host.Outcome State Fault Refusal :=
  registerWrite (fun s => s.writeTopmem v) s

/-- REGISTER_WRITE_NO_EFFECT (R181). -/
def execRegisterWriteNoEffect (_ : Register) (_ : Half) (s : State) : Host.Outcome State Fault Refusal :=
  registerWrite (fun s => s) s

/-! ## ATTN (R183) -/

/-- A write of deck `n`'s group (R59): the bit is set and a scan of its ring started. -/
def State.attendScan (s : State) (n : Deck) : State :=
  (s.setAttention n.num true).onList n fun l => { l with rescan := true }

/-- ATTN_SCAN (R59). -/
def execAttnScan (n : Deck) (s : State) : Host.Outcome State Fault Refusal :=
  registerWrite (fun s => (s.attendScan n).settleDecks) s

/-- A write of 6 (R115): deferred before the first acceptance, held as look again during a take. -/
def State.attendSix (s : State) : State :=
  let s := s.setAttention 6 true
  if !s.iface.configured then s.onEngine fun e => { e with deferred := true }
  else if s.engine.takeInProgress then s.onEngine fun e => { e with lookAgain := true }
  else s.attendTake

/-- ATTN_TAKE (R115). -/
def execAttnTake (s : State) : Host.Outcome State Fault Refusal := registerWrite (fun s => s.attendSix.settleDecks) s

/-- ATTN_START (R132): bit 7 cleared, then a start request of the HOST kind. -/
def execAttnStart (s : State) : Host.Outcome State Fault Refusal :=
  registerWrite (fun s => (s.setAttention 7 false).startRequest .host) s

/-- ATTN_ABORT (R143): bit 8 cleared, then the abort. -/
def execAttnAbort (s : State) : Host.Outcome State Fault Refusal :=
  registerWrite (fun s => ((s.setAttention 8 false).abort .hostAbort).settleDecks) s

/-- An attention to the mark unit (R183): its bit stays set until the first acceptance, else it is cleared and acted on. -/
def State.attendMarkGroup (s : State) (g : Nat) (f : State → State) : State :=
  if s.iface.configured then s.attendMarks g f else s.setAttention g true

/-- ATTN_MARK_LOAD (R163). -/
def execAttnMarkLoad (s : State) : Host.Outcome State Fault Refusal :=
  registerWrite (fun s => s.attendMarkGroup 9 State.loadMarks) s

/-- ATTN_CONFIG_LOAD (R188): bit 10 cleared, then the load. -/
def execAttnConfigLoad (s : State) : Host.Outcome State Fault Refusal :=
  registerWrite (fun s => (s.setAttention 10 false).loadConfig.settleDecks) s

/-- ATTN_LOG_REREAD (R176): bit 11 cleared, then the re-read. -/
def execAttnLogReread (s : State) : Host.Outcome State Fault Refusal :=
  registerWrite (fun s => (s.setAttention 11 false).rereadLog) s

/-- ATTN_PROBE (R169). -/
def execAttnProbe (s : State) : Host.Outcome State Fault Refusal :=
  registerWrite (fun s => s.attendMarkGroup 12 State.evaluateProbe) s

end Sys2Proof.Machine
end

