-- ==== Sys2Proof/Machine/Dispatch.lean ====
section
/-!
DEFINITION. What each command does to everything but the queue of commands waiting.
-/

namespace Sys2Proof.Machine

def exec (i : Instr) (s : State) : Host.Outcome State Fault Refusal :=
  match i with
  | .powerOn => Sys2Proof.Machine.execPowerOn s
  | .resetLine => Sys2Proof.Machine.execResetLine s
  | .restart => Sys2Proof.Machine.execRestart s
  | .allStop => Sys2Proof.Machine.execAllStop s
  | .clearDeviceFault => Sys2Proof.Machine.execClearDeviceFault s
  | .causeRead => Sys2Proof.Machine.execCauseRead s
  | .floorWrite v => Sys2Proof.Machine.execFloorWrite v s
  | .topmemWrite v => Sys2Proof.Machine.execTopmemWrite v s
  | .registerWriteNoEffect r v => Sys2Proof.Machine.execRegisterWriteNoEffect r v s
  | .attnScan n => Sys2Proof.Machine.execAttnScan n s
  | .attnTake => Sys2Proof.Machine.execAttnTake s
  | .attnStart => Sys2Proof.Machine.execAttnStart s
  | .attnAbort => Sys2Proof.Machine.execAttnAbort s
  | .attnMarkLoad => Sys2Proof.Machine.execAttnMarkLoad s
  | .attnConfigLoad => Sys2Proof.Machine.execAttnConfigLoad s
  | .attnLogReread => Sys2Proof.Machine.execAttnLogReread s
  | .attnProbe => Sys2Proof.Machine.execAttnProbe s
  | .fieldTimerExpiry => Sys2Proof.Machine.execFieldTimerExpiry s
  | .referencePulse id => Sys2Proof.Machine.execReferencePulse id s
  | .referenceLock => Sys2Proof.Machine.execReferenceLock s
  | .referenceLost => Sys2Proof.Machine.execReferenceLost s
  | .txBytePlace p => Sys2Proof.Machine.execTxBytePlace p s
  | .characterEnd p => Sys2Proof.Machine.execCharacterEnd p s
  | .receiverSettled n => Sys2Proof.Machine.execReceiverSettled n s
  | .byteArrival n x p m => Sys2Proof.Machine.execByteArrival n x p m s
  | .byteTake n => Sys2Proof.Machine.execByteTake n s
  | .replyTaken n => Sys2Proof.Machine.execReplyTaken n s
  | .replyRefused n => Sys2Proof.Machine.execReplyRefused n s
  | .replyHoldOn n => Sys2Proof.Machine.execReplyHoldOn n s
  | .replyState n => Sys2Proof.Machine.execReplyState n s
  | .replyPosition n => Sys2Proof.Machine.execReplyPosition n s
  | .garbledFrame n => Sys2Proof.Machine.execGarbledFrame n s
  | .replyTimerExpiry n => Sys2Proof.Machine.execReplyTimerExpiry n s
  | .linkEntersDown n => Sys2Proof.Machine.execLinkEntersDown n s
  | .seekTimerExpiry n => Sys2Proof.Machine.execSeekTimerExpiry n s
  | .pollTimerExpiry n => Sys2Proof.Machine.execPollTimerExpiry n s
  | .wordArrival n w => Sys2Proof.Machine.execWordArrival n w s
  | .ltcGap n => Sys2Proof.Machine.execLtcGap n s
  | .flywheelLimit n => Sys2Proof.Machine.execFlywheelLimit n s
  | .chaseLock n => Sys2Proof.Machine.execChaseLock n s
  | .chaseUnlock n => Sys2Proof.Machine.execChaseUnlock n s
  | .roll => Sys2Proof.Machine.execRoll s
  | .syncCheck => Sys2Proof.Machine.execSyncCheck s
  | .trigger k => Sys2Proof.Machine.execTrigger k s
  | .punchWindowOpen p => Sys2Proof.Machine.execPunchWindowOpen p s
  | .punchInQueued p => Sys2Proof.Machine.execPunchInQueued p s
  | .punchAbandoned p => Sys2Proof.Machine.execPunchAbandoned p s
  | .rehearseRecordIn => Sys2Proof.Machine.execRehearseRecordIn s
  | .punchOutQueued => Sys2Proof.Machine.execPunchOutQueued s
  | .recordOut => Sys2Proof.Machine.execRecordOut s
  | .endOfPostroll => Sys2Proof.Machine.execEndOfPostroll s
  | .completionRetry => Sys2Proof.Machine.execCompletionRetry s
  | .gpiInputChange l h => Sys2Proof.Machine.execGpiInputChange l h s
  | .pulseEnd l => Sys2Proof.Machine.execPulseEnd l s
  | .lineFallToSpace n => Sys2Proof.Machine.execLineFallToSpace n s
  | .falseStart n => Sys2Proof.Machine.execFalseStart n s
  | .resetLineRelease => Sys2Proof.Machine.execResetLineRelease s

end Sys2Proof.Machine
end

