-- ==== Sys2Proof/Safety.lean ====
section
/-!
DEFINITION. The terms in which statements say that the block is at rest, that its memory is sound, and what its own
acts leave alone.
-/

namespace Sys2Proof.Machine

/-- Suite memory is in its canonical form. -/
abbrev State.memoryOk (s : State) : Prop := s.mem.wf = true

/-- The reset line is not held and no act of the immediate class is due: the next command acts at once on the state as
it stands. -/
abbrev State.ready (s : State) : Prop :=
  s.resetHeld = false ∧ s.immediateDue = false ∧ s.timeline.lockDue = false

/-- Nothing waits in deck `n`'s command list, and its arbiter has nothing to choose. -/
abbrev State.deckAtRest (s : State) (n : Deck) : Prop :=
  (s.deck n).list.rescan = false ∧ (s.deck n).list.examine = false ∧
    ((s.deck n).free = false ∨ s.choice n = none)

/-- No deck's command list or arbiter has anything to do. -/
abbrev State.decksAtRest (s : State) : Prop := ∀ n, s.deckAtRest n

/-- No deck's command list has anything to do, and no deck link is free: whatever is offered to an arbiter waits. -/
abbrev State.linksBusy (s : State) : Prop :=
  ∀ n, (s.deck n).list.rescan = false ∧ (s.deck n).list.examine = false ∧ (s.deck n).free = false

/-- No act of the engine that comes before `a` in Table 8-3 is due. -/
abbrev State.noEarlierAct (s : State) (a : Act) : Prop :=
  ∀ b ∈ engineActs.takeWhile (· ≠ a), b.due s = false

/-- The device capture's bytes in the directory (Table 12-4), an offset above 0xFFFF as 0xFFFF (log entry 52). -/
def Capture.directory (c : Capture) : List Byte :=
  byte c.severity :: byte c.code.num :: (halfSat c.offset ++ wordOfField c.F)

/-- Two states whose suite memories read alike outside the bytes from `a` to `a + n - 1`. -/
def State.sameOutside (s t : State) (a n : Nat) : Prop := ∀ b, b < a ∨ a + n ≤ b → t.mem.read b = s.mem.read b

/-- The taken slot, with the whole record below the limit. -/
abbrev State.slotHeld (s : State) (slot : Fin 64) : Prop :=
  s.engine.takenSlot = some slot ∧ s.eventSlot slot + 64 ≤ s.iface.limit

/-- What an abort of the event of `s` writes, by `t` (R136, R144): with no punch in its window nothing; else, into a taken
slot with a result write made before, byte 42 and, for each punch in its window and not sent, its planned field, no actual
field and no lateness. Nothing else is written, the results of the other punches included. -/
def State.abandonsWritten (s t : State) : Prop :=
  (s.engine.punches.window = false → t.mem = s.mem) ∧
  ∀ slot, s.slotHeld slot → s.memoryOk → s.engine.results.reached.isSome = true →
    s.sameOutside t (s.eventSlot slot + 42) 17 ∧
    t.mem.read (s.eventSlot slot + 43) = s.mem.read (s.eventSlot slot + 43) ∧
    (s.engine.punches.window = true →
      t.mem.read (s.eventSlot slot + 42) = byte s.engine.punches.abandonOpen.flags) ∧
    ∀ i,
      (∀ x, s.engine.punches.get i = some x → x.inWindow = true → x.actual = none →
        t.mem.load (s.eventSlot slot + punchOffset i) 5 = halfOfField x.planned ++ [0, 0, 0]) ∧
      ((∀ x, s.engine.punches.get i = some x → x.inWindow = false) →
        t.mem.load (s.eventSlot slot + punchOffset i) 5 = s.mem.load (s.eventSlot slot + punchOffset i) 5)

/-- What stands while the part acts by itself: it changes only at a register access, a load, an edge on an input, a
field advance, the running of a port, or a reset. -/
structure Standing where
  pending : List Instr
  resetHeld : Bool
  causeRead : Byte
  timeline : Timeline
  suite : SuiteSettings
  ep : EffectsPort
  topmem : Fin 257
  levels : PerCause (BitVec 3)
  floor : BitVec 3
  resetCause : ResetCause
  configured : Bool
  startUpDue : Bool
  loadInProgress : Bool
  bases : Bases
  settings : Six DeckSettings
  ports : Six PortSettings
  gpiLevels : Eight Bool
  gpiInputs : Eight InputSettings
  gpiOutputs : Eight OutputFunction
  chordArmed : Bool
  captureDeck : Option Deck
  logBase : Nat
  logCount : Nat
  logThreshold : Nat
  logEdits : Bool
  deriving DecidableEq, Repr

/-- What stands in `s`. -/
def State.standing (s : State) : Standing where
  pending := s.pending
  resetHeld := s.resetHeld
  causeRead := s.causeRead
  timeline := s.timeline
  suite := s.suite
  ep := s.ep
  topmem := s.iface.topmem
  levels := s.iface.levels
  floor := s.iface.floor
  resetCause := s.iface.resetCause
  configured := s.iface.configured
  startUpDue := s.iface.startUpDue
  loadInProgress := s.iface.loadInProgress
  bases := s.iface.bases
  settings := .of fun n => (s.deck n).settings
  ports := .of fun n => (s.deck n).port
  gpiLevels := s.gpi.levels
  gpiInputs := s.gpi.inputs
  gpiOutputs := s.gpi.outputs
  chordArmed := s.gpi.armed
  captureDeck := s.gpi.captureDeck
  logBase := s.log.base
  logCount := s.log.count
  logThreshold := s.log.threshold
  logEdits := s.log.logEdits

/-- Two states that differ in suite memory at most below the limit in force in the first (R182). -/
def State.sameAbove (s t : State) : Prop := ∀ a, s.iface.limit ≤ a → t.mem.read a = s.mem.read a


/-- Deck `n`'s transmitter, receiver, command list, tracker and status record stay. -/
def State.sidesKept (s t : State) (n : Deck) : Prop :=
  (t.deck n).tx = (s.deck n).tx ∧ (t.deck n).rx = (s.deck n).rx ∧ (t.deck n).list = (s.deck n).list ∧
    (t.deck n).tracker = (s.deck n).tracker ∧ (t.deck n).statusWritten = (s.deck n).statusWritten

/-- The mark unit, the log writer and the GPI unit stay. -/
def State.unitsKept (s t : State) : Prop := t.marks = s.marks ∧ t.log = s.log ∧ t.gpi = s.gpi

end Sys2Proof.Machine
end

