-- ==== Sys2Proof/WellFormed.lean ====
section
/-!
DEFINITION. Which commands are well formed: the operands that name the event of their own row. A command that is not
well formed still runs (the block has no other answer to it); it then is an event of another row, or no event.
-/

namespace Sys2Proof

/-- A write that the register window disregards (R181): any write to CAUSE or STATUS, a group number of 13 to 255, a
COMMAND code other than the three of R186. ATTN and COMMAND are eight bits wide. -/
def Register.disregards (reg : Register) (value : Half) : Bool :=
  match reg with
  | .cause => value.toNat < 256
  | .status => true
  | .attn => 13 ≤ value.toNat && value.toNat ≤ 255
  | .command => value.toNat ≤ 255 && value.toNat != 0xC3 && value.toNat != 0x3C && value.toNat != 0x5A

/-- The well-formed commands. Only three rows have operands that can name something else than the row's own event. -/
def Instr.wellFormed (i : Instr) : Bool :=
  match i with
  | .powerOn => true
  | .resetLine => true
  | .restart => true
  | .allStop => true
  | .clearDeviceFault => true
  | .causeRead => true
  | .floorWrite _ => true
  | .topmemWrite _ => true
  | .registerWriteNoEffect reg value => reg.disregards value
  | .attnScan _ => true
  | .attnTake => true
  | .attnStart => true
  | .attnAbort => true
  | .attnMarkLoad => true
  | .attnConfigLoad => true
  | .attnLogReread => true
  | .attnProbe => true
  | .fieldTimerExpiry => true
  | .referencePulse _ => true
  | .referenceLock => true
  | .referenceLost => true
  | .txBytePlace _ => true
  | .characterEnd _ => true
  | .receiverSettled _ => true
  | .byteArrival _ _ _ _ => true
  | .byteTake _ => true
  | .replyTaken _ => true
  | .replyRefused _ => true
  | .replyHoldOn _ => true
  | .replyState _ => true
  | .replyPosition _ => true
  | .garbledFrame _ => true
  | .replyTimerExpiry _ => true
  | .linkEntersDown _ => true
  | .seekTimerExpiry _ => true
  | .pollTimerExpiry _ => true
  | .wordArrival _ _ => true
  | .ltcGap _ => true
  | .flywheelLimit _ => true
  | .chaseLock _ => true
  | .chaseUnlock _ => true
  | .roll => true
  | .syncCheck => true
  | .trigger _ => true
  | .punchWindowOpen _ => true
  | .punchInQueued p => p != .out
  | .punchAbandoned p => p != .out
  | .rehearseRecordIn => true
  | .punchOutQueued => true
  | .recordOut => true
  | .endOfPostroll => true
  | .completionRetry => true
  | .gpiInputChange _ _ => true
  | .pulseEnd _ => true
  | .lineFallToSpace _ => true
  | .falseStart _ => true
  | .resetLineRelease => true

end Sys2Proof
end

