-- ==== Sys2Proof/Certificates/Slice0/Obligations.lean ====
section
/-!
DEFINITION. The statements for the provers: what the commands do, by the numbered rules of the manual, and what no
command ever does. `s.ready` says that the reset line is not held and nothing is due before the command; where a
result ends in `.settleDecks`, the command lists and arbiters are brought up to date after it, which
`Obligations.SettlingLeavesTheRest` bounds.
-/

section Statements

open Sys2Proof Sys2Proof.Machine

/-! ## Steps, resets and the register window -/

/-- One step takes the command at the front of the queue and executes it with the queue's rest; an empty queue idles.
The queue is the model's own (log entry 5). -/
def Obligations.StepTakesTheFront : Prop :=
  (∀ (s : State) (c : Instr) (rest : List Instr), s.pending = c :: rest →
    step s = exec c { s with pending := rest }) ∧
  (∀ s : State, s.pending = [] → step s = .next s)

/-- R19, R35, R124, R147, R162 and R180: what each reset leaves in the timeline unit and the ports, and in the edit engine,
the transition generator, the mark unit, the GPI unit and the log writer. A restart needs the line not held. That
the receive shift is 0 is log entry 18. -/
def Obligations.ResetLeavesTimelinePortsAndUnits : Prop :=
  (∀ (s : State) (c : Instr), c = .powerOn ∨ c = .resetLine ∨ (c = .restart ∧ s.resetHeld = false) →
     ∃ t, exec c s = .next t ∧
       t.timeline =
         { F := 0, field := .first, refState := .acquiring, refMode := .external, standard := .s525
           timer := ⟨.nominal, .s525⟩, good := 0, prevPulse := none, miss := 0 } ∧
       (∀ n, (t.deck n).port = ⟨.r9600, .none, false, false, false, false⟩ ∧
         (t.deck n).tx = ⟨.off, none, none, []⟩ ∧ (t.deck n).rx = ⟨.disabled, none, 0⟩) ∧
       t.ep = ⟨⟨.r9600, .none, false, false, false, false⟩, ⟨.off, none, none, []⟩⟩) ∧
  (∀ (s : State) (c : Instr), c = .powerOn ∨ c = .resetLine ∨ (c = .restart ∧ s.resetHeld = false) →
     ∃ t, exec c s = .next t ∧
       t.engine =
         { state := .idle, nextEvent := 0, working := none, takenSlot := none, takeInProgress := false
           lookAgain := false, deferred := false, claims := [], cue := .all none, startPending := false
           schedule := none, punches := ⟨none, none, none⟩, triggers := [], haltsAwaited := []
           haltOutcome := .all none, abortCode := none, endFault := none
           results := ⟨none, none, none, none, false, none⟩, rollDue := false, completionFailed := false
           retryDue := false } ∧
       t.generator =
         { state := .rest, event := none, content := ⟨0, 0, .idle, 0, 0⟩, sequence := 0, inProgress := false
           recordTally := false } ∧
       (∀ n, t.programTally n = false ∧ (t.deck n).settings.input = n.num) ∧ t.suite.blackInput = 15 ∧
       t.marks.entries.length = 16 ∧ (∀ m ∈ t.marks.entries, m.enabled = false ∧ m.matching = false) ∧
       (∀ n, t.marks.previous.get n = none) ∧
       (∀ l, t.gpi.inputs.get l = ⟨.rising, .none⟩ ∧ t.gpi.outputs.get l = .off ∧ t.gpi.pulses.get l = none ∧
         t.outputActive l = false) ∧
       t.gpi.armed = true ∧ t.gpi.captureDeck = none ∧
       t.log =
         { base := 0, count := 0, threshold := 0, logEdits := false, writeIndex := 0, sequence := 0, consumed := 0
           armed := true })

/-- R56, R75, R92 and R109: what each reset leaves in every deck's link, command list, arbiter, tracker and chase
controller, with their settings. The role is not among them (log entry 3). -/
def Obligations.ResetLeavesDecks : Prop :=
  ∀ (s : State) (c : Instr), c = .powerOn ∨ c = .resetLine ∨ (c = .restart ∧ s.resetHeld = false) →
    ∃ t, exec c s = .next t ∧ ∀ n,
      (t.deck n).link =
        { state := .absent, exchange := none, nextTag := 0, failures := 0, assembly := [], judged := none, seek := none
          seekTimer := none, pollTimer := none, pollPending := false, lastState := none, downDue := false } ∧
      (t.deck n).list =
        { nextSlot := 0, queue := [], scanning := false, rescan := false, deferred := false, examine := false } ∧
      (t.deck n).arbiter = { engineQueue := [], trim := none, positionRequest := false } ∧
      t.punchWindow n = false ∧ t.iface.configured = false ∧
      (t.deck n).tracker =
        { quality := .none, latest := none, base := none, history := [], v := 0, candidate := none, lastWord := none
          flywheelCount := 0, kind := none, userBits := 0, colour := false, limitDue := false } ∧
      (t.deck n).chase =
        { state := .off, starter := none, master := none, offset := none, origin := none, startField := none
          lastSpeed := none, seek := none, lockCount := 0, lastCounted := none, unlockRun := 0, lastError := none
          lockDue := false } ∧
      (t.deck n).settings =
        { role := (t.deck n).settings.role, input := n.num, editDelay := (t.deck n).settings.editDelay
          replyTimeout := 3, holdTimeout := 300, retryLimit := 2, lossLimit := 4, seekLimit := 1800
          pollInterval := 10, flywheelLimit := 5, gain := 160, lockWindow := 1, vmax := 150, unlockWindow := 3
          lockCount := 4, windThreshold := 300, seekLead := 150 }

/-- R194: what each reset leaves in the suite memory interface and in suite memory. A restart with TOPMEM not 0 writes
the start-up record at once (R193). That the line is held from RESET_LINE to its release, and not after POWER_ON, is the
model's choice (log entry 10); that POWER_ON and RESET_LINE leave suite memory alone also when an act is due is log
entry 51. While it is held a write of the register window has no effect and, TOPMEM being 0, no command changes suite
memory; that a read of CAUSE and a field advance are made all the same is the reading of log entry 9. -/
def Obligations.ResetLeavesInterfaceAndHeldLine : Prop :=
  ∀ s : State,
    (∃ t, exec .powerOn s = .next t ∧ t.mem = s.mem ∧ t.resetHeld = false ∧ t.pending = s.pending ∧
      t.iface.topmem = 0 ∧ t.iface.resetCause = .powerOn ∧ t.iface.startUpDue = true ∧ t.iface.line = false ∧
      t.iface.attention = 0 ∧ t.iface.floor = 0 ∧ t.iface.configured = false ∧ t.iface.loadInProgress = false ∧
      t.iface.device.severity = 0 ∧
      ∀ c, t.iface.pending.get c = false ∧ t.iface.levels.get c = 0) ∧
    (∃ t, exec .resetLine s = .next t ∧ t.mem = s.mem ∧ t.resetHeld = true ∧ t.pending = s.pending ∧
      t.iface.topmem = 0 ∧ t.iface.resetCause = .resetLine ∧ t.iface.startUpDue = true ∧ t.iface.line = false ∧
      t.iface.attention = 0 ∧ t.iface.floor = 0 ∧ t.iface.configured = false ∧ t.iface.loadInProgress = false ∧
      t.iface.device.severity = 0 ∧
      ∀ c, t.iface.pending.get c = false ∧ t.iface.levels.get c = 0) ∧
    (s.ready → s.memoryOk → ∃ t, exec .restart s = .next t ∧ t.resetHeld = false ∧ t.pending = s.pending ∧
      t.iface.topmem = s.iface.topmem ∧ t.iface.resetCause = .restart ∧ t.iface.line = false ∧
      t.iface.attention = 0 ∧ t.iface.floor = 0 ∧ t.iface.configured = false ∧ t.iface.loadInProgress = false ∧
      t.iface.device.severity = 0 ∧
      (∀ c, t.iface.pending.get c = false ∧ t.iface.levels.get c = 0) ∧
      (s.iface.topmem = 0 → t.mem = s.mem ∧ t.iface.startUpDue = true) ∧
      (s.iface.topmem ≠ 0 → t.iface.startUpDue = false ∧ t.mem.load 0x20 3 = [3, 1, 1] ∧
        t.mem.load 0x30 8 = [0, 0, 0, 0, 0, 0, 0, 0] ∧
        ∀ a, a < 0x20 ∨ (0x23 ≤ a ∧ a < 0x30) ∨ 0x38 ≤ a → t.mem.read a = s.mem.read a)) ∧
    exec .resetLineRelease s = .next { s with resetHeld := false } ∧
    (s.resetHeld = true →
      (∀ c ∈ [.restart, .allStop, .clearDeviceFault, .attnTake, .attnStart, .attnAbort, .attnMarkLoad, .attnConfigLoad,
        .attnLogReread, .attnProbe], exec c s = .next s) ∧
      (∀ v, exec (.floorWrite v) s = .next s) ∧ (∀ v, exec (.topmemWrite v) s = .next s) ∧
      (∀ r v, exec (.registerWriteNoEffect r v) s = .next s) ∧ (∀ n, exec (.attnScan n) s = .next s) ∧
      (s.iface.topmem = 0 → ∀ c t a, exec c s = .next t → t.mem.read a = s.mem.read a) ∧
      (s.immediateDue = false → s.timeline.lockDue = false →
        ((∀ c, ¬(s.iface.pending.get c = true ∧ s.iface.floor < s.iface.levels.get c)) →
          exec .causeRead s = .next { s with causeRead := 0xFF }) ∧
        ∃ t, exec .fieldTimerExpiry s = .next t ∧ t.timeline.F = s.timeline.F + 1 ∧ t.resetHeld = true))

/-- R185: a read of CAUSE takes the presentable cause of highest level, the lowest number among several, returns its
number and level, and clears its flag; with none presentable it returns 0xFF and clears nothing. -/
def Obligations.CauseReadTakesHighestLevel : Prop :=
  ∀ s : State, s.ready →
    ((∀ c, ¬(s.iface.pending.get c = true ∧ s.iface.floor < s.iface.levels.get c)) →
      exec .causeRead s = .next { s with causeRead := 0xFF }) ∧
    (∀ c, s.iface.pending.get c = true → s.iface.floor < s.iface.levels.get c →
      (∀ d, s.iface.pending.get d = true → s.iface.floor < s.iface.levels.get d → d ≠ c →
        s.iface.levels.get d < s.iface.levels.get c ∨
          (s.iface.levels.get d = s.iface.levels.get c ∧ c.num < d.num)) →
      exec .causeRead s = .next
        { s with
          causeRead := BitVec.ofNat 8 (c.num + 16 * (s.iface.levels.get c).toNat)
          iface := { s.iface with pending := s.iface.pending.set c false } })

/-- The interrupt line stands asserted exactly while some pending cause has a level greater than FLOOR; a FLOOR write
holds the value, above 7 as 7; a write the register window disregards changes nothing (R181, R184). -/
def Obligations.LineFloorAndDisregardedWrites : Prop :=
  (∀ i : Interface, i.line = true ↔ ∃ c, i.pending.get c = true ∧ i.floor < i.levels.get c) ∧
  (∀ (s : State) (v : Byte), s.ready →
    exec (.floorWrite v) s = .next { s with iface := { s.iface with floor := BitVec.ofNat 3 (min 7 v.toNat) } }) ∧
  (∀ (s : State) (r : Register) (v : Half), s.ready → r.disregards v = true →
    exec (.registerWriteNoEffect r v) s = .next s)

/-- A write of TOPMEM holds the value, above 256 as 256. One that makes it non-zero writes a due start-up record (reset
cause, revision, READY) and the device capture; one from 0 with no record due writes the capture alone; any other writes
nothing. Everything else stays (R187, R193). That an offset above 0xFFFF is written as 0xFFFF is log entry 52. -/
def Obligations.TopmemWriteMakesTheRecord : Prop :=
  ∀ (s : State) (v : Half), s.ready → s.memoryOk → ∃ t, exec (.topmemWrite v) s = .next t ∧
    t.iface.topmem.val = min v.toNat 256 ∧
    ((v = 0 ∨ (s.iface.startUpDue = false ∧ s.iface.topmem ≠ 0)) →
      t = { s with iface := { s.iface with topmem := t.iface.topmem } }) ∧
    (v ≠ 0 → s.iface.startUpDue = true →
      t = { s with mem := t.mem, iface := { s.iface with topmem := t.iface.topmem, startUpDue := false } } ∧
      t.mem.load 0x20 3 = [byte s.iface.resetCause.code, 1, 1] ∧
      t.mem.load 0x30 8 = s.iface.device.directory ∧
      ∀ a, a < 0x20 ∨ (0x23 ≤ a ∧ a < 0x30) ∨ 0x38 ≤ a → t.mem.read a = s.mem.read a) ∧
    (v ≠ 0 → s.iface.startUpDue = false → s.iface.topmem = 0 →
      t = { s with mem := t.mem, iface := { s.iface with topmem := t.iface.topmem } } ∧
      t.mem.load 0x30 8 = s.iface.device.directory ∧ s.sameOutside t 0x30 8)

/-- COMMAND 0x5A clears the device capture and, unless TOPMEM is 0, its copy in the directory; nothing else changes
(R186, R187). -/
def Obligations.ClearDeviceFaultClearsTheCapture : Prop :=
  ∀ s : State, s.ready → s.memoryOk → ∃ t, exec .clearDeviceFault s = .next t ∧
    t = { s with mem := t.mem, iface := { s.iface with device := ⟨0, .none, 0, 0⟩ } } ∧
    (s.iface.topmem = 0 → t.mem = s.mem) ∧
    (s.iface.topmem ≠ 0 → t.mem.load 0x30 8 = [0, 0, 0, 0, 0, 0, 0, 0] ∧ s.sameOutside t 0x30 8)

/-! ## Attention groups -/

/-- Before the first acceptance a write of a deck's group leaves its bit set and the scan deferred; after it, a scan that
finds its first slot not POSTED, or finds the queue full, clears the bit and changes nothing else (R59, R60, R183). A
POSTED record that fails its checks is refused: BAD_COMMAND, the field's offset and the low 16 bits of F in its result
fields, state FAULTED, a fault of severity 2 with the slot's offset offered to the deck's capture, DECK_FAULT raised, and
the next-slot index moved by one (R60, R61). That the refusal gives the completion field and does not write the host tag is
log entry 22. -/
def Obligations.ScanDeferredEmptyOrRefusing : Prop :=
  (∀ (s : State) (n : Deck), s.ready → s.decksAtRest →
     (s.iface.configured = false →
       exec (.attnScan n) s = .next ((s.setAttention n.num true).onList n fun l => { l with deferred := true })) ∧
     (s.iface.configured = true → s.ringSlot n (s.deck n).list.nextSlot + 1 ≤ s.iface.limit →
       (s.mem.read (s.ringSlot n (s.deck n).list.nextSlot) ≠ 1 ∨ (s.deck n).list.queue.length = 4) →
       exec (.attnScan n) s = .next (s.setAttention n.num false))) ∧
  (∀ (s : State) (n : Deck) (field : Nat), s.ready → s.decksAtRest → s.iface.configured = true →
     (s.deck n).list.queue.length < 4 →
     (∀ i, s.ringSlot n i + 16 ≤ s.iface.limit) →
     s.mem.read (s.ringSlot n (s.deck n).list.nextSlot) = 1 →
     s.mem.read (s.ringSlot n ((s.deck n).list.nextSlot + 1)) ≠ 1 →
     parseRecord s.standard n (s.mem.load (s.ringSlot n (s.deck n).list.nextSlot) 16) = .error field →
     exec (.attnScan n) s = .next
       ((((({ s with
         mem := (s.mem.store (s.ringSlot n (s.deck n).list.nextSlot + 4)
           ([0, 0, 1, byte field] ++ halfOfField s.F)).store (s.ringSlot n (s.deck n).list.nextSlot) [4]
         }).setAttention n.num false).offerDeck n 2 .badCommand (s.ringSlot n (s.deck n).list.nextSlot)).raise
           .deckFault).onList n fun l => { l with nextSlot := l.nextSlot + 1 }))

/-- A scan takes a valid POSTED record of a link command into the host queue: its state becomes TAKEN, the next-slot index
moves by one, and the record waits while the link is busy. The slot after it is not POSTED (R60, R63). -/
def Obligations.ScanTakesAValidRecord : Prop :=
  ∀ (s : State) (n : Deck) (c : LinkCommand), s.ready → s.linksBusy → s.iface.configured = true →
    (s.deck n).list.queue = [] → s.claimed n = false → (s.deck n).chase.state = .off →
    ((s.deck n).link.state = .probing ∨ (s.deck n).link.state = .up) → (∀ m, c ≠ .punchIn m) →
    (∀ i, s.ringSlot n i + 16 ≤ s.iface.limit) →
    s.mem.read (s.ringSlot n (s.deck n).list.nextSlot) = 1 →
    s.mem.read (s.ringSlot n ((s.deck n).list.nextSlot + 1)) ≠ 1 →
    parseRecord s.standard n (s.mem.load (s.ringSlot n (s.deck n).list.nextSlot) 16) = .ok (.motion c) →
    exec (.attnScan n) s = .next
      (({ s with mem := s.mem.store (s.ringSlot n (s.deck n).list.nextSlot) [2] }.setAttention n.num false).onList n
        fun l =>
          { l with
            nextSlot := l.nextSlot + 1
            queue :=
              [{ offset := s.ringSlot n l.nextSlot
                 tag := BitVec.ofNat 16 (halfAt (s.mem.load (s.ringSlot n l.nextSlot) 16) 2)
                 command := .motion c, status := .waiting }] })

/-- A write of 6 before the first acceptance is deferred; in IDLE or HELD with a slot not POSTED it leaves the engine
IDLE; while an event runs it only clears its bit (R115, R116, R183). A take of a POSTED event that fails a check writes
VALIDATION and the number of the field, the event number and FAULTED, raises EDIT_FAULT, leaves the engine HELD and moves
the next-event index by one (R118). -/
def Obligations.TakeDeferredIgnoredOrRefused : Prop :=
  (∀ s : State, s.ready → s.decksAtRest →
     (s.iface.configured = false →
       exec .attnTake s = .next ((s.setAttention 6 true).onEngine fun e => { e with deferred := true })) ∧
     (s.iface.configured = true → s.engine.takeInProgress = false → s.engine.state.atRest = true →
       s.eventSlot s.engine.nextEvent + 1 ≤ s.iface.limit → s.mem.read (s.eventSlot s.engine.nextEvent) ≠ 1 →
       exec .attnTake s = .next ((s.setAttention 6 false).onEngine fun e => { e with state := .idle })) ∧
     (s.iface.configured = true → s.engine.takeInProgress = false → s.engine.state.atRest = false →
       exec .attnTake s = .next (s.setAttention 6 false))) ∧
  (∀ (s : State) (field : Nat), s.ready → s.decksAtRest → s.iface.configured = true →
     s.engine.takeInProgress = false → s.engine.state.atRest = true →
     s.eventSlot s.engine.nextEvent + 64 ≤ s.iface.limit → s.mem.read (s.eventSlot s.engine.nextEvent) = 1 →
     s.checkEvent (s.mem.load (s.eventSlot s.engine.nextEvent) 64) = .error field →
     exec .attnTake s = .next
       (((({ s with
         mem := ((s.mem.store (s.eventSlot s.engine.nextEvent + 30)
             ([0, 0x20, byte field, 0] ++ halfOfField s.F ++ List.replicate 28 0)).store
             (s.eventSlot s.engine.nextEvent + 2)
             (half (halfAt (s.mem.load (s.eventSlot s.engine.nextEvent) 64) 2))).store
             (s.eventSlot s.engine.nextEvent) [4] }).setAttention 6 false).raise .editFault).onEngine fun e =>
           { e with state := .held, nextEvent := e.nextEvent + 1 }))

/-- A take of a POSTED event that passes every check: the slot becomes TAKEN, the engine enters CUEING with the event's
decks claimed, their chases ended, a SEEK to each deck's cue queued, the next-event index moved by one, and
start-pending set for an AUTO event (R117, R128). -/
def Obligations.TakeCuesAValidEvent : Prop :=
  ∀ (s : State) (e : Event), s.ready → s.linksBusy → s.iface.configured = true → s.engine.takeInProgress = false →
    s.engine.state.atRest = true → (∀ n, (s.deck n).list.queue = []) →
    (∀ n, (s.deck n).arbiter.engineQueue = []) → e.decks.Nodup →
    s.eventSlot s.engine.nextEvent + 64 ≤ s.iface.limit → s.memoryOk →
    s.mem.read (s.eventSlot s.engine.nextEvent) = 1 →
    s.checkEvent (s.mem.load (s.eventSlot s.engine.nextEvent) 64) = .ok e →
    ∃ t, exec .attnTake s = .next t ∧
      t.mem = s.mem.store (s.eventSlot s.engine.nextEvent) [2] ∧
      t.engine.state = .cueing ∧ t.engine.working = some e ∧ t.engine.takenSlot = some s.engine.nextEvent ∧
      t.engine.nextEvent = s.engine.nextEvent + 1 ∧ t.engine.claims = e.decks ∧
      t.engine.startPending = (e.start == .auto) ∧ t.engine.schedule = none ∧
      (∀ n ∈ e.decks, t.engine.cue.get n = some .seeking ∧ (t.deck n).chase.state = .off ∧
        (t.deck n).arbiter.engineQueue = [⟨seekTo (e.cueOf n).2 (e.cueOf n).1, true, none⟩]) ∧
      (∀ n, n ∉ e.decks → t.deck n = s.deck n) ∧ (∀ n, s.sidesKept t n) ∧ t.generator = s.generator ∧
      s.unitsKept t ∧ t.standing = s.standing

/-- A write of 7: bit 7 is cleared; in CUEING or CUED with a HOST event start-pending becomes set, else nothing more
(R132). -/
def Obligations.StartAttentionMakesStartPending : Prop :=
  ∀ s : State, s.ready →
    ((s.engine.state = .cueing ∨ s.engine.state = .cued) → (∃ ev, s.engine.working = some ev ∧ ev.start = .host) →
      exec .attnStart s = .next ((s.setAttention 7 false).onEngine fun e => { e with startPending := true })) ∧
    (((s.engine.state ≠ .cueing ∧ s.engine.state ≠ .cued) ∨
        ∀ ev, s.engine.working = some ev → ev.start ≠ .host) →
      exec .attnStart s = .next (s.setAttention 7 false))

/-- A write of 8 outside CUEING to POSTROLL only clears its bit. In them it aborts the event with HOST_ABORT: ABORTING,
every claimed deck's engine queue emptied, its HALT queued (after a PUNCH-OUT for the recorder when a PUNCH-IN has been
sent and no PUNCH-OUT begun), its chase ended, planned triggers cancelled, a CARRYING generator frozen (R143, R144).
What it writes is the results of the punches it abandons, into a slot with a result write made before; with none in its
window it writes nothing (R136). The claims are those of the running event (R127). -/
def Obligations.AbortAttentionStopsTheEvent : Prop :=
  ∀ s : State, s.ready → (∀ ev, s.engine.working = some ev → s.engine.claims = ev.decks) →
    (s.engine.state.running = false → s.decksAtRest → exec .attnAbort s = .next (s.setAttention 8 false)) ∧
    (s.engine.state.running = true → s.linksBusy → s.engine.claims.Nodup →
      ∃ t, exec .attnAbort s = .next t ∧
        t.engine.state = .aborting ∧ t.engine.abortCode = some .hostAbort ∧
        t.engine.claims = s.engine.claims ∧ t.engine.haltsAwaited = s.engine.claims ∧
        (∀ x ∈ t.engine.triggers, x.status ≠ .planned) ∧
        (s.generator.state = .carrying → t.generator.state = .frozen) ∧
        t.generator.content = s.generator.content ∧
        (∀ n ∈ s.engine.claims, (t.deck n).chase.state = .off ∧
          (t.deck n).arbiter.engineQueue =
            (if s.recorder = some n ∧ s.engine.punches.open = true then
              [⟨.punchOut 15, true, some .out⟩, ⟨.halt, true, none⟩]
             else [⟨.halt, true, none⟩])) ∧
        (∀ n, n ∉ s.engine.claims → t.deck n = s.deck n) ∧ (∀ n, s.sidesKept t n) ∧
        s.abandonsWritten t ∧ s.unitsKept t ∧ t.standing = s.standing)

/-- Before the first acceptance a write of 9 or of 12 stays set (R183). After it, a write of 9 loads the mark table,
every entry as its record validates, its result written at byte 13 and nothing else (R163, R164; what an entry loaded
disabled holds in its other fields, and one without PULSE as its line and width, is log entry 54); a write of 12
evaluates the probe record: the hit set, then the done flag written, PROBE_DONE raised, the marks untouched (R169). -/
def Obligations.MarkLoadAndProbe : Prop :=
  (∀ s : State, s.ready →
     (s.iface.configured = false → exec .attnMarkLoad s = .next (s.setAttention 9 true)) ∧
     (s.iface.configured = true → s.memoryOk → 16 * s.iface.bases.mark + 256 ≤ s.iface.limit →
       ∃ t, exec .attnMarkLoad s = .next t ∧
         t = { (s.setAttention 9 false) with mem := t.mem, marks := { s.marks with entries := t.marks.entries } } ∧
         t.marks.entries.length = 16 ∧
         (∀ i < 16, t.marks.entries[i]? =
             some (loadMark s.standard s.gpi.outputs (s.mem.load (16 * s.iface.bases.mark + 16 * i) 16)).1 ∧
           t.mem.read (16 * s.iface.bases.mark + 16 * i + 13) =
             byte (loadMark s.standard s.gpi.outputs (s.mem.load (16 * s.iface.bases.mark + 16 * i) 16)).2.code) ∧
         (∀ a, (∀ i < 16, a ≠ 16 * s.iface.bases.mark + 16 * i + 13) → t.mem.read a = s.mem.read a))) ∧
  (∀ s : State, s.ready →
     (s.iface.configured = false → exec .attnProbe s = .next (s.setAttention 12 true)) ∧
     (s.iface.configured = true → 16 * s.iface.bases.probe + 16 ≤ s.iface.limit →
       exec .attnProbe s = .next
         (({ s with
           mem := (s.mem.store (16 * s.iface.bases.probe + 10)
             (half (s.marks.hitSet s.standard (s.mem.load (16 * s.iface.bases.probe) 16)))).store
               (16 * s.iface.bases.probe + 12) [1] }.setAttention 12 false).raise .probeDone)))

/-- A load while an event runs is refused with ENGINE_ACTIVE and offset 0; one that fails a later check is refused with
that check's code and offset. The result field is written, CONFIG raised, and nothing else changes (R188, R189). -/
def Obligations.ConfigLoadRefused : Prop :=
  ∀ (s : State) (base : Nat), s.ready → s.decksAtRest → 256 ≤ s.iface.limit →
    base = 16 * halfAt (s.mem.load 0 24) 0x12 → base + 256 ≤ s.iface.limit →
    (s.engine.state.atRest = false →
      exec .attnConfigLoad s = .next
        (({ s with mem := (s.mem.store (base + 8) [0x41]).store (base + 10) [0, 0] }.setAttention 10 false).raise
          .config)) ∧
    (∀ code o, s.engine.state.atRest = true → s.engine.takeInProgress = false →
      configFailure (s.mem.load 0 24) (s.mem.load base 256) base s.iface.limit = some (code, o) →
      exec .attnConfigLoad s = .next
        (({ s with mem := (s.mem.store (base + 8) [byte code.num]).store (base + 10) (halfSat o)
            }.setAttention 10 false).raise .config))

/-- A load that passes every check is accepted: every block takes its settings from the record and the bases from the
directory, the reference state follows R17, the configured flag is set and CONFIG raised; TOPMEM, FLOOR, the reset cause
and the input levels stay (R188, R190). An output whose function changes has its pulse ended (R174); the log writer keeps
its state in an unchanged region, and starts afresh in a new one, the sequence counter kept (R179). With nothing held in a
queue and no event taken, a later acceptance writes ACCEPTED and offset 0 into the result field, the header of a new log
region, and nothing else (R179, R190), that header from byte 2 on (log entry 40); one that changes the standard returns
every tracker to its reset values, ends every chase, and disables every mark entry with the previous samples cleared (R91,
R108, R174), and one that does not leaves the mark table. -/
def Obligations.ConfigLoadAccepted : Prop :=
  ∀ (s : State) (d r : List Byte), s.ready → 256 ≤ s.iface.limit →
    d = s.mem.load 0 24 → 16 * halfAt d 0x12 + 256 ≤ s.iface.limit → r = s.mem.load (16 * halfAt d 0x12) 256 →
    s.engine.state.atRest = true → s.engine.takeInProgress = false →
    configFailure d r (16 * halfAt d 0x12) s.iface.limit = none →
    ∃ t, exec .attnConfigLoad s = .next t ∧
      t.iface.configured = true ∧ t.iface.pending.get .config = true ∧
      t.suite = ⟨halfAt r 4, halfAt r 6, if byteAt r 3 = 0 then .abort else .proceed, byteAt r 2⟩ ∧
      (∀ std mode, std = (if byteAt r 0 = 0 then Standard.s525 else .s625) →
        mode = (if byteAt r 1 = 0 then RefMode.external else .internal) →
        t.timeline =
          (if s.timeline.standard = std ∧ s.timeline.refMode = mode then s.timeline
           else if s.timeline.refMode = .internal ∧ mode = .internal then { s.timeline with standard := std }
           else
             { s.timeline with
               standard := std, refMode := mode, good := 0, prevPulse := none, miss := 0
               refState := if mode = .internal then .absent else .acquiring })) ∧
      (∀ c, t.iface.levels.get c = BitVec.ofNat 3 (byteAt r (0x2C + c.num))) ∧
      (∀ n, t.iface.bases.deck.get n = halfAt d (2 * n.num)) ∧ t.iface.bases.edit = halfAt d 0x0C ∧
      t.iface.bases.mark = halfAt d 0x0E ∧ t.iface.bases.probe = halfAt d 0x14 ∧
      (∀ n, (t.deck n).settings = readDeck r (0x60 + 24 * n.num) ∧
        (t.deck n).port = readPort r (0x10 + 4 * n.num)) ∧
      t.ep.port = { readPort r 0x28 with rxEnable := false, parityTrust := false } ∧
      (∀ l, t.gpi.outputs.get l = (OutputFunction.ofCode? (byteAt r (0x50 + l.num))).getD .off ∧
        (t.gpi.inputs.get l).edge = (if byteAt r (0x40 + 2 * l.num) = 0 then .rising
          else if byteAt r (0x40 + 2 * l.num) = 1 then .falling else .both) ∧
        (t.gpi.inputs.get l).function = (if byteAt r (0x41 + 2 * l.num) = 0 then .none
          else if byteAt r (0x41 + 2 * l.num) = 1 then .start
          else if byteAt r (0x41 + 2 * l.num) = 2 then .capture else .chord)) ∧
      t.gpi.captureDeck = Deck.ofNum? (byteAt r 0x0F) ∧ t.gpi.levels = s.gpi.levels ∧
      (∀ l, t.gpi.pulses.get l = if t.gpi.outputs.get l = s.gpi.outputs.get l then s.gpi.pulses.get l else none) ∧
      t.log =
        (if s.log.base = halfAt d 0x10 ∧ s.log.count = halfAt d 0x16 then
          { s.log with threshold := halfAt r 0x0C, logEdits := byteAt r 0x0E == 1 }
        else
          { s.log with
            base := halfAt d 0x10, count := halfAt d 0x16, threshold := halfAt r 0x0C, logEdits := byteAt r 0x0E == 1
            writeIndex := 0, consumed := 0, armed := true }) ∧
      t.iface.topmem = s.iface.topmem ∧ t.iface.floor = s.iface.floor ∧ t.iface.resetCause = s.iface.resetCause ∧
      (s.iface.configured = true → s.engine.takenSlot = none →
        (∀ n, (s.deck n).list.queue = [] ∧ (s.deck n).list.rescan = false) →
        t.mem =
          ((if (s.log.base = halfAt d 0x10 ∧ s.log.count = halfAt d 0x16) ∨ halfAt d 0x16 = 0 then s.mem
            else s.mem.store (16 * halfAt d 0x10 + 2) [0, 0, 0, 0, 0, 0, 0, 0, 0, 0, 0, 0, 0, 0]).store
              (16 * halfAt d 0x12 + 8) [0x40]).store (16 * halfAt d 0x12 + 10) [0, 0] ∧
        (t.timeline.standard = s.timeline.standard → t.marks = s.marks) ∧
        (t.timeline.standard ≠ s.timeline.standard →
          (∀ n, (t.deck n).chase.state = .off ∧
            (t.deck n).tracker =
              { quality := .none, latest := none, base := none, history := [], v := 0, candidate := none
                lastWord := none, flywheelCount := 0, kind := none, userBits := 0, colour := false
                limitDue := false }) ∧
          t.marks.entries.length = 16 ∧ (∀ m ∈ t.marks.entries, m.enabled = false ∧ m.matching = false) ∧
          ∀ n, t.marks.previous.get n = none))

/-- The first acceptance sweeps the rings and the edit list: every slot found TAKEN is given RESTARTED, its completion
field and FAULTED, every other slot stays, and DECK_FAULT and EDIT_FAULT are raised for a command and an event so ended
(R74). The scans and the take deferred until then are made: they find nothing POSTED here (R59, R115, R183). -/
def Obligations.FirstAcceptanceSweeps : Prop :=
  ∀ (s : State) (d r : List Byte), s.ready → s.memoryOk → 256 ≤ s.iface.limit →
    d = s.mem.load 0 24 → 16 * halfAt d 0x12 + 256 ≤ s.iface.limit → r = s.mem.load (16 * halfAt d 0x12) 256 →
    s.engine.state.atRest = true → s.engine.takeInProgress = false →
    configFailure d r (16 * halfAt d 0x12) s.iface.limit = none →
    s.iface.configured = false → s.engine.takenSlot = none →
    (∀ n, (s.deck n).list.queue = [] ∧ (s.deck n).list.rescan = false) →
    s.iface.attention.getLsbD 9 = false → s.iface.attention.getLsbD 12 = false →
    (∀ n, s.mem.read (16 * halfAt d (2 * n.num) + 16 * (s.deck n).list.nextSlot.val) ≠ 1) →
    s.mem.read (16 * halfAt d 0x0C + 64 * s.engine.nextEvent.val) ≠ 1 →
    ∃ t, exec .attnConfigLoad s = .next t ∧ t.iface.configured = true ∧
      t.mem.read (16 * halfAt d 0x12 + 8) = 0x40 ∧ t.mem.load (16 * halfAt d 0x12 + 10) 2 = [0, 0] ∧
      (∀ (n : Deck) (i : Fin 16) (a : Nat), a = 16 * halfAt d (2 * n.num) + 16 * i.val →
        (s.mem.read a = 2 → t.mem.read a = 4 ∧ t.mem.load (a + 4) 6 = [0, 0, 0x0A, 0] ++ halfOfField s.F ∧
          t.mem.load (a + 1) 3 = s.mem.load (a + 1) 3 ∧ t.iface.pending.get .deckFault = true) ∧
        (s.mem.read a ≠ 2 → t.mem.load a 16 = s.mem.load a 16)) ∧
      (∀ (i : Fin 64) (a : Nat), a = 16 * halfAt d 0x0C + 64 * i.val →
        (s.mem.read a = 2 → t.mem.read a = 4 ∧
          t.mem.load (a + 30) 34 = [0, 0x0A, 0, 0] ++ halfOfField s.F ++ List.replicate 28 0 ∧
          t.mem.load (a + 1) 29 = s.mem.load (a + 1) 29 ∧ t.iface.pending.get .editFault = true) ∧
        (s.mem.read a ≠ 2 → t.mem.load a 64 = s.mem.load a 64)) ∧
      (∀ n, (t.deck n).list.deferred = false ∧
        ((s.deck n).list.deferred = true → t.iface.attention.getLsbD n.num = false)) ∧
      t.engine.deferred = false ∧
      (s.engine.deferred = true → t.iface.attention.getLsbD 6 = false ∧ t.engine.state = .idle)

/-- The handling of a port at an acceptance (Table 2-8). A deck port enabled before, with a line setting changed, restarts:
every byte of both sides gone, the receiver SETTLING or DISABLED, the frame in assembly discarded (R32, R33). Else a change
of its transmit enable empties the transmitter alone, also on a port not enabled before, and a change of its receive enable
moves the receiver alone, the held byte kept (R30, R31). After a restart or a change of the transmit enable the link is
PROBING with its poll timer loaded, or, with the transmit enable clear, ABSENT: no poll, nothing in the trim slot, no
position request, LINK quality left, the head examined, and the chase ended (R31, R48, R52, R72, R86, R108). The exchange
it cuts off ends FAULTED, a host record with PORT_RESTART, which is offered with severity 3, the failure count at 0; a
pending seek ends with PORT_RESTART, its host record FAULTED with final reply TAKEN (R31, R33, R51, R103). The effects port
restarts or starts afresh with its new settings, a field frame in progress abandoned and the sequence number kept (R34,
R152). The receive shift at 0 is log entry 18; which seek is the chase's outstanding one, log entry 27. -/
def Obligations.PortRestartsAndReceiveEnable : Prop :=
  (∀ (s : State) (n : Deck) (old p : PortSettings) (start : State) (after : State → State) (restart : Prop),
    old = (s.deck n).port →
    (restart ↔ (old.txEnable = true ∨ old.rxEnable = true) ∧ (old.rate ≠ p.rate ∨ old.parity ≠ p.parity ∨
      old.twoStopBits ≠ p.twoStopBits ∨ old.parityTrust ≠ p.parityTrust)) →
    (restart → start = s.onDeck n fun d =>
      { d with
        port := p
        tx := ⟨if p.txEnable = true then .idle else .off, none, none, []⟩
        rx := ⟨if p.rxEnable = true then .settling else .disabled, none, 0⟩
        link := { d.link with assembly := [], judged := none } }) →
    (¬restart → start = s.onDeck n fun d =>
      { d with
        port := p
        tx := if old.txEnable = p.txEnable then d.tx else ⟨if p.txEnable = true then .idle else .off, none, none, []⟩
        rx := if old.rxEnable = p.rxEnable then d.rx
          else ⟨if p.rxEnable = true then .settling else .disabled, d.rx.holding, 0⟩ }) →
    (p.txEnable = true → ∀ u, after u = u.onLink n fun l =>
      { l with
        state := .probing
        pollTimer := if (s.deck n).settings.pollInterval = 0 then none else some (s.deck n).settings.pollInterval
        judged := none }) →
    (p.txEnable = false → ∀ u, after u = u.onDeck n fun d =>
      { d with
        link := { d.link with state := .absent, pollTimer := none, pollPending := false, judged := none }
        arbiter := { d.arbiter with trim := none, positionRequest := false }
        tracker := if d.tracker.quality = .link then { d.tracker with quality := .none, candidate := none } else d.tracker
        list := { d.list with examine := true } }) →
    (¬restart → old.txEnable = p.txEnable → s.configurePort n p = start) ∧
    ((restart ∨ old.txEnable ≠ p.txEnable) →
      (p.txEnable = false → ((s.configurePort n p).deck n).link.state = .absent ∧
        ((s.configurePort n p).deck n).chase.state = .off) ∧
      ((p.txEnable = true ∨ (s.deck n).chase.state = .off) →
        ((s.deck n).link.exchange = none → (s.deck n).link.seek = none → s.configurePort n p = after start) ∧
        (∀ e h, (s.deck n).link.exchange = some e → e.requester = .host → (s.deck n).list.chosen = some h →
          (s.deck n).link.seek = none →
          s.configurePort n p = after (((start.onLink n fun l =>
            { l with exchange := none, failures := 0, judged := none }).completeRecord n h
              ⟨false, 0, 0, .portRestart, 0⟩).offerDeck n 3 .portRestart 0)) ∧
        (∀ q h, (s.deck n).link.exchange = none → (s.deck n).link.seek = some q → q.requester = .host →
          (s.deck n).list.seeking = some h →
          s.configurePort n p = after ((start.onLink n fun l =>
            { l with seek := none, seekTimer := none }).completeRecord n h ⟨false, 0x40, 0, .portRestart, 0⟩)) ∧
        (∀ q, (s.deck n).link.exchange = none → (s.deck n).link.seek = some q → q.requester = .chase →
          (q.live = true → (s.deck n).chase.seek ≠ none) →
          s.configurePort n p = after ((start.onLink n fun l => { l with seek := none, seekTimer := none }).onChase n
            fun c => if q.live = true then { c with seek := none, lastSpeed := none } else c))))) ∧
  (∀ (s : State) (p : PortSettings),
    (s.ep.port = p → s.configureEffects p = s) ∧
    (s.ep.port ≠ p → s.ep.port.txEnable = true → s.configureEffects p =
      { s with
        ep := ⟨p, ⟨if p.txEnable = true then .idle else .off, none, none, []⟩⟩
        generator := { s.generator with inProgress := false } }) ∧
    (s.ep.port ≠ p → s.ep.port.txEnable = false → s.ep.port.rxEnable = false → s.configureEffects p =
      { s with ep := ⟨p, ⟨if p.txEnable = true then .idle else .off, none, none, []⟩⟩ }))

/-- A write of 11 re-reads the consumed index: a value below the count replaces the copy, a larger one does not, and a
SPENT threshold above the fill is armed again; with the log off it only clears its bit (R176, R177). -/
def Obligations.LogRereadTakesTheConsumedIndex : Prop :=
  ∀ s : State, s.ready →
    (s.log.count = 0 → exec .attnLogReread s = .next (s.setAttention 11 false)) ∧
    (s.log.count ≠ 0 → 16 * s.log.base + 2 ≤ s.iface.limit → ∃ t, exec .attnLogReread s = .next t ∧
      t = { (s.setAttention 11 false) with log := t.log } ∧
      t.log = { s.log with consumed := t.log.consumed, armed := t.log.armed } ∧
      t.log.consumed = (if halfAt (s.mem.load (16 * s.log.base) 2) 0 < s.log.count
        then halfAt (s.mem.load (16 * s.log.base) 2) 0 else s.log.consumed) ∧
      t.log.armed = (s.log.armed || decide (s.log.threshold ≠ 0 ∧
        (s.log.writeIndex + s.log.count - t.log.consumed) % s.log.count < s.log.threshold)))

/-- An all-stop is made by COMMAND, or by the input change that brings every chord member of an ARMED chord to its
active level, the chord becoming SPENT (R171, R172). It ends every chase, queues a HALT to every deck whose link is UP
or PROBING and which is not claimed, and raises ALL_STOP. In CUEING to POSTROLL it aborts the event with ALL_STOP first,
so that the claimed decks have the HALT of the abort, after a PUNCH-OUT for the recorder when one is due (R143, R144),
and the results of the punches abandoned are written, nothing else (R136). The claims are those of the running event
(R127). A change of a chord input of a SPENT chord that leaves some member at its inactive level makes it ARMED, and
does nothing else (R171). -/
def Obligations.AllStopHaltsEveryDeck : Prop :=
  (∀ (s : State) (c : Instr) (g : GpiUnit), s.ready → s.linksBusy →
    ((c = .allStop ∧ g = s.gpi) ∨
      ∃ l high, c = .gpiInputChange l high ∧ g = { s.gpi with levels := s.gpi.levels.set l high, armed := false } ∧
        s.gpi.levels.get l ≠ high ∧ s.gpi.armed = true ∧ (s.gpi.inputs.get l).function = .chord ∧
        ∀ k, (s.gpi.inputs.get k).function = .chord →
          (s.gpi.levels.set l high).get k = ((s.gpi.inputs.get k).edge != .falling)) →
    (s.engine.state.running = false → (∀ n, (s.deck n).arbiter.engineQueue.length < 4) →
      ∃ t, exec c s = .next t ∧ t.iface.pending.get .allStop = true ∧ t.engine = s.engine ∧
        (∀ n, (t.deck n).chase.state = .off ∧
          (t.deck n).arbiter.engineQueue =
            (if ((s.deck n).link.state = .up ∨ (s.deck n).link.state = .probing) ∧ s.claimed n = false then
              (s.deck n).arbiter.engineQueue ++ [⟨.halt, false, none⟩] else (s.deck n).arbiter.engineQueue)) ∧
        (∀ n, s.sidesKept t n) ∧ t.generator = s.generator ∧ t.mem = s.mem ∧ t.marks = s.marks ∧ t.log = s.log ∧
        t.gpi = g ∧ { t.standing with gpiLevels := s.gpi.levels, chordArmed := s.gpi.armed } = s.standing) ∧
    (s.engine.state.running = true → (∀ ev, s.engine.working = some ev → s.engine.claims = ev.decks) →
      s.engine.claims.Nodup → (∀ n, n ∉ s.engine.claims → (s.deck n).arbiter.engineQueue.length < 4) →
      ∃ t, exec c s = .next t ∧ t.iface.pending.get .allStop = true ∧
        t.engine.state = .aborting ∧ t.engine.abortCode = some .allStop ∧
        t.engine.claims = s.engine.claims ∧ t.engine.haltsAwaited = s.engine.claims ∧
        (∀ n, (t.deck n).chase.state = .off) ∧
        (∀ n ∈ s.engine.claims, (t.deck n).arbiter.engineQueue =
          (if s.recorder = some n ∧ s.engine.punches.open = true then
            [⟨.punchOut 15, true, some .out⟩, ⟨.halt, true, none⟩]
           else [⟨.halt, true, none⟩])) ∧
        (∀ n, n ∉ s.engine.claims → (t.deck n).arbiter.engineQueue =
          (if (s.deck n).link.state = .up ∨ (s.deck n).link.state = .probing then
            (s.deck n).arbiter.engineQueue ++ [⟨.halt, false, none⟩] else (s.deck n).arbiter.engineQueue)) ∧
        (∀ n, s.sidesKept t n) ∧ t.generator.content = s.generator.content ∧
        (s.generator.state = .carrying → t.generator.state = .frozen) ∧ s.abandonsWritten t ∧ t.marks = s.marks ∧
        t.log = s.log ∧ t.gpi = g ∧
        { t.standing with gpiLevels := s.gpi.levels, chordArmed := s.gpi.armed } = s.standing)) ∧
  (∀ (s : State) (l : Line) (high : Bool) (g : GpiUnit), s.ready → s.decksAtRest → s.gpi.levels.get l ≠ high →
    s.gpi.armed = false → (s.gpi.inputs.get l).function = .chord →
    g = { s.gpi with levels := s.gpi.levels.set l high } →
    (∃ k, (s.gpi.inputs.get k).function = .chord ∧ g.levels.get k ≠ ((s.gpi.inputs.get k).edge != .falling)) →
    exec (.gpiInputChange l high) s = .next { s with gpi := { g with armed := true } })

/-! ## The timeline -/

/-- An expiry of the field timer advances the timeline by one field of the other identity, entering HOLDOVER with one
miss from LOCKED, and counting a miss in HOLDOVER up to 16 (R11, R13, R14, R15); the timer restarts at its nominal
period, and an entry to HOLDOVER raises REFERENCE (R16). That the advance to 16 misses leaves the entry to LOST to a row
of its own is log entry 6. An advance into a first field with nothing due is a frame boundary: the mirror words are
written, and after a first acceptance the status record of each deck whose content has changed; nothing else is (R18,
R192). That the record shows the deck before its flywheel moves is log entry 30, and that the boundary notes a roll,
which the ROLL row then makes (R132), is log entry 6; the bytes of the record that the manual leaves open are log
entries 49 and 52. -/
def Obligations.FieldAdvanceAndFrameBoundary : Prop :=
  (∀ s : State, s.ready → ∃ t, exec .fieldTimerExpiry s = .next t ∧
    t.timeline =
      { s.timeline with
        F := s.timeline.F + 1
        field := s.timeline.field.other
        refState := if s.timeline.refState = .locked then .holdover else s.timeline.refState
        miss := if s.timeline.refState = .locked then 1
          else if s.timeline.refState = .holdover then min 16 (s.timeline.miss + 1) else s.timeline.miss
        timer := ⟨.nominal, s.timeline.standard⟩ } ∧
    (s.timeline.refState = .locked → t.iface.pending.get .reference = true) ∧
    { t.standing with timeline := s.timeline, ep := s.ep } = s.standing ∧ (s.memoryOk → t.memoryOk) ∧
    s.sameAbove t) ∧
  (∀ s : State, s.ready → s.linksBusy → (∀ a ∈ fieldActs, a.due s = false) → s.timeline.field = .second →
    s.iface.topmem.val ≠ 0 → (∀ n, 16 * s.iface.bases.deck.get n + 320 ≤ s.iface.limit) →
    ∃ t, exec .fieldTimerExpiry s = .next t ∧
      t.mem =
        (Deck.list.foldl (fun m n =>
          if s.iface.configured = true ∧ (s.deck n).statusWritten ≠ some ((s.deck n).status (s.claimSlot n)) then
            m.store (16 * s.iface.bases.deck.get n + 256) ((s.deck n).status (s.claimSlot n))
          else m)
          (((s.mem.store 0x29 [byte t.timeline.liveState.code]).store 0x28 [0]).store 0x24
            (wordOfField (s.timeline.F + 1)))) ∧
      (s.iface.configured = true → ∀ n,
        (t.deck n).statusWritten = some ((s.deck n).status (s.claimSlot n))) ∧
      (t.engine.rollDue = true ↔
        s.engine.rollDue = true ∨ (s.engine.state = .cued ∧ s.engine.startPending = true)))

/-- A field advance into a second field with nothing due and every link busy: each link's timers lose one field, the
content the generator carries is brought up to date, and an IDLE effects port with no frame in progress begins the field
frame of that content; memory stays (R10, R42, R150). -/
def Obligations.FieldTickTicksAndSendsTheFrame : Prop :=
  ∀ s : State, s.ready → s.linksBusy → (∀ a ∈ fieldActs, a.due s = false) → s.timeline.field = .first →
    ∃ t, exec .fieldTimerExpiry s = .next t ∧ t.mem = s.mem ∧ t.engine = s.engine ∧
      (∀ n, t.deck n =
        { s.deck n with
          link :=
            { (s.deck n).link with
              exchange := (s.deck n).link.exchange.map fun e => { e with timer := e.timer.map (· - 1) }
              seekTimer := (s.deck n).link.seekTimer.map (· - 1)
              pollTimer := (s.deck n).link.pollTimer.map (· - 1) } }) ∧
      t.generator.content =
        (match s.generator.state, s.generator.event with
          | .carrying, some e => e.content (s.timeline.F + 1)
          | _, _ => s.generator.content) ∧
      ((s.ep.tx.state = .idle ∧ s.generator.inProgress = false) → s.ep.tx.holding = none → s.ep.tx.shift = none →
        t.generator.inProgress = true ∧
        t.ep = { s.ep with tx :=
          { state := .sending, holding := none, shift := some ⟨0x9A, false⟩
            outgoing := (fieldFrame s.generator.sequence t.generator.content).tail } }) ∧
      ((s.ep.tx.state ≠ .idle ∨ s.generator.inProgress = true) →
        t.ep = s.ep ∧ t.generator.inProgress = s.generator.inProgress)

/-- What a reference pulse does in each reference state (R12, R14, R15, R16): of the other identity it advances the
timeline in LOCKED and HOLDOVER, and locks it again from HOLDOVER; of the same identity it is disregarded there. It is
counted in ACQUIRING, begins acquisition in LOST, and does nothing in ABSENT. With the good-pulse count at 8 the lock
advances the timeline with the last pulse's identity, enters LOCKED and raises REFERENCE (R14, R16). With the miss count at
16 the loss enters LOST, raises REFERENCE and offers REFERENCE_LOST to the device capture; an event ROLLING to RECORDING
is aborted (R13, R16, R143). That the eighth pulse only counts, and that the lock and the loss are rows of their own, each
doing nothing when it is not due, is the model's choice (log entry 6). -/
def Obligations.ReferencePulsesLockAndLoss : Prop :=
  (∀ (s : State) (id : FieldId), s.ready →
    (s.timeline.refState = .absent → exec (.referencePulse id) s = .next s) ∧
    ((s.timeline.refState = .locked ∨ s.timeline.refState = .holdover) → id = s.timeline.field →
      exec (.referencePulse id) s = .next s) ∧
    (s.timeline.refState = .acquiring → exec (.referencePulse id) s = .next
      { s with timeline :=
        { s.timeline with
          good := if s.timeline.prevPulse = some id then 0
            else if s.timeline.prevPulse = none then 1 else s.timeline.good + 1
          prevPulse := some id } }) ∧
    (s.timeline.refState = .lost → exec (.referencePulse id) s = .next
      { s with timeline := { s.timeline with refState := .acquiring, good := 1, prevPulse := some id, miss := 0 } }) ∧
    ((s.timeline.refState = .locked ∨ s.timeline.refState = .holdover) → id = s.timeline.field.other →
      ∃ t, exec (.referencePulse id) s = .next t ∧
        t.timeline =
          { s.timeline with
            F := s.timeline.F + 1
            field := id
            refState := .locked
            miss := if s.timeline.refState = .holdover then 0 else s.timeline.miss
            timer := ⟨.nominalAndEighth, s.timeline.standard⟩ } ∧
        (s.timeline.refState = .holdover → t.iface.pending.get .reference = true) ∧
        { t.standing with timeline := s.timeline, ep := s.ep } = s.standing)) ∧
  (∀ (s : State) (id : FieldId), s.resetHeld = false → s.immediateDue = false → s.timeline.refState = .acquiring →
    s.timeline.good = 8 → s.timeline.prevPulse = some id →
    ∃ t, exec .referenceLock s = .next t ∧
      t.timeline =
        { s.timeline with
          F := s.timeline.F + 1
          field := id
          refState := .locked
          miss := 0
          timer := ⟨.nominalAndEighth, s.timeline.standard⟩ } ∧
      t.iface.pending.get .reference = true ∧
      { t.standing with timeline := s.timeline, ep := s.ep } = s.standing) ∧
  (∀ s : State, s.timeline.refState ≠ .acquiring ∨ s.timeline.good ≠ 8 → exec .referenceLock s = .next s) ∧
  (∀ s : State, s.resetHeld = false → s.timeline.refState = .holdover → s.timeline.miss = 16 → s.decksAtRest →
    s.engine.state ≠ .rolling → s.engine.state ≠ .synced → s.engine.state ≠ .recording →
    exec .referenceLost s = .next
      (({ s with timeline := { s.timeline with refState := .lost } }.raise .reference).offerDevice 4 .referenceLost
        0)) ∧
  (∀ s : State, s.resetHeld = false → s.timeline.refState = .holdover → s.timeline.miss = 16 → s.linksBusy →
    (s.engine.state = .rolling ∨ s.engine.state = .synced ∨ s.engine.state = .recording) →
    ∃ t, exec .referenceLost s = .next t ∧ t.timeline = { s.timeline with refState := .lost } ∧
      t.iface.pending.get .reference = true ∧ t.engine.state = .aborting ∧
      t.engine.abortCode = some .referenceLost ∧ (∀ n, s.sidesKept t n) ∧ s.unitsKept t) ∧
  (∀ s : State, s.timeline.refState ≠ .holdover ∨ s.timeline.miss ≠ 16 → exec .referenceLost s = .next s)

/-! ## Ports and the assembler -/

/-- The character on a port's line: a start bit at space, the eight data bits of the shift byte with the least
significant first, the parity bit that makes the count of ones odd or even or is 0, none with parity NONE, and one or
two stop bits at mark; with the shift empty the line rests (R20, R21). A port takes the next byte of its owner's frame
unless it is OFF, its holding byte is present or nothing is left: the byte moves into an empty shift at once, else it
is held; the frame's last byte carries the final mark (R23). That the frame's bytes still to be placed stand in the
transmitter, and that the row does nothing when none is left, is log entry 19. The receiver: SETTLING becomes READY
after a rest at mark, a fall to space in READY begins a character, a start bit sampled at mark returns RECEIVING to
READY (R26, R27). In RECEIVING the eight samples after the start bit enter the receive shift, the first lowest; the
next is the parity bit when parity is not NONE, and the one after is the stop bit (R27). The byte is held with its
parity and framing marks, or, with a byte held already, is discarded and marks that byte overrun; the receiver goes to
READY after a stop bit at mark, else to SETTLING (R28, R29). That a row does nothing in the states it is not about is
log entry 6, and that no character completes outside RECEIVING, with the form of the samples, log entry 18. -/
def Obligations.PortsMoveBytesAndCharacters : Prop :=
  (∀ (p : PortSettings) (t : Transmitter), (t.shift = none → p.line t = []) ∧
    ∀ b : TxByte, t.shift = some b → p.line t =
      [false, b.data[0], b.data[1], b.data[2], b.data[3], b.data[4], b.data[5], b.data[6], b.data[7]] ++
      (match p.parity, b.data[0] ^^ b.data[1] ^^ b.data[2] ^^ b.data[3] ^^ b.data[4] ^^ b.data[5] ^^ b.data[6] ^^
          b.data[7] with
        | .none, _ => []
        | .odd, x => [!x]
        | .even, x => [x]
        | .zero, _ => [false]) ++
      (if p.twoStopBits = true then [true, true] else [true])) ∧
  (∀ (s : State) (n : Deck), s.ready →
    (((s.deck n).tx.state = .off ∨ (s.deck n).tx.holding ≠ none ∨ (s.deck n).tx.outgoing = []) →
      exec (.txBytePlace (.deck n)) s = .next s) ∧
    (∀ b rest, (s.deck n).tx.state ≠ .off → (s.deck n).tx.holding = none → (s.deck n).tx.outgoing = b :: rest →
      exec (.txBytePlace (.deck n)) s = .next (s.onTx n fun t =>
        if t.shift = none then { t with outgoing := rest, shift := some ⟨b, rest.isEmpty⟩, state := .sending }
        else { t with outgoing := rest, holding := some ⟨b, rest.isEmpty⟩ }))) ∧
  (∀ s : State, s.ready →
    ((s.ep.tx.state = .off ∨ s.ep.tx.holding ≠ none ∨ s.ep.tx.outgoing = []) →
      exec (.txBytePlace .ep) s = .next s) ∧
    (∀ b rest, s.ep.tx.state ≠ .off → s.ep.tx.holding = none → s.ep.tx.outgoing = b :: rest →
      exec (.txBytePlace .ep) s = .next { s with ep := { s.ep with tx :=
        if s.ep.tx.shift = none then
          { s.ep.tx with outgoing := rest, shift := some ⟨b, rest.isEmpty⟩, state := .sending }
        else { s.ep.tx with outgoing := rest, holding := some ⟨b, rest.isEmpty⟩ } } })) ∧
  (∀ (s : State) (n : Deck), s.ready →
     exec (.receiverSettled n) s = .next
       (s.onRx n fun r => { r with state := if r.state = .settling then .ready else r.state }) ∧
     exec (.lineFallToSpace n) s = .next
       (s.onRx n fun r => { r with state := if r.state = .ready then .receiving else r.state }) ∧
     exec (.falseStart n) s = .next
       (s.onRx n fun r => { r with state := if r.state = .receiving then .ready else r.state })) ∧
  (∀ (s : State) (n : Deck) (data : Byte) (p stop : Bool), s.ready →
     ((s.deck n).rx.state ≠ .receiving → exec (.byteArrival n data p stop) s = .next s) ∧
     ((s.deck n).rx.state = .receiving →
       ((s.deck n).rx.holding = none → exec (.byteArrival n data p stop) s = .next
         (s.onRx n fun _ =>
           { state := if stop = true then .ready else .settling
             holding := some
               { data := data
                 parity := decide (((s.deck n).port.parity = .odd ∧ onesCount data p % 2 = 0) ∨
                   ((s.deck n).port.parity = .even ∧ onesCount data p % 2 = 1))
                 framing := !stop
                 overrun := false }
             shift := data })) ∧
       (∀ b, (s.deck n).rx.holding = some b → exec (.byteArrival n data p stop) s = .next
         (s.onRx n fun _ =>
           { state := if stop = true then .ready else .settling
             holding := some { b with overrun := true }, shift := data }))))

/-- The end of a character moves a held byte into shift, else leaves the port IDLE (R24). After the final byte the frame
is sent: an exchange awaits its reply with the reply timer loaded; on EP the sequence number rises and the frame is no
longer in progress (R25, R42, R151). -/
def Obligations.CharacterEndMovesTheTransmitter : Prop :=
  (∀ (s : State) (n : Deck) (b : TxByte), s.ready → (s.deck n).tx.shift = some b →
    (∀ h, (s.deck n).tx.holding = some h → exec (.characterEnd (.deck n)) s = .next
      (s.onTx n fun t => { t with shift := some h, holding := none })) ∧
    ((s.deck n).tx.holding = none → b.final = false → exec (.characterEnd (.deck n)) s = .next
      (s.onTx n fun t => { t with shift := none, state := .idle })) ∧
    (∀ e, (s.deck n).tx.holding = none → b.final = true → s.linksBusy → (s.deck n).link.exchange = some e →
      (s.deck n).link.seek = none → exec (.characterEnd (.deck n)) s = .next
        (s.onDeck n fun d =>
          { d with
            tx := { d.tx with shift := none, state := .idle }
            link := { d.link with
              exchange := some { e with phase := .awaiting, timer := some d.settings.replyTimeout } } }))) ∧
  (∀ (s : State) (b : TxByte), s.ready → s.ep.tx.shift = some b →
    (∀ h, s.ep.tx.holding = some h → exec (.characterEnd .ep) s = .next
      { s with ep := { s.ep with tx := { s.ep.tx with shift := some h, holding := none } } }) ∧
    (s.ep.tx.holding = none → exec (.characterEnd .ep) s = .next
      { s with
        ep := { s.ep with tx := { s.ep.tx with shift := none, state := .idle } }
        generator := if b.final = true
          then { s.generator with sequence := s.generator.sequence + 1, inProgress := false } else s.generator }))

/-- The assembler takes the held byte: a disqualified one ends the frame in assembly; hunting, only START begins a
frame; a further byte joins it until CHECK, when the frame is judged, or until a LEN above 10, which garbles it. A parity
mark on a port that does not trust parity offers LINK_PARITY for a byte that enters a frame, and nothing while hunting
(R29, R37, R38). That a judged frame is held in the link while the exchange it concerns is outstanding (R43), and
discarded else, until its row acts on it, is log entry 11. -/
def Obligations.ByteTakeAssemblesFrames : Prop :=
  ∀ (s : State) (n : Deck) (a : List Byte), s.ready → (s.deck n).link.judged = none → (s.deck n).link.assembly = a →
    ((s.deck n).rx.holding = none → exec (.byteTake n) s = .next s) ∧
    (∀ b, (s.deck n).rx.holding = some b →
      ((b.framing = true ∨ b.overrun = true ∨ (b.parity = true ∧ (s.deck n).port.parityTrust = true)) →
        exec (.byteTake n) s = .next
          ((s.onRx n fun r => { r with holding := none }).onLink n fun l => { l with assembly := [] })) ∧
      (b.framing = false → b.overrun = false → (b.parity = false ∨ (s.deck n).port.parityTrust = false) →
        a = [] → b.data ≠ 0xC9 →
          exec (.byteTake n) s = .next (s.onRx n fun r => { r with holding := none })) ∧
      (b.framing = false → b.overrun = false → (b.parity = false ∨ (s.deck n).port.parityTrust = false) →
        (a ≠ [] ∨ b.data = 0xC9) →
        ∀ u, u = (if b.parity = true then (s.onRx n fun r => { r with holding := none }).offerDeck n 1 .linkParity 0
          else s.onRx n fun r => { r with holding := none }) →
          (lenTooLong (a ++ [b.data]) = false → frameComplete (a ++ [b.data]) = false →
            exec (.byteTake n) s = .next (u.onLink n fun l => { l with assembly := a ++ [b.data] })) ∧
          (lenTooLong (a ++ [b.data]) = true → exec (.byteTake n) s = .next (u.onLink n fun l => l.hand .garbled s.F)) ∧
          (lenTooLong (a ++ [b.data]) = false → frameComplete (a ++ [b.data]) = true →
            exec (.byteTake n) s = .next
              (u.onLink n fun l => l.hand (judgeFrame s.standard (a ++ [b.data])) s.F))))

/-- A completed frame with a wrong CHECK or a TAG above 127 is garbled; so is one with a right CHECK whose CODE Table 3-3
does not give, whose LEN is not that of its CODE, or whose reason, mode or address is none (R5, R36, R38, R40). TAKEN,
REFUSED and HOLD-ON are read with their tag; STATE gives its mode and five flags; POSITION, its valid flag set, gives the
frame number of its address in the kind its DF flag names under 525, a dropped address moved to frame 2, and its field. -/
def Obligations.FramesAreJudgedByTheirFields : Prop :=
  ∀ (std : Standard) (tag : BitVec 7) (body : List Byte) (x : Byte),
    (x ≠ checkByte body → judgeFrame std (linkStart :: (body ++ [x])) = .garbled) ∧
    (128 ≤ byteAt body 0 → judgeFrame std (linkStart :: (body ++ [x])) = .garbled) ∧
    ∀ (frame : Byte → List Byte → List Byte),
      (∀ code data, frame code data = linkStart :: (([tag.zeroExtend 8, code, byte data.length] ++ data) ++
        [checkByte ([tag.zeroExtend 8, code, byte data.length] ++ data)])) →
      (∀ code data, ¬(code = 0x40 ∧ data.length = 0) → ¬(code = 0x41 ∧ data.length = 1) →
        ¬(code = 0x42 ∧ data.length = 0) → ¬(code = 0x50 ∧ data.length = 2) → ¬(code = 0x51 ∧ data.length = 5) →
        judgeFrame std (frame code data) = .garbled) ∧
      judgeFrame std (frame 0x40 []) = .valid tag .taken ∧
      judgeFrame std (frame 0x42 []) = .valid tag .holdOn ∧
      (∀ r : RefusalReason, judgeFrame std (frame 0x41 [byte r.code]) = .valid tag (.refused r)) ∧
      (∀ y : Byte, (y = 0 ∨ 5 < y) → judgeFrame std (frame 0x41 [y]) = .garbled) ∧
      (∀ (m : TransportMode) (f : Byte), judgeFrame std (frame 0x50 [byte m.code, f]) =
        .valid tag (.state ⟨m, f[0], f[1], f[2], f[3], f[4]⟩)) ∧
      (∀ y f : Byte, 6 < y → judgeFrame std (frame 0x50 [y, f]) = .garbled) ∧
      (∀ h m s f flags : Byte,
        (flags[2] = false → judgeFrame std (frame 0x51 [h, m, s, f, flags]) = .valid tag (.position none)) ∧
        (flags[2] = true → ∀ k : Kind,
          k = (if std = .s625 then .k625 else if flags[0] = true then .df525 else .nd525) →
          ((24 ≤ h.toNat ∨ 60 ≤ m.toNat ∨ 60 ≤ s.toNat ∨ k.rate ≤ f.toNat) →
            judgeFrame std (frame 0x51 [h, m, s, f, flags]) = .garbled) ∧
          (h.toNat < 24 → m.toNat < 60 → s.toNat < 60 → f.toNat < k.rate →
            judgeFrame std (frame 0x51 [h, m, s, f, flags]) =
              .valid tag (.position (some
                ⟨frameOf k ⟨h.toNat, m.toNat, s.toNat,
                    if k = .df525 ∧ s = 0 ∧ f.toNat < 2 ∧ m.toNat % 10 ≠ 0 then 2 else f.toNat⟩,
                  k, if flags[1] = true then .second else .first⟩)))))

/-! ## Heads, arbiters and exchanges -/

/-- The examination of a head (Table 4-4, R63), on a deck whose link is busy and whose next slot is not POSTED: a motion
command on an unclaimed deck whose link is PROBING or UP waits for the arbiter and ends the deck's chase (R67, R107);
with the link ABSENT or DOWN it is refused with LINK_DOWN (R48); a PUNCH-IN for a deck that is no recorder is refused
with BAD_COMMAND at the kind's field; CHASE and UNCHASE act on the chase controller and are DONE at once, as is
CLEAR-FAULT, also on a claimed deck (R64, R95, R96). On a claimed deck any other command than HALT is refused with
DECK_CLAIMED (R65); a HALT takes status ENGINE and aborts the event with HOST_HALT, which writes the results of the
punches it abandons and nothing else (R136), or completes from the engine's HALT already ended (R66). Each completion
frees a place, so that the ring is scanned and the attention bit cleared (R59, R68). The offer before the completion's
writes is log entry 45. -/
def Obligations.HeadsAreExaminedByTheTable : Prop :=
  ∀ (s : State) (n : Deck) (d : DeckUnit) (h : HeldRecord) (ended : State → HostResult → State),
    (∀ m, (s.deck m).free = false) →
    (∀ m, m ≠ n → (s.deck m).list.rescan = false ∧ (s.deck m).list.examine = false) →
    d = s.deck n → d.list.queue = [h] → h.status = .waiting → d.list.rescan = false → d.list.examine = true →
    d.link.downDue = false → s.iface.configured = true →
    s.ringSlot n d.list.nextSlot + 16 ≤ s.iface.limit → h.offset + 16 ≤ s.iface.limit → s.memoryOk →
    (h.offset + 16 ≤ s.ringSlot n d.list.nextSlot ∨ s.ringSlot n d.list.nextSlot + 16 ≤ h.offset) →
    s.mem.read (s.ringSlot n d.list.nextSlot) ≠ 1 →
    (∀ u r, ended u r = ((u.completeRecord n h r).setAttention n.num false).onList n fun l =>
      { l with rescan := false, examine := false }) →
    (∀ c, s.claimed n = false → h.command = .motion c →
      ((∃ m, c = .punchIn m) → d.settings.role ≠ .recorder →
        s.settleDecks = ended (s.offerDeck n 2 .badCommand h.offset) ⟨false, 0, 0, .badCommand, 1⟩) ∧
      (((∀ m, c ≠ .punchIn m) ∨ d.settings.role = .recorder) →
        ((d.link.state = .absent ∨ d.link.state = .down) →
          s.settleDecks = ended (s.offerDeck n 3 .linkDown h.offset) ⟨false, 0, 0, .linkDown, 0⟩) ∧
        ((d.link.state = .probing ∨ d.link.state = .up) →
          (d.chase.state = .off → s.settleDecks = s.onList n fun l => { l with examine := false }) ∧
          (d.chase.state ≠ .off → d.chase.state ≠ .locked → s.settleDecks = s.onDeck n fun x =>
            { x with
              list := { x.list with examine := false }
              chase := { x.chase with
                state := .off, seek := none, lastSpeed := none, lockCount := 0, unlockRun := 0, lockDue := false }
              link := x.link.dropChase
              arbiter := { x.arbiter with trim := none } })))) ∧
    (∀ master offset origin, s.claimed n = false → h.command = .chase master offset origin → d.chase.state ≠ .locked →
      s.settleDecks = ended
        (s.onDeck n fun x =>
          { x with
            chase :=
              { state := .seeking, starter := some .host, master := some master, offset := some offset, origin := origin
                startField := if master = .timeline then some s.timeline.F else none
                lastSpeed := none, seek := none, lockCount := 0, lastCounted := none, unlockRun := 0, lastError := none
                lockDue := false }
            link := x.link.dropChase
            arbiter := { x.arbiter with trim := none } }) ⟨true, 0, 0, .none, 0⟩) ∧
    (s.claimed n = false → h.command = .unchase →
      (d.chase.state = .off → s.settleDecks =
        ended (s.onArbiter n fun a => { a with trim := none }) ⟨true, 0, 0, .none, 0⟩) ∧
      (d.chase.state ≠ .off → d.chase.state ≠ .locked → s.settleDecks = ended
        (s.onDeck n fun x =>
          { x with
            chase := { x.chase with
              state := .off, seek := none, lastSpeed := none, lockCount := 0, unlockRun := 0, lockDue := false }
            link := x.link.dropChase
            arbiter := { x.arbiter with trim := none } }) ⟨true, 0, 0, .none, 0⟩)) ∧
    (h.command = .clearFault → s.settleDecks =
      ended (s.onDeck n fun x => { x with capture := ⟨0, .none, 0, 0⟩ }) ⟨true, 0, 0, .none, 0⟩) ∧
    (s.claimed n = true → h.command ≠ .motion .halt → h.command ≠ .clearFault → s.settleDecks =
      ended (s.offerDeck n 2 .deckClaimed h.offset) ⟨false, 0, 0, .deckClaimed, 0⟩) ∧
    (s.claimed n = true → h.command = .motion .halt → s.engine.state.running = true →
      s.engine.haltOutcome.get n = none →
      s.settleDecks.engine.state = .aborting ∧ s.settleDecks.engine.abortCode = some .hostHalt ∧
        (s.settleDecks.deck n).list = { d.list with queue := [{ h with status := .engine }], examine := false } ∧
        s.abandonsWritten s.settleDecks) ∧
    (s.claimed n = true → h.command = .motion .halt → s.engine.state.running = false →
      ∀ u : State, u = (s.onList n fun l => { l with queue := [{ h with status := .engine }], examine := false }) →
      (s.engine.haltOutcome.get n = none → s.settleDecks = u) ∧
      (∀ o r, s.engine.haltOutcome.get n = some o →
        ((o = .taken ∧ r = (⟨true, 0x40, 0, .none, 0⟩ : HostResult)) ∨ ∃ c, o = .faulted c ∧ r = ⟨false, 0, 0, c, 0⟩) →
        s.settleDecks = ((u.completeRecord n { h with status := .engine } r).setAttention n.num false).onList n fun l =>
          { l with rescan := false, examine := false }))

/-- With nothing to scan or examine, and deck n's link alone free, its arbiter begins an exchange for the first source that
holds a request: the engine queue, the trim slot, the host's head, the position request, the poll; the second, fourth and
fifth are passed over in an open punch window, the third on a claimed deck (R69, R70, R71, R72, R73). The exchange takes the
next tag, its requester's retries, and its frame begins with START (R36, R41, R42). A trim tells the chase its last speed
(R102), a poll loads its timer (R52), a PUNCH-IN takes its actual field (R136). With no source nothing is begun. That a
PUNCH-IN out of its states, or three fields late, waits at the head of its queue is log entry 42, that a poll timer already
expired is loaded all the same, log entry 43. -/
def Obligations.ArbiterBeginsTheFirstSource : Prop :=
  ∀ (s : State) (n : Deck) (d : DeckUnit)
    (begun : State → Requester → LinkCommand → Nat → Bool → Option PunchId → State),
    (∀ m, (s.deck m).list.rescan = false ∧ (s.deck m).list.examine = false) → (∀ m, m ≠ n → (s.deck m).free = false) →
    d = s.deck n → d.free = true → d.tx.holding = none → d.tx.shift = none →
    (∀ u q c retries live punch, begun u q c retries live punch = u.onDeck n fun x =>
      { x with
        link := { x.link with
          exchange := some ⟨q, c, d.link.nextTag, .sending, none, retries, none, live, punch, false⟩
          nextTag := d.link.nextTag + 1
          judged := none }
        tx := ⟨.sending, none, some ⟨0xC9, false⟩, (commandFrame d.link.nextTag c).tail⟩ }) →
    (∀ r rest, d.arbiter.engineQueue = r :: rest →
      (r.punch = none → s.settleDecks =
        begun (s.onArbiter n fun a => { a with engineQueue := rest }) .engine r.command d.settings.retryLimit r.live
          none) ∧
      (∀ i m x, r.punch = some i → r.live = true → r.command = .punchIn m → s.engine.punches.get i = some x →
        (((s.engine.state = .synced ∨ s.engine.state = .recording) ∧ fieldDiff s.timeline.F x.planned < 3 →
          x.status = .queued → s.settleDecks =
            (begun (s.onArbiter n fun a => { a with engineQueue := rest }) .engine r.command d.settings.retryLimit true
              (some i)).onEngine fun g =>
                { g with punches := g.punches.set i (some { x with
                    status := .begun, actual := some s.timeline.F }) }) ∧
        (((s.engine.state ≠ .synced ∧ s.engine.state ≠ .recording) ∨ 3 ≤ fieldDiff s.timeline.F x.planned) →
          s.settleDecks = s)))) ∧
    (d.arbiter.engineQueue = [] →
      (∀ c, d.arbiter.trim = some c → s.punchWindow n = false →
        s.settleDecks = (begun (s.onArbiter n fun a => { a with trim := none }) .chase c 0 true none).onChase n fun k =>
          { k with lastSpeed :=
            match c with
            | .runVar v => some v
            | .wind v => some v
            | .run => some 1000
            | .halt => some 0
            | .seek _ _ => none
            | _ => k.lastSpeed }) ∧
      ((d.arbiter.trim = none ∨ s.punchWindow n = true) →
        (∀ h c rest, s.claimed n = false → d.list.queue = h :: rest → h.command = .motion c → h.status = .waiting →
          (∀ k ∈ rest, k.status ≠ .chosen ∧ k.status ≠ .engine) → d.link.state ≠ .down →
          s.settleDecks = begun (s.onList n fun l => { l with queue := { h with status := .chosen } :: rest }) .host c
            d.settings.retryLimit true none) ∧
        ((s.claimed n = true ∨ d.list.queue = []) →
          (s.punchWindow n = true → s.settleDecks = s) ∧
          (s.punchWindow n = false → d.arbiter.positionRequest = true →
            s.settleDecks = begun (s.onArbiter n fun a => { a with positionRequest := false }) .tracker .readPosition 0
              true none) ∧
          (s.punchWindow n = false → d.arbiter.positionRequest = false → d.link.pollPending = true →
            s.settleDecks = (begun s .poll .report 0 true none).onLink n fun l =>
              { l with
                pollPending := false
                pollTimer := if d.settings.pollInterval = 0 then none else some d.settings.pollInterval }) ∧
          (d.arbiter.positionRequest = false → d.link.pollPending = false → s.settleDecks = s))))

/-- TAKEN ends an exchange: the record of a host command completes DONE, but a SEEK's waits on the pending seek it makes,
its timer loaded; REFUSED completes the record FAULTED with the reason and offers DECK_REFUSED (R43, R45, R46, R49, R68).
The failure count is cleared and a PROBING or DOWN link becomes UP. -/
def Obligations.FinalReplyEndsAHostExchange : Prop :=
  ∀ (s : State) (n : Deck) (e : Exchange) (f : FieldCount) (h : HeldRecord), s.ready →
    (s.deck n).link.exchange = some e → e.requester = .host → e.phase ≠ .sending →
    (s.deck n).list.chosen = some h →
    ((s.deck n).link.judged = some (.valid e.tag .taken, f) → e.command.isMotion = true →
      (e.command.isSeek = false → exec (.replyTaken n) s = .next
        ((s.onLink n fun l =>
          { l with judged := none, exchange := none, failures := 0, state := l.state.heard }).completeRecord n h
            ⟨true, 0x40, 0, .none, 0⟩).settleDecks) ∧
      (∀ a df, e.command = .seek a df → exec (.replyTaken n) s = .next
        (s.onDeck n fun d =>
          { d with
            link :=
              { d.link with
                judged := none, exchange := none, failures := 0, state := d.link.state.heard
                seek := some ⟨.host, a, df, e.live⟩
                seekTimer := if d.settings.seekLimit = 0 then none else some d.settings.seekLimit }
            list := { d.list with queue := markSeeking d.list.queue, examine := true } }).settleDecks)) ∧
    (∀ r, (s.deck n).link.judged = some (.valid e.tag (.refused r), f) → exec (.replyRefused n) s = .next
      (((s.onLink n fun l =>
        { l with judged := none, exchange := none, failures := 0, state := l.state.heard }).offerDeck n 2 .deckRefused
          h.offset).completeRecord n h ⟨false, 0x41, r.code, .deckRefused, 0⟩).settleDecks)

/-- The frame-sent of a motion command on a deck with a pending seek ends that seek SUPERSEDED, offered with severity 2,
while its own exchange awaits its reply (R25, R42, R51): the host's SEEK record completes FAULTED with SUPERSEDED and
final reply TAKEN (R68), an engine's cue aborts the event with DECK_FAILED (R129), which writes the results of the
punches it abandons and nothing else (R136), and a chase's outstanding seek becomes none with the last speed kept
(R103). Which pending seek is the chase's outstanding one is log entry 27. -/
def Obligations.MotionCommandsSupersedeSeeks : Prop :=
  ∀ (s u : State) (n : Deck) (b : TxByte) (e : Exchange) (p : PendingSeek), s.ready → (s.deck n).tx.shift = some b →
    (s.deck n).tx.holding = none → b.final = true → (s.deck n).link.exchange = some e → e.command.isMotion = true →
    (s.deck n).link.seek = some p →
    u = ((s.onDeck n fun d =>
      { d with
        tx := { d.tx with shift := none, state := .idle }
        link := { d.link with
          exchange := some { e with phase := .awaiting, timer := some d.settings.replyTimeout }
          seek := none
          seekTimer := none } }).offerDeck n 2 .superseded 0) →
    (∀ h, p.requester = .host → (s.deck n).list.seeking = some h →
      exec (.characterEnd (.deck n)) s = .next (u.completeRecord n h ⟨false, 0x40, 0, .superseded, 0⟩).settleDecks) ∧
    (p.requester = .chase → (p.live = true → (s.deck n).chase.seek ≠ none) →
      exec (.characterEnd (.deck n)) s = .next
        (u.onChase n fun c => if p.live = true then { c with seek := none } else c).settleDecks) ∧
    (p.requester = .engine → (p.live = false ∨ s.engine.state ≠ .cueing) →
      exec (.characterEnd (.deck n)) s = .next u.settleDecks) ∧
    (p.requester = .engine → p.live = true → s.engine.state = .cueing →
      ∃ v : State, exec (.characterEnd (.deck n)) s = .next v.settleDecks ∧ (v.deck n).link.seek = none ∧
        v.engine.state = .aborting ∧ v.engine.abortCode = some .deckFailed ∧ s.abandonsWritten v)

/-- The completion of a held record writes its result fields, its host tag, then its state, DONE or FAULTED, raises
DECK_DONE or DECK_FAULT, and frees its place in the queue; below the limit it changes nothing else (R68). -/
def Obligations.CompletionWritesTheRecord : Prop :=
  ∀ (s : State) (n : Deck) (h : HeldRecord) (r : HostResult), h.offset + 16 ≤ s.iface.limit →
    s.completeRecord n h r =
      (({ s with
        mem := ((s.mem.store (h.offset + 4)
            ([byte r.reply, byte r.reason, byte r.fault.num, byte r.field] ++ halfOfField s.F)).store
            (h.offset + 2) (half h.tag.toNat)).store h.offset [if r.done = true then 3 else 4] }.raise
        (if r.done = true then .deckDone else .deckFault)).onList n fun l =>
          { l with
            queue := l.queue.erase h
            rescan := true
            examine := l.examine || h.status.blocks || decide (l.head = some h) })

/-- HOLD-ON keeps the exchange, HOLDING with its timer loaded, and makes a PROBING link UP (R43, R46). -/
def Obligations.HoldOnKeepsTheExchange : Prop :=
  ∀ (s : State) (n : Deck) (e : Exchange) (f : FieldCount), s.ready → s.decksAtRest →
    (s.deck n).link.exchange = some e → e.phase ≠ .sending → (s.deck n).link.judged = some (.valid e.tag .holdOn, f) →
    exec (.replyHoldOn n) s = .next
      (s.onDeck n fun d =>
        { d with link := { d.link with
          judged := none
          exchange := some { e with
            phase := .holding
            timer := if d.settings.holdTimeout = 0 then none else some d.settings.holdTimeout }
          state := if d.link.state = .probing then .up else d.link.state } })

/-- A STATE ends the REPORT that asked for it and is kept; the tracker examines it: no tape leaves it without position and
speed, a standing mode with speed 0 (R45, R46, R87); without tape on a claimed deck it aborts the event with DECK_FAILED
(R131). With AT_TARGET it ends the pending seek (R50): the host's SEEK record completes (R68); the engine's deck is
ARRIVED, the last arrival entering CUED with the first result write made whole (R128, R195); a chase's PARK enters PARKED,
its RUN-ON offers RUN and enters CLOSING (R103). The pending seek of a chase is its outstanding one while its mark says so
(log entry 27). -/
def Obligations.StateReplyIsKeptAndExamined : Prop :=
  (∀ (s : State) (n : Deck) (e : Exchange) (d : DeckState) (f : FieldCount), s.ready → s.claimed n = false →
     (s.deck n).link.exchange = some e → e.phase ≠ .sending → e.command = .report →
     (s.deck n).link.judged = some (.valid e.tag (.state d), f) → (d.atTarget = false ∨ (s.deck n).link.seek = none) →
     ∃ t, exec (.replyState n) s = .next t ∧ (t.deck n).link.lastState = some d ∧
       (t.deck n).link.failures = 0 ∧ (t.deck n).link.state = (s.deck n).link.state.heard ∧
       (t.deck n).link.seek.map PendingSeek.target = (s.deck n).link.seek.map PendingSeek.target ∧
       (t.deck n).tracker =
         (if d.tapeIn = false then
           { (s.deck n).tracker with
             quality := .none, base := none, history := [], candidate := none, v := 0, limitDue := false }
         else if d.mode = .stopped ∨ d.mode = .still ∨ d.mode = .standbyOff then
           { (s.deck n).tracker with
             v := 0, history := (s.deck n).tracker.history.take 1, candidate := none, limitDue := false
             quality := if (s.deck n).tracker.quality = .none then .none else .link }
         else (s.deck n).tracker) ∧
       t.standing = s.standing) ∧
  (∀ (s : State) (n : Deck) (e : Exchange) (d : DeckState) (f : FieldCount) (p : PendingSeek) (h : HeldRecord),
     s.ready → s.claimed n = false → (s.deck n).link.exchange = some e → e.phase ≠ .sending → e.command = .report →
     (s.deck n).link.judged = some (.valid e.tag (.state d), f) → d.atTarget = true →
     (s.deck n).link.seek = some p → p.requester = .host → (s.deck n).list.seeking = some h →
     exec (.replyState n) s = .next
       (((s.onLink n fun l =>
         { l with
           judged := none, exchange := none, failures := 0, state := l.state.heard, lastState := some d
           seek := none, seekTimer := none }).completeRecord n h ⟨true, 0x40, 0, .none, 0⟩).onTracker n fun t =>
             t.takeState d).settleDecks) ∧
  (∀ (s : State) (n : Deck) (e : Exchange) (d : DeckState) (f : FieldCount), s.ready →
     (s.deck n).link.exchange = some e → e.phase ≠ .sending → e.command = .report →
     (s.deck n).link.judged = some (.valid e.tag (.state d), f) →
     (∀ (p : PendingSeek) (slot : Fin 64), d.atTarget = true → d.tapeIn = true → (s.deck n).link.seek = some p →
       p.requester = .engine → p.live = true → s.engine.state = .cueing → s.claimed n = true → s.slotHeld slot →
       s.memoryOk → s.engine.results.reached = none →
       ∃ u : State, exec (.replyState n) s = .next u.settleDecks ∧ (u.deck n).link.seek = none ∧
         u.engine.cue = s.engine.cue.set n (some .arrived) ∧
         ((∃ m ∈ s.engine.claims, m ≠ n ∧ s.engine.cue.get m ≠ some .arrived) →
           u.engine.state = .cueing ∧ u.mem = s.mem) ∧
         ((∀ m ∈ s.engine.claims, m ≠ n → s.engine.cue.get m = some .arrived) →
           u.engine.state = .cued ∧ u.engine.results.reached = some .cued ∧ u.mem.read (s.eventSlot slot + 30) = 3 ∧
           u.mem.load (s.eventSlot slot + 31) 2 = [0, 0] ∧ s.sameOutside u (s.eventSlot slot + 30) 34)) ∧
     (∀ (p : PendingSeek) (k : ChaseSeek), d.atTarget = true → s.claimed n = false → (s.deck n).link.seek = some p →
       p.requester = .chase → p.live = true → (s.deck n).chase.seek = some k → (s.deck n).chase.state ≠ .locked →
       ∃ u : State, exec (.replyState n) s = .next u.settleDecks ∧ u.mem = s.mem ∧ u.engine = s.engine ∧
         (u.deck n).link.seek = none ∧
         (k.purpose = .park →
           (u.deck n).chase = { (s.deck n).chase with state := .parked, lastSpeed := some 0, seek := none } ∧
           (u.deck n).arbiter = (s.deck n).arbiter) ∧
         (k.purpose = .runOn → (s.deck n).link.state ≠ .absent →
           (u.deck n).chase = { (s.deck n).chase with state := .closing, lockCount := 0, seek := none } ∧
           (u.deck n).arbiter = { (s.deck n).arbiter with trim := some .run })) ∧
     (d.tapeIn = false → d.atTarget = false → s.claimed n = true → s.engine.state.running = true →
       ∃ u : State, exec (.replyState n) s = .next u.settleDecks ∧ u.engine.state = .aborting ∧
         u.engine.abortCode = some .deckFailed))

/-- A POSITION with a position becomes the sample of a tracker in NONE or LINK, stamped with its arrival field; one
without leaves LINK for NONE; in LTC and FLYWHEEL quality a POSITION is not used (R78, R82). -/
def Obligations.PositionReplyMakesALinkSample : Prop :=
  ∀ (s : State) (n : Deck) (e : Exchange) (p : Option TapePosition) (f : FieldCount), s.ready →
    (s.deck n).link.exchange = some e → e.phase ≠ .sending → e.command = .readPosition →
    (s.deck n).link.judged = some (.valid e.tag (.position p), f) →
    ∃ t, exec (.replyPosition n) s = .next t ∧ (∀ m, m ≠ n → (t.deck m).tracker = (s.deck m).tracker) ∧
      (t.deck n).link.failures = 0 ∧
      (t.deck n).link.state = (s.deck n).link.state.heard ∧ t.standing = s.standing ∧
      (((s.deck n).tracker.quality = .ltc ∨ (s.deck n).tracker.quality = .flywheel) →
        (t.deck n).tracker = (s.deck n).tracker) ∧
      (((s.deck n).tracker.quality = .none ∨ (s.deck n).tracker.quality = .link) → p = none →
        (t.deck n).tracker = { (s.deck n).tracker with quality := .none }) ∧
      (((s.deck n).tracker.quality = .none ∨ (s.deck n).tracker.quality = .link) → ∀ q, p = some q →
        (t.deck n).tracker.quality = .link ∧
        (t.deck n).tracker.latest = some ⟨2 * q.frame + q.field.code, q.kind, f, .link⟩ ∧
        (t.deck n).tracker.base = (t.deck n).tracker.latest ∧ (t.deck n).tracker.kind = some q.kind ∧
        (t.deck n).tracker.candidate = none)

/-- A garbled frame, or the expiry of the reply timer, fails a host exchange or an engine exchange. With retries left its
frame is begun again with the next tag (R41, R44), but for a host exchange overtaken by a claim of its deck (R65). The
punch of an engine exchange is no longer QUEUED once its frame has been begun (R136). -/
def Obligations.FailedExchangeIsRetried : Prop :=
  ∀ (s : State) (n : Deck) (e : Exchange), s.ready → s.decksAtRest → (s.deck n).link.exchange = some e →
    ((e.requester = .host ∧ e.overtaken = false) ∨ (e.requester = .engine ∧
      ∀ i x, e.punch = some i → s.engine.punches.get i = some x → x.status ≠ .queued)) →
    0 < e.retries → (s.deck n).tx.state = .idle →
    (s.deck n).tx.holding = none → (s.deck n).tx.shift = none →
    (∀ f, e.phase ≠ .sending → (s.deck n).link.judged = some (.garbled, f) →
      exec (.garbledFrame n) s = .next
        (s.onDeck n fun d =>
          { d with
            link := { d.link with
              exchange := some { e with
                lastFailure := some .garbled, retries := e.retries - 1, tag := d.link.nextTag, phase := .sending
                timer := none }
              nextTag := d.link.nextTag + 1
              judged := none }
            tx := { d.tx with
              state := .sending
              shift := some ⟨0xC9, false⟩
              outgoing := (commandFrame d.link.nextTag e.command).tail } })) ∧
    (e.timer = some 0 →
      exec (.replyTimerExpiry n) s = .next
        (s.onDeck n fun d =>
          { d with
            link := { d.link with
              exchange := some { e with
                lastFailure := some .expiry, retries := e.retries - 1, tag := d.link.nextTag, phase := .sending
                timer := none }
              nextTag := d.link.nextTag + 1
              judged := none }
            tx := { d.tx with
              state := .sending
              shift := some ⟨0xC9, false⟩
              outgoing := (commandFrame d.link.nextTag e.command).tail } }))

/-- With no retry left a host exchange ends FAULTED: LINK_GARBLED or LINK_TIMEOUT is offered with severity 3, the
failure count rises, the record completes FAULTED (R44, R68). One overtaken by a claim of its deck ends FAULTED with
DECK_CLAIMED, offered with severity 2, whatever its retries (R65). An engine exchange so ended that is no punch and no
HALT aborts the event with DECK_FAILED (R130). A position request or a poll that fails only raises the count, and a
chase exchange, failed or REFUSED, makes the last speed none, and for a SEEK the outstanding seek (R102). The link is
about to enter DOWN from PROBING or UP after a FAULTED ending, or when the count reaches the loss limit (R46); that it
is about to, a row of its own making the entry, is log entry 6, and that the command list waits for that entry, log
entry 55. -/
def Obligations.ExhaustedExchangeEndsFaulted : Prop :=
  (∀ (s : State) (n : Deck) (e : Exchange), s.ready → s.decksAtRest → (s.deck n).link.exchange = some e →
    ((s.deck n).link.state = .probing ∨ (s.deck n).link.state = .up) →
    (∀ h, e.requester = .host → e.overtaken = false → e.retries = 0 → (s.deck n).list.chosen = some h →
      (∀ f, e.phase ≠ .sending → (s.deck n).link.judged = some (.garbled, f) →
        exec (.garbledFrame n) s = .next
          (((s.offerDeck n 3 .linkGarbled 0).onLink n fun l =>
            { l with judged := none, exchange := none, failures := min 255 (l.failures + 1), downDue := true }
            ).completeRecord n h ⟨false, 0, 0, .linkGarbled, 0⟩)) ∧
      (e.timer = some 0 →
        exec (.replyTimerExpiry n) s = .next
          (((s.offerDeck n 3 .linkTimeout 0).onLink n fun l =>
            { l with exchange := none, failures := min 255 (l.failures + 1), downDue := true }).completeRecord n h
              ⟨false, 0, 0, .linkTimeout, 0⟩))) ∧
    (∀ h u, e.requester = .host → e.overtaken = true → (s.deck n).list.chosen = some h →
      u = ((((s.onLink n fun l =>
        { l with
          judged := none
          exchange := none
          failures := min 255 (l.failures + 1)
          downDue := decide ((s.deck n).settings.lossLimit ≤ min 255 (l.failures + 1)) }).offerDeck n 2 .deckClaimed
            h.offset).completeRecord n h ⟨false, 0, 0, .deckClaimed, 0⟩).settleDecks) →
      (∀ f, e.phase ≠ .sending → (s.deck n).link.judged = some (.garbled, f) → exec (.garbledFrame n) s = .next u) ∧
      (e.timer = some 0 → (s.deck n).link.judged = none → exec (.replyTimerExpiry n) s = .next u)) ∧
    ((e.requester = .tracker ∨ e.requester = .poll) → e.timer = some 0 →
      exec (.replyTimerExpiry n) s = .next
        (s.onDeck n fun d =>
          { d with link := { d.link with
            exchange := none
            failures := min 255 (d.link.failures + 1)
            downDue := decide (d.settings.lossLimit ≤ min 255 (d.link.failures + 1)) } }).settleDecks) ∧
    (e.requester = .chase → e.live = true → e.timer = some 0 →
      exec (.replyTimerExpiry n) s = .next
        (s.onDeck n fun d =>
          { d with
            link := { d.link with
              exchange := none
              failures := min 255 (d.link.failures + 1)
              downDue := decide (d.settings.lossLimit ≤ min 255 (d.link.failures + 1)) }
            chase := { d.chase with
              lastSpeed := none, seek := if e.command.isSeek = true then none else d.chase.seek } }).settleDecks) ∧
    (e.requester = .engine → e.live = true → e.retries = 0 → e.punch = none → e.command ≠ .halt → e.timer = some 0 →
      s.engine.state.running = true →
      ∃ u : State, exec (.replyTimerExpiry n) s = .next u.settleDecks ∧ u.engine.state = .aborting ∧
        u.engine.abortCode = some .deckFailed ∧ (u.deck n).link.exchange = none ∧ (u.deck n).link.downDue = true ∧
        (u.deck n).link.failures = min 255 ((s.deck n).link.failures + 1))) ∧
  (∀ (s : State) (n : Deck) (e : Exchange) (r : RefusalReason) (f : FieldCount), s.ready →
    (s.deck n).link.exchange = some e → e.requester = .chase → e.live = true → e.phase ≠ .sending →
    (s.deck n).link.judged = some (.valid e.tag (.refused r), f) →
    exec (.replyRefused n) s = .next
      (s.onDeck n fun d =>
        { d with
          link := { d.link with judged := none, exchange := none, failures := 0, state := d.link.state.heard }
          chase := { d.chase with
            lastSpeed := none, seek := if e.command.isSeek = true then none else d.chase.seek } }).settleDecks)

/-- A link that is to enter DOWN does: a host motion record waiting on it completes FAULTED with LINK_DOWN, LINK_DOWN is
offered with severity 3, DECK_FAULT raised, LINK quality left for NONE, and a claimed deck aborts the event with
DECK_FAILED, a HALT queued to each claimed deck (R47, R86, R144). The expiry of the seek timer ends the pending seek
with SEEK_TIMEOUT, offered with severity 2: the host's record completes FAULTED, an engine's cue aborts the event with
CUE_TIMEOUT, and a chase's outstanding seek becomes none (R51, R103, R129). An abort writes the results of the punches
it abandons and nothing else (R136). The expiry of the poll timer loads it again and makes a poll pending unless the
deck is polled each frame; a tracker in NONE or LINK of a deck not in use asks for its position (R52, R53, R88). That
the entry to DOWN and the expiries are rows of their own, doing nothing when they are not due, is log entry 6; that a
head made by the completion, and the scan it starts, wait for the end of the entry to DOWN, log entry 55; which pending
seek is the chase's outstanding one, log entry 27. -/
def Obligations.LinkDownAndTimerExpiries : Prop :=
  (∀ (s : State) (n : Deck), (s.deck n).link.downDue = false → exec (.linkEntersDown n) s = .next s) ∧
  (∀ (s u : State) (n : Deck), s.resetHeld = false → (s.deck n).link.downDue = true →
    (s.claimed n = false ∨ s.engine.state.running = false) → (s.deck n).link.seek = none →
    (((s.deck n).list.queue = [] ∧ u = s.onLink n fun l => { l with state := .down, downDue := false }) ∨
      ∃ h c, (s.deck n).list.queue = [h] ∧ h.command = .motion c ∧ h.status ≠ .seeking ∧
        u = (s.onLink n fun l => { l with state := .down, downDue := false }).completeRecord n h
          ⟨false, 0, 0, .linkDown, 0⟩) →
    exec (.linkEntersDown n) s = .next
      ((((u.offerDeck n 3 .linkDown 0).raise .deckFault).onTracker n fun t =>
          if t.quality = .link then { t with quality := .none, candidate := none } else t).onList n fun l =>
            { l with examine := true }).settleDecks) ∧
  (∀ (s : State) (n : Deck), s.resetHeld = false → (s.deck n).link.downDue = true → s.claimed n = true →
    s.engine.state.running = true → s.engine.claims.Nodup →
    ∃ u : State, exec (.linkEntersDown n) s = .next u.settleDecks ∧ (u.deck n).link.state = .down ∧
      (u.deck n).link.downDue = false ∧ (u.deck n).link.seek = none ∧ u.iface.pending.get .deckFault = true ∧
      (u.deck n).capture = (s.deck n).capture.offer 3 .linkDown 0 s.timeline.F ∧
      (u.deck n).tracker = (if (s.deck n).tracker.quality = .link then
        { (s.deck n).tracker with quality := .none, candidate := none } else (s.deck n).tracker) ∧
      u.engine.state = .aborting ∧ u.engine.abortCode = some .deckFailed ∧ u.engine.claims = s.engine.claims ∧
      u.engine.haltsAwaited = s.engine.claims ∧
      (∀ m ∈ s.engine.claims, (u.deck m).chase.state = .off ∧
        (u.deck m).arbiter.engineQueue =
          (if s.recorder = some m ∧ s.engine.punches.open = true then
            [⟨.punchOut 15, true, some .out⟩, ⟨.halt, true, none⟩]
           else [⟨.halt, true, none⟩])) ∧
      ((s.deck n).list.queue = [] → s.abandonsWritten u ∧ (u.deck n).list.queue = [])) ∧
  (∀ (s : State) (n : Deck), s.ready →
     ((s.deck n).link.seekTimer ≠ some 0 → exec (.seekTimerExpiry n) s = .next s) ∧
     (∀ p, (s.deck n).link.seekTimer = some 0 → (s.deck n).link.seek = some p →
       (∀ h, p.requester = .host → (s.deck n).list.seeking = some h → exec (.seekTimerExpiry n) s = .next
         (((s.offerDeck n 2 .seekTimeout 0).onLink n fun l => { l with seek := none, seekTimer := none }).completeRecord
           n h ⟨false, 0x40, 0, .seekTimeout, 0⟩).settleDecks) ∧
       (p.requester = .engine → p.live = true → s.engine.state = .cueing → s.linksBusy →
         ∃ t, exec (.seekTimerExpiry n) s = .next t ∧ (t.deck n).link.seek = none ∧
           (t.deck n).link.seekTimer = none ∧ t.engine.state = .aborting ∧ t.engine.abortCode = some .cueTimeout ∧
           (∀ m, s.sidesKept t m) ∧ s.abandonsWritten t ∧ s.unitsKept t ∧ t.standing = s.standing) ∧
       (p.requester = .chase → s.linksBusy → (p.live = true → (s.deck n).chase.seek ≠ none) →
         exec (.seekTimerExpiry n) s = .next
           (((s.offerDeck n 2 .seekTimeout 0).onLink n fun l => { l with seek := none, seekTimer := none }).onChase n
             fun c => if p.live = true then { c with seek := none, lastSpeed := none } else c)))) ∧
  (∀ (s : State) (n : Deck), s.ready →
     ((s.deck n).link.pollTimer ≠ some 0 → exec (.pollTimerExpiry n) s = .next s) ∧
     ((s.deck n).link.pollTimer = some 0 → s.linksBusy → (s.deck n).link.state ≠ .absent →
       exec (.pollTimerExpiry n) s = .next
         (s.onDeck n fun d =>
           { d with
             link := { d.link with
               pollTimer := if d.settings.pollInterval = 0 then none else some d.settings.pollInterval
               pollPending := d.link.pollPending ||
                 !(d.link.seek.isSome || (s.claimed n && s.engine.state == .cueing)) }
             arbiter := { d.arbiter with
               positionRequest := d.arbiter.positionRequest ||
                 ((d.tracker.quality == .link || d.tracker.quality == .none) && !s.inUse n) } })))

/-! ## Timecode, trackers and chase -/

/-- A word with a bad sync pattern or a malformed address is no arrival. A good one is judged with no candidate held: on
a fresh tracker, or within 2 fields of the prediction, it is accepted as the latest and base sample in LTC quality; else
it becomes the candidate and the sample stays. Its user bits and colour flag are kept either way (R76, R77, R80, R82). A
word within 2 fields of where a candidate of its kind would be by now is a jump: the history holds the two samples, the
speed is play speed in the word's direction (R81). A sample accepted otherwise joins the history and the speed becomes
that from the newest entry 4 fields older or more (R83), in the history it has joined (log entry 53). What is accepted
is handed to the deck's chase, to the chases that wait for it as their master, and to the mark unit (R89, R98). -/
def Obligations.WordArrivalIsJudged : Prop :=
  ∀ (s : State) (n : Deck) (bits : BitVec 80), s.ready →
    (ltcWord s.standard bits = none → exec (.wordArrival n bits) s = .next s) ∧
    (∀ w x, ltcWord s.standard bits = some w → (s.deck n).tracker.candidate = none →
      x = (⟨(if w.direction = .forward then 2 * (w.frame + 1) else 2 * w.frame) % w.kind.dayFields, w.kind,
        s.timeline.F, .ltc⟩ : Sample) →
      ∃ t, exec (.wordArrival n bits) s = .next t ∧ t.standing = s.standing ∧
        (∀ m, m ≠ n → (t.deck m).tracker = (s.deck m).tracker) ∧
        (t.deck n).tracker.userBits = w.userBits ∧ (t.deck n).tracker.colour = w.colour ∧
        ((s.deck n).tracker.base = none →
          (t.deck n).tracker.quality = .ltc ∧ (t.deck n).tracker.latest = some x ∧
          (t.deck n).tracker.base = some x ∧ (t.deck n).tracker.kind = some w.kind ∧
          (t.deck n).tracker.history = [x] ∧ (t.deck n).tracker.lastWord = some s.timeline.F ∧
          (t.deck n).tracker.v = (s.deck n).tracker.v ∧ (t.deck n).tracker.candidate = none) ∧
        (∀ b, (s.deck n).tracker.base = some b → b.kind = w.kind →
          ((sdiff w.kind.dayFields x.pos (displacePos b.kind b.pos
              (roundDiv ((s.deck n).tracker.v * fieldDiff s.timeline.F b.stamp) 1000))).natAbs ≤ 2 →
            (t.deck n).tracker.quality = .ltc ∧ (t.deck n).tracker.latest = some x ∧
            (t.deck n).tracker.base = some x ∧ (t.deck n).tracker.candidate = none) ∧
          (2 < (sdiff w.kind.dayFields x.pos (displacePos b.kind b.pos
              (roundDiv ((s.deck n).tracker.v * fieldDiff s.timeline.F b.stamp) 1000))).natAbs → s.decksAtRest →
            t = s.onTracker n fun tr =>
              { tr with userBits := w.userBits, colour := w.colour, candidate := some (x, w.direction) }))) ∧
    (∀ w x, ltcWord s.standard bits = some w →
      x = (⟨(if w.direction = .forward then 2 * (w.frame + 1) else 2 * w.frame) % w.kind.dayFields, w.kind,
        s.timeline.F, .ltc⟩ : Sample) →
      ∀ handed : Tracker → State,
        (∀ tr, handed tr =
          ((((s.onTracker n fun _ => tr).evaluateChase n x).eachDeck fun m s =>
            if (s.deck m).chase.master = some (.deck n) ∧ (s.deck m).chase.state = .wait then
              s.onChase m fun c => { c with state := .seeking }
            else s).compareMarks n x).settleDecks) →
        (∀ c dir, (s.deck n).tracker.candidate = some (c, dir) → c.kind = w.kind →
          (sdiff w.kind.dayFields x.pos (if w.direction = .forward then (c.pos : Int) + fieldDiff s.timeline.F c.stamp
            else (c.pos : Int) - fieldDiff s.timeline.F c.stamp)).natAbs ≤ 2 →
          exec (.wordArrival n bits) s = .next (handed
            { (s.deck n).tracker with
              userBits := w.userBits, colour := w.colour, latest := some x, base := some x, kind := some w.kind
              history := if c.stamp = s.timeline.F then [x] else [x, c]
              v := if w.direction = .forward then 1000 else -1000
              quality := .ltc, lastWord := some s.timeline.F, flywheelCount := 0, candidate := none
              limitDue := false })) ∧
        (∀ b history, (s.deck n).tracker.candidate = none → (s.deck n).tracker.base = some b → b.kind = w.kind →
          (sdiff w.kind.dayFields x.pos (displacePos b.kind b.pos
            (roundDiv ((s.deck n).tracker.v * fieldDiff s.timeline.F b.stamp) 1000))).natAbs ≤ 2 →
          history = (match (s.deck n).tracker.history with
            | [] => [x]
            | y :: ys => if y.stamp = s.timeline.F then x :: ys else (x :: y :: ys).take 8) →
          exec (.wordArrival n bits) s = .next (handed
            { (s.deck n).tracker with
              userBits := w.userBits, colour := w.colour, latest := some x, base := some x, kind := some w.kind
              history := history
              v := match history.find? fun y => 4 ≤ fieldDiff s.timeline.F y.stamp with
                | none => (s.deck n).tracker.v
                | some y => clamp (-50000) 50000 (roundDiv (1000 * sdiff w.kind.dayFields x.pos y.pos)
                    (fieldDiff s.timeline.F y.stamp).toNat)
              quality := .ltc, lastWord := some s.timeline.F, flywheelCount := 0, candidate := none
              limitDue := false })))

/-- Three fields after the last accepted word LTC quality is left for FLYWHEEL, or with a flywheel limit of 0 for LINK or
NONE (R84); on a first field, which is a frame boundary, the boundary's act follows at once (R85, R88). At a boundary in
FLYWHEEL the count rises, and up to the limit the sample predicted becomes the latest, the base and the speed staying;
beyond the limit FLYWHEEL is left for LINK while the link is UP and for NONE otherwise, and a deck in use asks for its
position unless its link is ABSENT (R79, R85, R88). That the gap and the end beyond the limit are rows of their own, doing
nothing sooner, is log entry 6. -/
def Obligations.FlywheelIsEnteredAndLeft : Prop :=
  (∀ (s : State) (n : Deck) (w : FieldCount), s.ready → s.decksAtRest → (s.deck n).tracker.quality = .ltc →
     (s.deck n).tracker.lastWord = some w →
     (fieldDiff s.timeline.F w < 3 → exec (.ltcGap n) s = .next s) ∧
     (3 ≤ fieldDiff s.timeline.F w → s.timeline.field = .second →
       ((s.deck n).settings.flywheelLimit ≠ 0 → exec (.ltcGap n) s = .next (s.onTracker n fun t =>
         { t with quality := .flywheel, flywheelCount := 0, limitDue := false })) ∧
       ((s.deck n).settings.flywheelLimit = 0 → exec (.ltcGap n) s = .next (s.onTracker n fun t =>
         { t with
           quality := if (s.deck n).link.state = .up then .link else .none
           candidate := none
           limitDue := false }))) ∧
     (3 ≤ fieldDiff s.timeline.F w → s.timeline.field = .first → s.linksBusy →
       ((s.deck n).settings.flywheelLimit = 0 → exec (.ltcGap n) s = .next
         (s.onDeck n fun d =>
           { d with
             tracker := { d.tracker with
               quality := if d.link.state = .up then .link else .none
               candidate := none
               limitDue := false }
             arbiter := { d.arbiter with
               positionRequest := d.arbiter.positionRequest || (s.inUse n && d.link.state != .absent) } })) ∧
       ((s.deck n).settings.flywheelLimit ≠ 0 → exec (.ltcGap n) s = .next
         ((s.onTracker n fun t =>
           { t with quality := .flywheel, flywheelCount := 0, limitDue := false }).flywheelBoundary n).settleDecks))) ∧
  (∀ (s : State) (n : Deck) (b : Sample) (count : Nat), (s.deck n).tracker.quality = .flywheel →
     (s.deck n).tracker.base = some b → count = min 16 ((s.deck n).tracker.flywheelCount + 1) →
     (∀ m, (s.deck m).chase.state = .off) →
     (count ≤ (s.deck n).settings.flywheelLimit →
       s.flywheelBoundary n = s.onTracker n fun t =>
         { t with
           flywheelCount := count
           latest := some ⟨displacePos b.kind b.pos
               (roundDiv ((s.deck n).tracker.v * fieldDiff s.timeline.F b.stamp) 1000), b.kind, s.timeline.F,
             .flywheel⟩ }) ∧
     ((s.deck n).settings.flywheelLimit < count →
       s.flywheelBoundary n = s.onTracker n fun t => { t with flywheelCount := count, limitDue := true })) ∧
  (∀ (s : State) (n : Deck), s.ready →
     ((s.deck n).tracker.limitDue = false → exec (.flywheelLimit n) s = .next s) ∧
     ((s.deck n).tracker.limitDue = true → s.linksBusy → exec (.flywheelLimit n) s = .next
       (s.onDeck n fun d =>
         { d with
           tracker := { d.tracker with
             quality := if d.link.state = .up then .link else .none
             candidate := none
             limitDue := false }
           arbiter := { d.arbiter with
             positionRequest := d.arbiter.positionRequest || (s.inUse n && d.link.state != .absent) } })))

/-- A sample of a chasing slave is evaluated by the first row of Table 6-4 that fits the master's position and speed at
its stamp and the error from the target (R97, R99, R100). The clauses give the six rows: the state after, the error, the
lock count, the last counted stamp and the unlock run, the outstanding seek, and the command offered to the trim slot,
with the trim law of row 6 (R101, R103, R104, R105). A row that leaves LOCKED raises CHASE for a chase begun by the host
(R106). In row 6 a lock count that has reached its setting leaves the state as it is and is noted in Chase.lockDue, and
an unlock run of 2 leaves LOCKED standing: that rows of their own then enter LOCKED and leave it is log entry 6. Row 1
offers its HALT once, not in WAIT and not at the sample evaluated after a master sample has moved WAIT to SEEKING (R98,
R100; that this is the first such sample is log entry 46); a deck master without a base sample has no position (log
entry 31). That rows 1 to 5 set the lock count to 0 at a sample that is not counted too, where R104 differs from R100,
is log entry 56. -/
def Obligations.ChaseSamplesFollowTheLaw : Prop :=
  ∀ (s t : State) (n : Deck) (x : Sample) (c u : Chase) (d : DeckSettings) (offset : Int) (counted : Prop)
    (stamped : Option FieldCount), c = (s.deck n).chase → d = (s.deck n).settings → t = s.evaluateChase n x →
    u = (t.deck n).chase → c.state ≠ .off → c.offset = some offset → (s.deck n).link.state ≠ .absent →
    (counted ↔ ∀ k, c.lastCounted = some k → 2 ≤ fieldDiff x.stamp k) →
    (counted → stamped = some x.stamp) → (¬counted → stamped = c.lastCounted) →
    (∀ m, m ≠ n → t.deck m = s.deck m) ∧ t.mem = s.mem ∧ t.engine = s.engine ∧
    (t.deck n).tracker = (s.deck n).tracker ∧
    (c.starter = some .host → c.state = .locked → u.state ≠ .locked → t.iface.pending.get .chase = true) ∧
    (∀ m, c.master = some (.deck m) → (s.deck m).tracker.quality = .none ∨ (s.deck m).tracker.base = none →
      u = { c with
        state := .wait, lastError := none, lockCount := 0, unlockRun := 0, lockDue := false, lastCounted := stamped
        seek := if c.state = .wait ∨ c.resumed = true then c.seek else none } ∧
      (t.deck n).arbiter.trim =
        if c.state = .wait ∨ c.resumed = true then (s.deck n).arbiter.trim else some .halt) ∧
    (∀ (position vm e : Int) (T : Nat),
      ((∃ o f, c.master = some .timeline ∧ c.origin = some o ∧ c.startField = some f ∧
          position = 2 * o.1 + fieldDiff x.stamp f ∧ vm = 1000) ∨
        (∃ m b, c.master = some (.deck m) ∧ (s.deck m).tracker.quality ≠ .none ∧ (s.deck m).tracker.base = some b ∧
          vm = (s.deck m).tracker.v ∧
          position = ((b.pos : Int) + roundDiv (vm * fieldDiff x.stamp b.stamp) 1000) % b.kind.dayFields)) →
      (T : Int) = (position + 2 * offset) % x.kind.dayFields → e = sdiff x.kind.dayFields x.pos T →
      (3000 < vm.natAbs →
        u = { c with
          state := .seeking, lastError := some e, lockCount := 0, unlockRun := 0, lockDue := false
          lastCounted := stamped, seek := if c.lastSpeed = some vm then c.seek else none } ∧
        (t.deck n).arbiter.trim = if c.lastSpeed = some vm then (s.deck n).arbiter.trim else some (.wind vm)) ∧
      (vm = 0 → d.lockWindow < e.natAbs →
        u = { c with
          state := .seeking, lastError := some e, lockCount := 0, unlockRun := 0, lockDue := false
          lastCounted := stamped, seek := some ⟨.park, T / 2, x.kind⟩ } ∧
        (t.deck n).arbiter.trim = if c.seek = some ⟨.park, T / 2, x.kind⟩ then (s.deck n).arbiter.trim
          else some (.seek (addrOf x.kind (T / 2)) (x.kind == .df525))) ∧
      (vm = 0 → e.natAbs ≤ d.lockWindow → ∀ quiet : Prop,
        (quiet ↔ c.lastSpeed = some 0 ∨ ∃ k, c.seek = some k ∧ k.purpose = .park) →
        (quiet → u = { c with
            state := .parked, lastError := some e, lockCount := 0, unlockRun := 0, lockDue := false
            lastCounted := stamped } ∧
          (t.deck n).arbiter.trim = (s.deck n).arbiter.trim) ∧
        (¬quiet → u = { c with
            state := .parked, lastError := some e, lockCount := 0, unlockRun := 0, lockDue := false
            lastCounted := stamped, seek := none } ∧
          (t.deck n).arbiter.trim = some .halt)) ∧
      (vm.natAbs ≤ 3000 → vm ≠ 0 →
        ((∃ k, c.seek = some k ∧ k.purpose = .runOn) →
          u = { c with lastError := some e } ∧ (t.deck n).arbiter.trim = (s.deck n).arbiter.trim) ∧
        ((∀ k, c.seek = some k → k.purpose ≠ .runOn) → 2 * d.windThreshold < e.natAbs → ∀ frame : Nat,
          frame = (((T : Int) + if 0 < vm then 2 * (d.seekLead : Int) else -(2 * (d.seekLead : Int))) %
            x.kind.dayFields).toNat / 2 →
          u = { c with
            state := .seeking, lastError := some e, lockCount := 0, unlockRun := 0, lockDue := false
            lastCounted := stamped, seek := some ⟨.runOn, frame, x.kind⟩ } ∧
          (t.deck n).arbiter.trim = some (.seek (addrOf x.kind frame) (x.kind == .df525))) ∧
        ((∀ k, c.seek = some k → k.purpose ≠ .runOn) → e.natAbs ≤ 2 * d.windThreshold → ∀ (v trim : Int) (count : Nat),
          trim = (if e.natAbs ≤ d.lockWindow then 0 else clamp (-(d.vmax : Int)) d.vmax (roundDiv (d.gain * e) 16)) →
          v = clamp (-3000) 3000 (vm - trim) →
          (counted → d.lockWindow < e.natAbs → count = 0) →
          (counted → e.natAbs ≤ d.lockWindow →
            count = match c.lastCounted with
              | none => 1
              | some k => if fieldDiff x.stamp k ≤ 3 then min 15 (c.lockCount + 1) else 1) →
          (¬counted → count = c.lockCount) →
          u.state = (if c.state = .locked then .locked else .closing) ∧ u.lastError = some e ∧ u.lockCount = count ∧
          u.lastCounted = stamped ∧
          u.unlockRun = (if c.state ≠ .locked then c.unlockRun else if d.unlockWindow < e.natAbs then c.unlockRun + 1
            else 0) ∧
          (u.lockDue = true ↔ c.state ≠ .locked ∧ counted ∧ e.natAbs ≤ d.lockWindow ∧ d.lockCount ≤ count) ∧
          u.seek = (if c.lastSpeed = some v then c.seek else none) ∧
          (t.deck n).arbiter.trim = if c.lastSpeed = some v then (s.deck n).arbiter.trim else some (.runVar v))))

/-- LOCKED is entered when the lock count has reached its setting, and left for CLOSING with the lock count at 0 when the
unlock run has reached 2; each raises CHASE for a chase begun by the host (R104, R105, R106). That the entry is noted by the
evaluation (ChaseSamplesFollowTheLaw says when) and made by a row of its own, which does nothing before, is log entry 6. The
commanded speed lies within 3000 per mille either way and, before that, within the trim limit of the master's speed; it is
the master's speed within the lock window, and never on the other side of it (R101). -/
def Obligations.ChaseLocksAndTrimBounds : Prop :=
  (∀ (s : State) (n : Deck), (s.deck n).chase.lockDue = false → exec (.chaseLock n) s = .next s) ∧
  (∀ (s : State) (n : Deck), s.resetHeld = false → (s.deck n).chase.lockDue = true → (s.deck n).chase.state ≠ .locked →
    ((s.deck n).chase.starter = some .host → exec (.chaseLock n) s = .next
      ((s.onChase n fun c => { c with state := .locked, unlockRun := 0, lockDue := false }).raise .chase)) ∧
    ((s.deck n).chase.starter ≠ some .host → exec (.chaseLock n) s = .next
      (s.onChase n fun c => { c with state := .locked, unlockRun := 0, lockDue := false }))) ∧
  (∀ (s : State) (n : Deck), (s.deck n).chase.state ≠ .locked ∨ (s.deck n).chase.unlockRun ≠ 2 →
    exec (.chaseUnlock n) s = .next s) ∧
  (∀ (s : State) (n : Deck), s.resetHeld = false → (s.deck n).chase.state = .locked →
    (s.deck n).chase.unlockRun = 2 →
    ((s.deck n).chase.starter = some .host → exec (.chaseUnlock n) s = .next
      ((s.onChase n fun c => { c with state := .closing, lockCount := 0, unlockRun := 0 }).raise .chase)) ∧
    ((s.deck n).chase.starter ≠ some .host → exec (.chaseUnlock n) s = .next
      (s.onChase n fun c => { c with state := .closing, lockCount := 0, unlockRun := 0 }))) ∧
  (∀ (d : DeckSettings) (vm e : Int),
    -3000 ≤ trimSpeed d vm e ∧ trimSpeed d vm e ≤ 3000 ∧
    (-3000 ≤ vm → vm ≤ 3000 → (trimSpeed d vm e - vm).natAbs ≤ d.vmax) ∧
    (-3000 ≤ vm → vm ≤ 3000 → e.natAbs ≤ d.lockWindow → trimSpeed d vm e = vm) ∧
    (-3000 ≤ vm → vm ≤ 3000 → 0 ≤ e → trimSpeed d vm e ≤ vm) ∧
    (-3000 ≤ vm → vm ≤ 3000 → e ≤ 0 → vm ≤ trimSpeed d vm e))

/-! ## GPI lines, marks and the capture log -/

/-- A change to the level an input has is none. A level change is recorded; with no input a chord member and the chord
ARMED, it does nothing more on an input without function or when it is no edge; an edge on a START input sets
start-pending for a GPI event being cued (R170, R132). -/
def Obligations.InputChangeActsByFunction : Prop :=
  ∀ (s : State) (l : Line) (high : Bool), s.ready →
    (s.gpi.levels.get l = high → s.decksAtRest → exec (.gpiInputChange l high) s = .next s) ∧
    (s.gpi.levels.get l ≠ high → s.decksAtRest → s.gpi.armed = true →
      (∀ k, (s.gpi.inputs.get k).function ≠ .chord) →
      (((s.gpi.inputs.get l).function = .none ∨ (s.gpi.inputs.get l).edge = (if high = true then .falling else .rising)) →
        exec (.gpiInputChange l high) s = .next
          { s with gpi := { s.gpi with levels := s.gpi.levels.set l high } }) ∧
      ((s.gpi.inputs.get l).function = .start →
        ((s.gpi.inputs.get l).edge = .both ∨
          (s.gpi.inputs.get l).edge = (if high = true then .rising else .falling)) →
        (s.engine.state = .cueing ∨ s.engine.state = .cued) →
        (∃ ev, s.engine.working = some ev ∧ ev.start = .gpi) →
        exec (.gpiInputChange l high) s = .next
          { s with
            gpi := { s.gpi with levels := s.gpi.levels.set l high }
            engine := { s.engine with startPending := true } }))

/-- An edge on a CAPTURE input hands an entry to the log writer, which with room in the ring writes the 16 bytes at the
write index, then the new index in the header, and counts both on; a fill that reaches the threshold raises LOG and spends
it (R170, R175, R177, R178). A full ring re-reads the consumed index: with room then the entry is written as well, else it is
dropped, the overflow flag set and LOG raised (R176). With the log off it is discarded. The entry of a capture with no
deck is kind 2, deck 0xFF, F, the input's number and the edge; the bytes of an entry with no sample are log entry 23. -/
def Obligations.CaptureEdgeIsLogged : Prop :=
  ∀ (s : State) (l : Line) (high : Bool) (t : State) (consumed : Nat), s.ready → s.decksAtRest →
    s.gpi.levels.get l ≠ high →
    s.gpi.armed = true → (∀ k, (s.gpi.inputs.get k).function ≠ .chord) →
    (s.gpi.inputs.get l).function = .capture → (s.gpi.inputs.get l).edge = .both → s.gpi.captureDeck = none →
    t = { s with gpi := { s.gpi with levels := s.gpi.levels.set l high } } →
    (s.log.count = 0 → exec (.gpiInputChange l high) s = .next t) ∧
    (2 ≤ s.log.count → s.log.writeIndex < s.log.count → 16 * s.log.base + 16 + 16 * s.log.count ≤ s.iface.limit →
      ∀ (written : State) (next fill : Nat), next = (s.log.writeIndex + 1) % s.log.count →
      fill = (next + s.log.count - consumed) % s.log.count →
      written =
        { t with
          mem :=
            (s.mem.store (16 * s.log.base + 16 + 16 * s.log.writeIndex)
              (half s.log.sequence.toNat ++ [2, 0xFF] ++ wordOfField s.timeline.F ++
                [0, 0, 0, 0, 0, 0, byte l.num, if high = true then 0 else 1])).store
              (16 * s.log.base + 2) (half next)
          log := { s.log with writeIndex := next, sequence := s.log.sequence + 1, consumed := consumed } } →
      (next ≠ s.log.consumed → consumed = s.log.consumed →
        ((s.log.threshold = 0 ∨ s.log.armed = false ∨ fill < s.log.threshold) →
          exec (.gpiInputChange l high) s = .next written) ∧
        (s.log.threshold ≠ 0 → s.log.armed = true → s.log.threshold ≤ fill →
          exec (.gpiInputChange l high) s = .next
            ({ written with log := { written.log with armed := false } }.raise .log))) ∧
      (next = s.log.consumed → s.log.threshold = 0 →
        consumed = (if halfAt (s.mem.load (16 * s.log.base) 2) 0 < s.log.count
          then halfAt (s.mem.load (16 * s.log.base) 2) 0 else s.log.consumed) →
        (next ≠ consumed → exec (.gpiInputChange l high) s = .next written) ∧
        (next = consumed → exec (.gpiInputChange l high) s = .next
          ({ t with mem := s.mem.store (16 * s.log.base + 4) [1], log := { s.log with consumed := consumed } }.raise
            .log))))

/-- A trigger at its field asks for a pulse of its width on its line, made if the line is an EVENT output, and becomes FIRED;
a pulse already running is extended to the later end (R142, R173). A pulse ends at its end field; that the row does nothing
before is log entry 6. An enabled mark entry compared with a sample of its deck fires by its mode: EQUAL on a match of the
unmasked fields after a sample that did not match, in a direction its filter passes (R165, R166); CROSSING when its frame
lies in the span from the previous sample of the kind, less than half a day long (R167). What fires hands its entry to the
log, pulses a MARK output, raises MARK and is disabled, as its actions say and in that order (R168). The sample then is the
deck's previous one. -/
def Obligations.TriggersAndMarksAct : Prop :=
  (∀ (s : State) (i : Fin 4) (x : Trigger), s.ready → s.decksAtRest → s.noEarlierAct (.trigger i) →
     s.engine.state.rolled = true → s.engine.triggers[i.val]? = some x → x.status = .planned →
     x.field = s.timeline.F →
     (s.gpi.outputs.get x.line = .event →
       exec (.trigger i) s = .next
         { s with
           gpi := { s.gpi with pulses := s.gpi.pulses.set x.line (some
             (match s.gpi.pulses.get x.line with
               | none => fieldAdd s.timeline.F x.width
               | some old => if 0 < fieldDiff (fieldAdd s.timeline.F x.width) old
                   then fieldAdd s.timeline.F x.width else old)) }
           engine := { s.engine with triggers := s.engine.triggers.set i.val { x with status := .fired } } }) ∧
     (s.gpi.outputs.get x.line ≠ .event →
       exec (.trigger i) s = .next
         { s with engine := { s.engine with triggers := s.engine.triggers.set i.val { x with status := .fired } } })) ∧
  (∀ (s : State) (l : Line), s.ready →
     (s.gpi.pulses.get l = some s.timeline.F →
       exec (.pulseEnd l) s = .next { s with gpi := { s.gpi with pulses := s.gpi.pulses.set l none } }) ∧
     (s.gpi.pulses.get l ≠ some s.timeline.F → exec (.pulseEnd l) s = .next s)) ∧
  (∀ (s : State) (n : Deck) (x : Sample) (i b : Nat) (a : Addr) (m : Mark) (d : Option Int) (passes equal fires : Prop)
    (fired : State) (finish : FieldCount), s.marks.entries[i]? = some m → m.enabled = true → m.deck = n → s.marks.entries.length = 16 →
    (∀ j k, j ≠ i → s.marks.entries[j]? = some k → k.enabled = false ∨ k.deck ≠ n) →
    b = x.pos / 2 → a = addrOf x.kind b →
    d = (match s.marks.previous.get n with
      | some (p, k) => if k = x.kind then some (sdiff x.kind.day b p) else none
      | none => none) →
    (passes ↔ m.direction = .either ∨ (m.direction = .forward ∧ ∃ y, d = some y ∧ 0 < y) ∨
      (m.direction = .reverse ∧ ∃ y, d = some y ∧ y < 0)) →
    (equal ↔ (m.maskHours = true ∨ m.address.hh = a.hh) ∧ (m.maskMinutes = true ∨ m.address.mm = a.mm) ∧
      (m.maskSeconds = true ∨ m.address.ss = a.ss) ∧ (m.maskFrames = true ∨ m.address.ff = a.ff)) →
    (m.crossing = false → (fires ↔ m.kind = x.kind ∧ equal ∧ m.matching = false ∧ passes)) →
    (m.crossing = true → (fires ↔ m.kind = x.kind ∧ passes ∧ ∃ p y, s.marks.previous.get n = some (p, x.kind) ∧
      d = some y ∧ 2 * y.natAbs < x.kind.day ∧
      ((0 < y ∧ 1 ≤ ((frameOf m.kind m.address : Int) - p) % x.kind.day ∧
          ((frameOf m.kind m.address : Int) - p) % x.kind.day ≤ y) ∨
        (y < 0 ∧ 1 ≤ ((p : Int) - frameOf m.kind m.address) % x.kind.day ∧
          ((p : Int) - frameOf m.kind m.address) % x.kind.day ≤ -y)))) →
    finish = (match s.gpi.pulses.get m.line with
      | none => fieldAdd s.timeline.F m.width
      | some old => if 0 < fieldDiff (fieldAdd s.timeline.F m.width) old
          then fieldAdd s.timeline.F m.width else old) →
    ∀ edge : Mark, (m.crossing = true → edge = m) →
      (m.crossing = false → m.kind = x.kind ∧ equal → edge = { m with matching := true }) →
      (m.crossing = false → ¬(m.kind = x.kind ∧ equal) → edge = { m with matching := false }) →
      fired = (if m.capture = true then
          (s.onMarks fun u => { u with entries := u.entries.set i edge }).appendLog
            ⟨1, some n, x.stamp, a, some x.kind, (s.deck n).tracker.quality, i, 0⟩
        else s.onMarks fun u => { u with entries := u.entries.set i edge }) →
      (¬fires → s.compareMarks n x = s.onMarks fun u =>
        { entries := u.entries.set i edge, previous := u.previous.set n (some (b, x.kind)) }) ∧
      (fires → s.compareMarks n x =
        { fired with
          gpi := { fired.gpi with pulses :=
            (if m.pulse = true ∧ s.gpi.outputs.get m.line = .mark
              then s.gpi.pulses.set m.line (some finish) else s.gpi.pulses) }
          iface := { fired.iface with pending :=
            (if m.notice = true then fired.iface.pending.set .mark true else fired.iface.pending) }
          marks :=
            { entries := s.marks.entries.set i { edge with enabled := !m.once }
              previous := s.marks.previous.set n (some (b, x.kind)) } }))

/-! ## The edit engine -/

/-- A frame boundary that found the engine CUED with start-pending set rolls the event: the schedule is formed from F0, a
RUN queued to each claimed deck and its chase started on its ideal, start-pending cleared, ROLLING entered and written
(R96, R132), and the generator carries the event record, its content that before the transition (R153, R155). A REHEARSE
event plans no punch and has its sync check the sync margin before F_in; a PERFORM event has it at the first planned
PUNCH-IN when that comes earlier, and plans its punches with their masks and fields, each in its window at once when that
opens before F0 (R133, R134, R135). That the boundary notes the roll and a row makes it, doing nothing with none due, is log
entry 6. -/
def Obligations.RollFormsTheSchedule : Prop :=
  (∀ s : State, s.ready → s.engine.rollDue = false → exec .roll s = .next s) ∧
  (∀ (s : State) (ev : Event) (slot : Fin 64) (program preset : Nat) (first : Int)
    (at_ : BitVec 4 → FieldCount → Punch), s.ready → s.linksBusy → s.slotHeld slot → s.engine.working = some ev →
    s.engine.state = .cued → s.engine.rollDue = true → s.engine.startPending = true →
    s.engine.results.reached = some .cued → s.engine.claims.Nodup →
    (∀ n, (s.deck n).arbiter.engineQueue.length < 4) →
    program = (match ev.sourceA with
      | .deck d => (s.deck d).settings.input
      | .black => s.suite.blackInput) →
    preset = (match ev.sourceB with
      | none => program
      | some (.deck d) => (s.deck d).settings.input
      | some .black => s.suite.blackInput) →
    first = -(2 * (ev.editDelay : Int)) + (if ev.split < 0 then 2 * ev.split else 0) →
    (∀ mask f, at_ mask f = ⟨mask, f, if fieldDiff f s.timeline.F < 4 then .window else .planned, none⟩) →
    ∃ t sch, exec .roll s = .next t ∧
      sch.f0 = s.timeline.F ∧ sch.fIn = fieldAdd s.timeline.F (2 * ev.preroll) ∧
      sch.fT = fieldAdd sch.fIn (2 * ev.startOffset) ∧ sch.fOut = fieldAdd sch.fIn (2 * ev.duration) ∧
      sch.fEnd = fieldAdd sch.fOut (2 * ev.postroll) ∧
      (ev.perform = false → sch.fS = fieldAdd sch.fIn (-(2 * (s.suite.syncMargin : Int))) ∧
        t.engine.punches = ⟨none, none, none⟩) ∧
      (ev.perform = true → (ev.insert = false → ev.split = 0) →
        sch.fS = fieldAdd sch.fIn (min (-(2 * (s.suite.syncMargin : Int))) first) ∧
        t.engine.punches.video = some (at_
          (if ev.insert = false then 15 else if ev.split = 0 then ev.mask else ev.mask &&& 9)
          (fieldAdd sch.fIn (-(2 * (ev.editDelay : Int))))) ∧
        t.engine.punches.audio = (if ev.split = 0 then none
          else some (at_ (ev.mask &&& 6) (fieldAdd sch.fIn (2 * ev.split - 2 * (ev.editDelay : Int))))) ∧
        t.engine.punches.out = some (at_ 15 (fieldAdd sch.fOut (-(2 * (ev.editDelay : Int)))))) ∧
      t.engine.state = .rolling ∧ t.engine.schedule = some sch ∧ t.engine.startPending = false ∧
      t.engine.rollDue = false ∧ t.engine.results.reached = some .rolling ∧ t.engine.working = some ev ∧
      t.engine.claims = s.engine.claims ∧
      t.engine.triggers = ev.triggers.map (fun x => ⟨x.line, fieldAdd sch.fIn (2 * x.offset), x.width, .planned⟩) ∧
      (∀ n ∈ s.engine.claims,
        (t.deck n).arbiter.engineQueue = (s.deck n).arbiter.engineQueue ++ [⟨.run, true, none⟩] ∧
        (t.deck n).chase.state = .seeking ∧ (t.deck n).chase.starter = some .engine ∧
        (t.deck n).chase.master = some .timeline ∧ (t.deck n).chase.offset = some 0 ∧
        (t.deck n).chase.origin = some (ev.cueOf n) ∧ (t.deck n).chase.startField = some s.timeline.F) ∧
      (∀ n, n ∉ s.engine.claims → t.deck n = s.deck n) ∧
      t.generator.state = .carrying ∧
      t.generator.event = some ⟨program, preset, ev.sourceB.isSome, ev.transition, ev.pattern,
        2 * ev.transitionFrames, ev.curve, sch.fT⟩ ∧
      (fieldDiff s.timeline.F sch.fT < 0 → t.generator.content = ⟨program, preset, .none, ev.pattern, 0⟩) ∧
      (∀ n, s.sidesKept t n) ∧ s.unitsKept t ∧
      t.mem = s.mem.store (s.eventSlot slot + 30) [4] ∧ t.standing = s.standing)

/-- The sync check at F_S, earlier acts of that field being made: the sync flags and errors of the claimed decks are
written into the slot, bytes 33 and 36 to 41, on every path (R133, R195). With every claimed deck LOCKED under the engine's
start the engine enters SYNCED and raises EDIT_PROGRESS; with one that is not, ABORT aborts the event with SYNC_FAIL, and
PROCEED enters SYNCED with the advisory flag and offers SYNC_UNLOCKED to its capture (R133). -/
def Obligations.SyncCheckFollowsThePolicy : Prop :=
  ∀ (s : State) (ev : Event) (slot : Fin 64) (lock : Deck → Bool) (flag : Deck → Nat)
    (of_ : Option Source → (Deck → Nat) → Nat) (error : Option Source → List Byte) (flags : Nat), s.ready →
    s.linksBusy → s.slotHeld slot → s.memoryOk →
    s.engine.working = some ev → s.engine.state = .rolling → s.engine.results.reached = some .rolling →
    s.engine.results.advisory = false →
    s.atField Schedule.fS = true → s.noEarlierAct .sync → s.engine.claims.Nodup →
    (∀ n, lock n = ((s.deck n).chase.state == .locked && (s.deck n).chase.starter == some .engine)) →
    (∀ n, flag n = if lock n = true then 1 else if (s.deck n).chase.lastError ≠ none then 2 else 3) →
    (∀ f, of_ none f = 0 ∧ of_ (some .black) f = 0 ∧ ∀ n, of_ (some (.deck n)) f = f n) →
    (error none = [0, 0] ∧ error (some .black) = [0, 0] ∧
      ∀ n, error (some (.deck n)) = errorBytes (s.deck n).chase.lastError) →
    flags = flag ev.recorder + 4 * of_ (some ev.sourceA) flag + 16 * of_ ev.sourceB flag →
    ∃ t, exec .syncCheck s = .next t ∧ s.sameOutside t (s.eventSlot slot + 30) 34 ∧ t.standing = s.standing ∧
      (∀ n, s.sidesKept t n) ∧ s.unitsKept t ∧
      t.mem.load (s.eventSlot slot + 36) 6 =
        error (some (.deck ev.recorder)) ++ error (some ev.sourceA) ++ error ev.sourceB ∧
      ((∀ n ∈ s.engine.claims, lock n = true) →
        t.engine.state = .synced ∧ t.iface.pending.get .editProgress = true ∧
        t.mem.read (s.eventSlot slot + 30) = 5 ∧ t.mem.read (s.eventSlot slot + 33) = byte flags) ∧
      (∀ n ∈ s.engine.claims, lock n = false →
        (s.suite.syncPolicy = .abort → t.engine.state = .aborting ∧ t.engine.abortCode = some .syncFail ∧
          t.mem.read (s.eventSlot slot + 30) = s.mem.read (s.eventSlot slot + 30) ∧
          t.mem.read (s.eventSlot slot + 33) = byte flags) ∧
        (s.suite.syncPolicy = .proceed → t.engine.state = .synced ∧ t.engine.results.advisory = true ∧
          t.iface.pending.get .editProgress = true ∧ t.mem.read (s.eventSlot slot + 30) = 5 ∧
          t.mem.read (s.eventSlot slot + 33) = byte (flags + 64) ∧
          (t.deck n).capture = (s.deck n).capture.offer 2 .syncUnlocked 0 s.timeline.F))

/-- Four fields before a punch's planned field its entry takes WINDOW; at the planned field, in SYNCED or RECORDING (and
POSTROLL for the PUNCH-OUT), the punch is queued to the recorder and its entry is QUEUED (R135, R136, R139). -/
def Obligations.PunchesOpenAndQueue : Prop :=
  ∀ (s : State) (p : PunchId) (x : Punch), s.ready → s.linksBusy → s.engine.punches.get p = some x →
    (x.status = .planned → s.engine.state.scheduled = true → s.noEarlierAct (.window p) →
      s.timeline.F = fieldAdd x.planned (-4) →
      exec (.punchWindowOpen p) s = .next (s.onEngine fun e =>
        { e with punches := e.punches.set p (some { x with status := .window }) })) ∧
    (∀ ev, (x.status = .planned ∨ x.status = .window) → s.timeline.F = x.planned → s.engine.working = some ev →
      (s.deck ev.recorder).arbiter.engineQueue.length < 4 →
      (p ≠ .out → (s.engine.state = .synced ∨ s.engine.state = .recording) → s.noEarlierAct (.punchIn p) →
        exec (.punchInQueued p) s = .next
          ((s.onArbiter ev.recorder fun a =>
            { a with engineQueue := a.engineQueue ++ [⟨.punchIn x.mask, true, some p⟩] }).onEngine fun e =>
              { e with punches := e.punches.set p (some { x with status := .queued }) })) ∧
      (p = .out → (s.engine.state = .synced ∨ s.engine.state = .recording ∨ s.engine.state = .postroll) →
        s.noEarlierAct .punchOut →
        exec .punchOutQueued s = .next
          ((s.onArbiter ev.recorder fun a =>
            { a with engineQueue := a.engineQueue ++ [⟨.punchOut 15, true, some .out⟩] }).onEngine fun e =>
              { e with punches := e.punches.set .out (some { x with status := .queued }) })))

/-- The answers to the engine's punches. The first PUNCH-IN answered TAKEN makes the record tally active, enters RECORDING
from SYNCED with EDIT_PROGRESS, and is logged as EDIT_IN when edits are logged; a second changes no state (R136, R137, R160,
R178). In ENDING the tally and the entry are made all the same; in ABORTING the tally alone (log entry 41). One REFUSED
aborts the event with RECORD_REFUSED (R130). A PUNCH-OUT answered TAKEN makes the tally inactive, writes its results and the
actual out, record in displaced by half the fields from F_in to its actual field with the edit delay, rounded up, and is
logged as EDIT_OUT (R139, R145, R160). The results of a punch are its planned and actual fields and its lateness (R136). -/
def Obligations.PunchAnswersMoveTheEvent : Prop :=
  ∀ (s v : State) (n : Deck) (e : Exchange) (ev : Event) (slot : Fin 64) (f a : FieldCount) (i : PunchId) (x : Punch)
    (at_ : Nat) (done : Punch) (bytes : List Byte), s.ready → s.memoryOk → s.slotHeld slot →
    s.engine.working = some ev → s.engine.results.reached.isSome = true →
    (s.deck n).link.exchange = some e → e.requester = .engine → e.live = true → e.phase ≠ .sending →
    e.punch = some i → e.command.isMotion = true → e.command.isSeek = false →
    s.engine.punches.get i = some x → x.status = .begun → x.actual = some a → done = { x with status := .taken } →
    at_ = s.eventSlot slot + (match i with | .video => 44 | .audio => 49 | .out => 54) →
    bytes = halfOfField x.planned ++ halfOfField a ++ [byte (min 255 (fieldDiff a x.planned).toNat)] →
    v = (s.onLink n fun l => { l with judged := none, exchange := none, failures := 0, state := l.state.heard }) →
    ((s.deck n).link.judged = some (.valid e.tag .taken, f) → i ≠ .out →
      ((∀ j y, j ≠ .out → s.engine.punches.get j = some y → y.status ≠ .taken) →
        (s.engine.state = .synced → ∃ u : State, exec (.replyTaken n) s = .next
            (if s.log.logEdits = true then
              u.appendLog ⟨3, some ev.recorder, s.timeline.F, addrOf ev.recordKind ev.recordIn, some ev.recordKind,
                (s.deck ev.recorder).tracker.quality, slot, 0⟩
            else u).settleDecks ∧
          u = { v with
            mem := u.mem
            iface := { s.iface with pending := s.iface.pending.set .editProgress true }
            engine := { s.engine with
              state := .recording, punches := s.engine.punches.set i (some done)
              results := { s.engine.results with reached := some .recording } }
            generator := { s.generator with recordTally := true } } ∧
          u.mem.read (s.eventSlot slot + 30) = 6 ∧ u.mem.load at_ 5 = bytes ∧
          s.sameOutside u (s.eventSlot slot + 30) 34) ∧
        (s.engine.state = .ending → ∃ u : State, exec (.replyTaken n) s = .next
            (if s.log.logEdits = true then
              u.appendLog ⟨3, some ev.recorder, s.timeline.F, addrOf ev.recordKind ev.recordIn, some ev.recordKind,
                (s.deck ev.recorder).tracker.quality, slot, 0⟩
            else u).settleDecks ∧
          u = { v with
            mem := u.mem
            engine := { s.engine with punches := s.engine.punches.set i (some done) }
            generator := { s.generator with recordTally := true } } ∧
          u.mem.load at_ 5 = bytes ∧ s.sameOutside u (s.eventSlot slot + 42) 22) ∧
        (s.engine.state = .aborting → exec (.replyTaken n) s = .next
          ({ v with
            engine := { s.engine with punches := s.engine.punches.set i (some done) }
            generator := { s.generator with recordTally := true } }).settleDecks)) ∧
      ((∃ j y, j ≠ .out ∧ s.engine.punches.get j = some y ∧ y.status = .taken) → s.engine.state = .recording →
        ∃ u : State, exec (.replyTaken n) s = .next u.settleDecks ∧
          u = { v with mem := u.mem, engine := { s.engine with punches := s.engine.punches.set i (some done) } } ∧
          u.mem.load at_ 5 = bytes ∧ s.sameOutside u (s.eventSlot slot + 42) 22)) ∧
    (∀ r, (s.deck n).link.judged = some (.valid e.tag (.refused r), f) → i ≠ .out →
      (s.engine.state = .synced ∨ s.engine.state = .recording) →
      ∃ u : State, exec (.replyRefused n) s = .next u.settleDecks ∧ u.engine.state = .aborting ∧
        u.engine.abortCode = some .recordRefused ∧
        (u.engine.punches.get i).map Punch.status = some .refused ∧ u.mem.load at_ 5 = bytes) ∧
    (∀ sch out, (s.deck n).link.judged = some (.valid e.tag .taken, f) → i = .out → s.engine.schedule = some sch →
      (s.engine.state = .recording ∨ s.engine.state = .postroll) →
      out = displaceFrame ev.recordKind ev.recordIn
        (ceilDiv (fieldDiff (fieldAdd a (2 * ev.editDelay)) sch.fIn) 2) →
      ∃ u : State, exec (.replyTaken n) s = .next
          ({ (if s.log.logEdits = true then
              u.appendLog ⟨4, some ev.recorder, s.timeline.F, addrOf ev.recordKind out, some ev.recordKind,
                (s.deck ev.recorder).tracker.quality, slot, 0⟩
            else u) with generator := { s.generator with recordTally := false } }).settleDecks ∧
        u = { v with
          mem := u.mem
          engine := { s.engine with
            punches := s.engine.punches.set .out (some done)
            results := { s.engine.results with actualOut := some out } } } ∧
        u.mem.load at_ 5 = bytes ∧
        u.mem.load (s.eventSlot slot + 59) 5 = addrBytes (addrOf ev.recordKind out) ++ [byte ev.recordKind.flag] ∧
        s.sameOutside u (s.eventSlot slot + 42) 22)

/-- A PUNCH-IN still QUEUED three fields after its planned field is abandoned: it leaves the recorder's queue, its results
are written with its planned field, not sent, no actual field and no lateness, and in SYNCED or RECORDING the event aborts
with PUNCH_LATE (R136, R143, R195). -/
def Obligations.LatePunchIsAbandoned : Prop :=
  ∀ (s : State) (p : PunchId) (x : Punch) (ev : Event) (slot : Fin 64), s.ready → s.linksBusy → s.memoryOk →
    s.slotHeld slot → s.engine.working = some ev → p ≠ .out → s.engine.punches.get p = some x → x.status = .queued →
    s.timeline.F = fieldAdd x.planned 3 → s.engine.results.reached.isSome = true →
    (s.engine.state = .synced ∨ s.engine.state = .recording) → s.noEarlierAct (.abandon p) → s.engine.claims.Nodup →
    ∃ t, exec (.punchAbandoned p) s = .next t ∧ t.engine.state = .aborting ∧ t.engine.abortCode = some .punchLate ∧
      (t.engine.punches.get p).map Punch.status = some .abandoned ∧
      (∀ n ∈ s.engine.claims, ∀ r ∈ (t.deck n).arbiter.engineQueue, r.command = .halt ∨ r.command = .punchOut 15) ∧
      (∀ n, s.sidesKept t n) ∧ s.unitsKept t ∧
      s.sameOutside t (s.eventSlot slot + 42) 22 ∧ t.standing = s.standing ∧
      (x.actual = none →
        t.mem.load (s.eventSlot slot + (match p with | .video => 44 | .audio => 49 | .out => 54)) 5 =
          halfOfField x.planned ++ [0, 0, 0] ∧
        (p = .video → (t.mem.read (s.eventSlot slot + 42))[0] = false) ∧
        (p = .audio → (t.mem.read (s.eventSlot slot + 42))[1] = false))

/-- At F_in a REHEARSE event enters RECORDING from SYNCED and raises EDIT_PROGRESS (R138). At F_out the chase of each
claimed deck ends, its trim slot emptied (R107), and the engine enters POSTROLL; at F_end it enters ENDING with a HALT
queued to each claimed deck and the claim set awaited (R140). Each writes its reached state (R125). -/
def Obligations.RecordInOutAndEndFollowTheSchedule : Prop :=
  (∀ (s : State) (ev : Event) (slot : Fin 64), s.ready → s.linksBusy → s.slotHeld slot → s.engine.working = some ev →
     ev.perform = false → s.engine.state = .synced → s.engine.results.reached.isSome = true →
     s.atField Schedule.fIn = true → s.noEarlierAct .rehearseIn →
     exec .rehearseRecordIn s = .next
       ((({ s with mem := s.mem.store (s.eventSlot slot + 30) [6] }.onEngine fun e =>
         { e with state := .recording, results := { e.results with reached := some .recording } }).raise .editProgress))) ∧
  (∀ (s : State) (slot : Fin 64), s.ready → s.linksBusy → s.slotHeld slot → s.engine.claims.Nodup →
     s.engine.results.reached.isSome = true →
     ((s.engine.state = .synced ∨ s.engine.state = .recording) → s.atField Schedule.fOut = true →
       s.noEarlierAct .recordOut →
       ∃ t, exec .recordOut s = .next t ∧ t.engine.state = .postroll ∧
         t.engine.results.reached = some .postroll ∧ t.engine.claims = s.engine.claims ∧
         (∀ n ∈ s.engine.claims, (t.deck n).chase.state = .off ∧
           (t.deck n).arbiter =
             (if (s.deck n).chase.state = .off then (s.deck n).arbiter
              else { (s.deck n).arbiter with trim := none })) ∧
         (∀ n, n ∉ s.engine.claims → t.deck n = s.deck n) ∧
         (∀ n, s.sidesKept t n) ∧ t.generator = s.generator ∧ s.unitsKept t ∧
         t.mem = s.mem.store (s.eventSlot slot + 30) [7] ∧ t.standing = s.standing) ∧
     (s.engine.state = .postroll → s.atField Schedule.fEnd = true → s.noEarlierAct .endPostroll →
       s.engine.claims ≠ [] → (∀ n, (s.deck n).arbiter.engineQueue.length < 4) →
       ∃ t, exec .endOfPostroll s = .next t ∧ t.engine.state = .ending ∧ t.engine.results.reached = some .ending ∧
         t.engine.haltsAwaited = s.engine.claims ∧ t.engine.claims = s.engine.claims ∧
         (∀ n ∈ s.engine.claims, (t.deck n).arbiter.engineQueue =
           (s.deck n).arbiter.engineQueue ++ [⟨.halt, true, none⟩]) ∧
         (∀ n, n ∉ s.engine.claims → t.deck n = s.deck n) ∧
         (∀ n, s.sidesKept t n) ∧ t.generator = s.generator ∧ s.unitsKept t ∧
         t.mem = s.mem.store (s.eventSlot slot + 30) [8] ∧ t.standing = s.standing))

/-- A completion that failed is made again after a frame boundary: the abort code or the end fault, the event number and
FAULTED are written, EDIT_FAULT is raised, the claims are released, the generator rests with idle frames, and the engine
is HELD (R141, R145). The end of the engine's HALT in ENDING takes its deck from the halts awaited, a refusal setting the end
fault (R130, R141); the last one, the PUNCH-OUT ended and no end fault held, completes the event DONE: ENDING, no fault, the
completion field, the event number and DONE written, EDIT_DONE raised, the claims released, the generator at rest, and the
engine IDLE with a take, which finds nothing POSTED here (R115, R141). That a completion to be made again is noted in the
state, and the row does nothing with none, is log entry 6. -/
def Obligations.EventsComplete : Prop :=
  (∀ s : State, s.ready → s.engine.retryDue = false → exec .completionRetry s = .next s) ∧
  (∀ (s : State) (slot : Fin 64) (ev : Event) (code : FaultCode), s.ready → s.linksBusy → s.memoryOk →
    s.slotHeld slot → s.engine.working = some ev → s.engine.retryDue = true → s.engine.completionFailed = true →
    ((s.engine.state = .aborting ∧ s.engine.abortCode = some code) ∨
      (s.engine.state ≠ .aborting ∧ s.engine.endFault = some code)) →
    ∃ t, exec .completionRetry s = .next t ∧ t.engine.state = .held ∧ t.engine.claims = [] ∧
      t.engine.working = none ∧ t.engine.takenSlot = none ∧ t.engine.nextEvent = s.engine.nextEvent ∧
      t.iface.pending.get .editFault = true ∧ t.generator.state = .rest ∧ t.generator.content = .idle ∧
      t.generator.recordTally = false ∧
      t.mem.read (s.eventSlot slot) = 4 ∧ t.mem.load (s.eventSlot slot + 2) 2 = half ev.number ∧
      t.mem.read (s.eventSlot slot + 31) = byte code.num ∧
      t.mem.load (s.eventSlot slot + 34) 2 = halfOfField s.timeline.F ∧
      (∀ n, s.sidesKept t n ∧ (t.deck n).chase = (s.deck n).chase) ∧ s.unitsKept t ∧
      s.sameOutside t (s.eventSlot slot) 64 ∧ t.standing = s.standing) ∧
  (∀ (s : State) (n : Deck) (e : Exchange) (f : FieldCount), s.ready → s.engine.state = .ending →
    (s.deck n).link.exchange = some e → e.requester = .engine → e.live = true → e.phase ≠ .sending → e.punch = none →
    e.command = .halt → (∀ h ∈ (s.deck n).list.queue, h.status ≠ .engine) → s.engine.completionFailed = false →
    ((s.engine.haltsAwaited.erase n ≠ [] ∨ ∃ x, s.engine.punches.out = some x ∧ (x.status = .queued ∨ x.status = .begun)) →
      ((s.deck n).link.judged = some (.valid e.tag .taken, f) → exec (.replyTaken n) s = .next
        ((s.onLink n fun l =>
          { l with judged := none, exchange := none, failures := 0, state := l.state.heard }).onEngine fun g =>
            { g with haltOutcome := g.haltOutcome.set n (some .taken), haltsAwaited := g.haltsAwaited.erase n }
          ).settleDecks) ∧
      (∀ r, (s.deck n).link.judged = some (.valid e.tag (.refused r), f) → exec (.replyRefused n) s = .next
        ((s.onLink n fun l =>
          { l with judged := none, exchange := none, failures := 0, state := l.state.heard }).onEngine fun g =>
            { g with
              haltOutcome := g.haltOutcome.set n (some (.refused r)), haltsAwaited := g.haltsAwaited.erase n
              endFault := if g.endFault = none then some .deckRefused else g.endFault }).settleDecks)) ∧
    (∀ (slot : Fin 64) (ev : Event), s.engine.haltsAwaited.erase n = [] →
      (∀ x, s.engine.punches.out = some x → x.status ≠ .queued ∧ x.status ≠ .begun) → s.engine.endFault = none →
      s.memoryOk → s.slotHeld slot → s.engine.working = some ev →
      s.eventSlot s.engine.nextEvent + 64 ≤ s.iface.limit → s.mem.read (s.eventSlot s.engine.nextEvent) ≠ 1 →
      (s.deck n).link.judged = some (.valid e.tag .taken, f) →
      ∃ u : State, exec (.replyTaken n) s = .next u.settleDecks ∧ u.engine.state = .idle ∧ u.engine.claims = [] ∧
        u.engine.working = none ∧ u.engine.takenSlot = none ∧ u.engine.nextEvent = s.engine.nextEvent ∧
        u.iface.pending.get .editDone = true ∧ u.generator.state = .rest ∧ u.generator.content = .idle ∧
        u.generator.recordTally = false ∧
        u.mem.read (s.eventSlot slot) = 3 ∧ u.mem.load (s.eventSlot slot + 2) 2 = half ev.number ∧
        u.mem.read (s.eventSlot slot + 30) = 8 ∧ u.mem.read (s.eventSlot slot + 31) = 0 ∧
        u.mem.load (s.eventSlot slot + 34) 2 = halfOfField s.timeline.F ∧
        s.sameOutside u (s.eventSlot slot) 64 ∧ u.standing = s.standing))

/-! ## What holds of every command -/

/-- The settling of the command lists and arbiters after a command leaves what stands, the trackers, the receivers, the
marks, the log, the GPI unit and, of each link, its state, failure count, assembly, last STATE and seek timer as they
were, and no deck about to enter DOWN that was not. -/
def Obligations.SettlingLeavesTheRest : Prop :=
  ∀ s : State, s.settleDecks.standing = s.standing ∧ s.settleDecks.marks = s.marks ∧ s.settleDecks.log = s.log ∧
    s.settleDecks.gpi = s.gpi ∧
    ∀ n, (s.settleDecks.deck n).tracker = (s.deck n).tracker ∧ (s.settleDecks.deck n).rx = (s.deck n).rx ∧
      (s.settleDecks.deck n).statusWritten = (s.deck n).statusWritten ∧
      (s.settleDecks.deck n).link.state = (s.deck n).link.state ∧
      (s.settleDecks.deck n).link.failures = (s.deck n).link.failures ∧
      (s.settleDecks.deck n).link.assembly = (s.deck n).link.assembly ∧
      (s.settleDecks.deck n).link.lastState = (s.deck n).link.lastState ∧
      (s.settleDecks.deck n).link.seekTimer = (s.deck n).link.seekTimer ∧
      (s.settleDecks.deck n).link.downDue = (s.deck n).link.downDue

/-- Suite memory after reset is in its canonical form. -/
def Obligations.ResetMemoryIsCanonical : Prop := State.reset.memoryOk

/-- Every step keeps suite memory in its canonical form, whatever the state. -/
def Obligations.StepKeepsMemoryCanonical : Prop :=
  ∀ s t : State, s.memoryOk → step s = .next t → t.memoryOk

/-- No command changes a byte of suite memory at or above the limit that TOPMEM sets: of the old limit and the new one,
the higher, for a write of TOPMEM itself (R182, R193). -/
def Obligations.NothingIsWrittenAboveTheLimit : Prop :=
  ∀ (c : Instr) (s t : State) (a : Nat), exec c s = .next t → s.iface.limit ≤ a → t.iface.limit ≤ a →
    t.mem.read a = s.mem.read a

/-- Every command completes and leaves the queue of commands alone. A pending cause stays pending except by a read of
CAUSE or a reset, and the severity of the device capture falls only by the host's clear or a reset (R184, R191).
That no command stops in a fault or a refusal is the model's reading (log entry 26). -/
def Obligations.EveryCommandCompletesAndLosesNothing : Prop :=
  ∀ (c : Instr) (s : State), ∃ t, exec c s = .next t ∧ t.pending = s.pending ∧
    (c ≠ .powerOn → c ≠ .resetLine → c ≠ .restart →
      (c ≠ .causeRead → ∀ k, s.iface.pending.get k = true → t.iface.pending.get k = true) ∧
      (c ≠ .clearDeviceFault → s.iface.device.severity ≤ t.iface.device.severity))

/-! ## Arithmetic and contents -/

/-- Frame numbers and valid addresses of a kind convert into each other: every frame number below the day length has a
valid address whose frame number it is, and every valid address is the address of its frame number (R2, R3, R4). -/
def Obligations.AddressesAndFramesAgree : Prop :=
  ∀ k : Kind,
    (∀ n, n < k.day → (addrOf k n).valid k = true ∧ frameOf k (addrOf k n) = n) ∧
    (∀ a : Addr, a.valid k = true → frameOf k a < k.day ∧ addrOf k (frameOf k a) = a)

/-- The position of a transition of N = 2D fields: LINEAR rises by 1023 k / N rounded, S_CURVE by 1023 k² (3N − 2k) / N³
rounded (R156); either is 0 at first, 1023 at k = N, and never falls. The content at k fields from F_T: before it, and for a
single source always, the program source and the preset source of kind NONE; in a DISSOLVE or WIPE the mix or wipe at its
position; after it, and from F_T on for a CUT, the preset source in both places (R155, R156, R157). The field frame holds,
by Table 9-2, START, the sequence number, the program and preset inputs, the kind, the pattern, the position and a CHECK that
makes the sum of bytes 1 to 8 up to 255 (R150). The PROGRAM_TALLY of a deck and the RECORD_TALLY drive their outputs
(R159, R160, R173). -/
def Obligations.TransitionsContentAndTallies : Prop :=
  (∀ n k : Nat, 0 < n → k ≤ 2 * n →
    transitionPosition .linear (2 * n) k = (1023 * k + n) / (2 * n) ∧
    transitionPosition .sCurve (2 * n) k =
      (1023 * k ^ 2 * (3 * (2 * n) - 2 * k) + (2 * n) ^ 3 / 2) / (2 * n) ^ 3) ∧
  (∀ (curve : Curve) (n k : Nat), 0 < n → k < n →
    transitionPosition curve n 0 = 0 ∧ transitionPosition curve n k ≤ 1023 ∧
    transitionPosition curve n k ≤ transitionPosition curve n (k + 1) ∧ transitionPosition curve n n = 1023) ∧
  (∀ (g : GeneratorEvent) (f : FieldCount) (k : Int), k = fieldDiff f g.fT →
    ((g.twoSources = false ∨ k < 0) → g.content f = ⟨g.programSource, g.presetSource, .none, g.pattern, 0⟩) ∧
    (g.twoSources = true → 0 ≤ k →
      ((g.transition = .cut ∨ (g.n : Int) ≤ k) → g.content f = ⟨g.presetSource, g.presetSource, .none, g.pattern, 0⟩) ∧
      (k < g.n →
        (g.transition = .dissolve → g.content f =
          ⟨g.programSource, g.presetSource, .mix, g.pattern, transitionPosition g.curve g.n k.toNat⟩) ∧
        (g.transition = .wipe → g.content f =
          ⟨g.programSource, g.presetSource, .wipe, g.pattern, transitionPosition g.curve g.n k.toNat⟩)))) ∧
  (∀ (sequence : Byte) (c : Content), ∃ x : Byte,
    fieldFrame sequence c = [0x9A, sequence, BitVec.ofNat 8 c.program, BitVec.ofNat 8 c.preset,
      (match c.kind with
        | .idle => 0
        | .none => 1
        | .mix => 2
        | .wipe => 3),
      BitVec.ofNat 8 c.pattern, BitVec.ofNat 8 c.position, BitVec.ofNat 8 (c.position / 256), x] ∧
    (fieldFrame sequence c).tail.foldl (· + ·) 0 = 255) ∧
  (∀ (s : State) (l : Line) (d : Deck),
    (s.gpi.outputs.get l = .recordTally → s.outputActive l = s.generator.recordTally) ∧
    (s.gpi.outputs.get l = .programTally d → (s.outputActive l = true ↔
      (s.generator.content.kind ≠ .idle ∧ (s.deck d).settings.input = s.generator.content.program) ∨
      ((s.generator.content.kind = .mix ∨ s.generator.content.kind = .wipe) ∧
        (s.deck d).settings.input = s.generator.content.preset))))

end Statements
end

