-- ==== Sys2Proof/Laws/Memory.lean ====
section
/-!
SUPPORT. Suite memory as data: every operation keeps the canonical form, a byte written is the byte read, and every
other byte is left alone.
-/

namespace Sys2Proof.Machine

/-! ## Reading after a write -/

theorem Memory.read_erase_ne (m : Memory) {a b : Nat} (h : b ≠ a) : (Memory.erase a m).read b = m.read b := by
  induction m with
  | nil => rfl
  | cons e m ih =>
    obtain ⟨c, x⟩ := e
    by_cases hc : a = c
    · subst hc; simp [Memory.erase, Memory.read, h]
    · simp [Memory.erase, hc, Memory.read, ih]

theorem Memory.read_insert_self (m : Memory) (a : Nat) (x : Byte) : (Memory.insert a x m).read a = x := by
  induction m with
  | nil => simp [Memory.insert, Memory.read]
  | cons e m ih =>
    obtain ⟨c, y⟩ := e
    unfold Memory.insert
    split
    · simp [Memory.read]
    · split
      · simp [Memory.read]
      · next hc => simp [Memory.read, hc, ih]

theorem Memory.read_insert_ne (m : Memory) {a b : Nat} (x : Byte) (h : b ≠ a) :
    (Memory.insert a x m).read b = m.read b := by
  induction m with
  | nil => simp [Memory.insert, Memory.read, h]
  | cons e m ih =>
    obtain ⟨c, y⟩ := e
    unfold Memory.insert
    split
    · simp [Memory.read, h]
    · split
      · next hc => subst hc; simp [Memory.read, h]
      · simp [Memory.read, ih]

/-- Below its lowest address a memory in canonical form reads as unwritten. -/
theorem Memory.read_below {m : Memory} {lo a : Nat} (hm : Memory.wfFrom lo m = true) (h : a < lo) :
    m.read a = Config.unwrittenByte := by
  induction m generalizing lo with
  | nil => rfl
  | cons e m ih =>
    obtain ⟨c, y⟩ := e
    simp only [Memory.wfFrom, Bool.and_eq_true, decide_eq_true_eq] at hm
    have hne : a ≠ c := by omega
    simp only [Memory.read, hne, if_false]
    exact ih hm.2 (by omega)

theorem Memory.wfFrom_mono {m : Memory} {lo lo' : Nat} (h : lo' ≤ lo) (hm : Memory.wfFrom lo m = true) :
    Memory.wfFrom lo' m = true := by
  cases m with
  | nil => rfl
  | cons e m =>
    simp only [Memory.wfFrom, Bool.and_eq_true, decide_eq_true_eq] at hm ⊢
    exact ⟨⟨by omega, hm.1.2⟩, hm.2⟩

theorem Memory.read_erase_self {m : Memory} {lo : Nat} (a : Nat) (hm : Memory.wfFrom lo m = true) :
    (Memory.erase a m).read a = Config.unwrittenByte := by
  induction m generalizing lo with
  | nil => rfl
  | cons e m ih =>
    obtain ⟨c, y⟩ := e
    simp only [Memory.wfFrom, Bool.and_eq_true, decide_eq_true_eq] at hm
    by_cases hc : a = c
    · subst hc
      simp only [Memory.erase, if_true]
      exact Memory.read_below hm.2 (by omega)
    · simp only [Memory.erase, hc, if_false, Memory.read]
      exact ih hm.2

/-- The byte written is the byte read. -/
theorem Memory.read_write_self {m : Memory} (a : Nat) (x : Byte) (hm : m.wf = true) : (m.write a x).read a = x := by
  unfold Memory.write
  split
  · next h => rw [Memory.read_erase_self a hm, h]
  · exact Memory.read_insert_self m a x

/-- A write leaves every other byte alone. -/
theorem Memory.read_write_ne (m : Memory) {a b : Nat} (x : Byte) (h : b ≠ a) : (m.write a x).read b = m.read b := by
  unfold Memory.write
  split
  · exact Memory.read_erase_ne m h
  · exact Memory.read_insert_ne m x h

/-! ## The canonical form -/

theorem Memory.wfFrom_erase {m : Memory} {lo : Nat} (a : Nat) (hm : Memory.wfFrom lo m = true) :
    Memory.wfFrom lo (Memory.erase a m) = true := by
  induction m generalizing lo with
  | nil => rfl
  | cons e m ih =>
    obtain ⟨c, y⟩ := e
    simp only [Memory.wfFrom, Bool.and_eq_true, decide_eq_true_eq] at hm
    by_cases hc : a = c
    · simp only [Memory.erase, hc, if_true]
      exact Memory.wfFrom_mono (by omega) hm.2
    · simp only [Memory.erase, hc, if_false, Memory.wfFrom, Bool.and_eq_true, decide_eq_true_eq]
      exact ⟨hm.1, ih hm.2⟩

theorem Memory.wfFrom_insert {m : Memory} {lo : Nat} (a : Nat) {x : Byte} (ha : lo ≤ a) (hx : x ≠ Config.unwrittenByte)
    (hm : Memory.wfFrom lo m = true) : Memory.wfFrom lo (Memory.insert a x m) = true := by
  induction m generalizing lo with
  | nil => simp [Memory.insert, Memory.wfFrom, ha, hx]
  | cons e m ih =>
    obtain ⟨c, y⟩ := e
    simp only [Memory.wfFrom, Bool.and_eq_true, decide_eq_true_eq, bne_iff_ne, ne_eq] at hm
    unfold Memory.insert
    split
    · next h => simp [Memory.wfFrom, ha, hx, hm.1.2, hm.2]; omega
    · split
      · next h => subst h; simp [Memory.wfFrom, ha, hx, hm.2]
      · next h h' =>
        simp only [Memory.wfFrom, Bool.and_eq_true, decide_eq_true_eq, bne_iff_ne, ne_eq]
        exact ⟨hm.1, ih (by omega) hm.2⟩

/-- A write keeps the canonical form. -/
theorem Memory.wf_write {m : Memory} (a : Nat) (x : Byte) (hm : m.wf = true) : (m.write a x).wf = true := by
  unfold Memory.write
  split
  · exact Memory.wfFrom_erase a hm
  · next h => exact Memory.wfFrom_insert a (Nat.zero_le _) h hm

/-- A store of bytes keeps the canonical form. -/
theorem Memory.wf_store {m : Memory} (a : Nat) (bs : List Byte) (hm : m.wf = true) : (m.store a bs).wf = true := by
  induction bs generalizing m a with
  | nil => exact hm
  | cons x xs ih => exact ih (a + 1) (Memory.wf_write a x hm)

/-! ## Stores of several bytes -/

/-- A store leaves every byte outside its range alone. -/
theorem Memory.read_store_outside (m : Memory) (a : Nat) (bs : List Byte) {b : Nat} (h : b < a ∨ a + bs.length ≤ b) :
    (m.store a bs).read b = m.read b := by
  induction bs generalizing m a with
  | nil => rfl
  | cons x xs ih =>
    simp only [List.length_cons] at h
    simp only [Memory.store]
    rw [ih (m.write a x) (a + 1) (by omega), Memory.read_write_ne m x (by omega)]

/-- Byte `i` of a store is read back. -/
theorem Memory.read_store_inside {m : Memory} (a : Nat) (bs : List Byte) (hm : m.wf = true) {i : Nat}
    (h : i < bs.length) : (m.store a bs).read (a + i) = bs[i] := by
  induction bs generalizing m a i with
  | nil => simp at h
  | cons x xs ih =>
    simp only [Memory.store]
    cases i with
    | zero =>
      rw [Memory.read_store_outside _ _ _ (by omega)]
      exact Memory.read_write_self a x hm
    | succ i =>
      have := ih (a + 1) (Memory.wf_write a x hm) (i := i) (by simpa using h)
      rw [show a + (i + 1) = a + 1 + i by omega, this]
      simp

/-- A load has the bytes read one by one. -/
theorem Memory.load_get (m : Memory) (a n i : Nat) (h : i < n) : (m.load a n)[i]? = some (m.read (a + i)) := by
  simp [Memory.load, h]

@[simp] theorem Memory.length_load (m : Memory) (a n : Nat) : (m.load a n).length = n := by simp [Memory.load]

end Sys2Proof.Machine
end

