-- ==== Sys2Proof/Laws/State.lean ====
section
/-!
SUPPORT. Reading a field of the state after an update of one block: one lemma per field per update, so that no proof
unfolds a record update.
-/

namespace Sys2Proof.Machine

/-! ## Six decks, eight lines, thirteen causes -/

@[simp] theorem Six.get_set_self {α : Type} (v : Six α) (n : Deck) (x : α) : (v.set n x).get n = x := by
  cases n <;> rfl

theorem Six.get_set_ne {α : Type} (v : Six α) {n m : Deck} (x : α) (h : m ≠ n) : (v.set n x).get m = v.get m := by
  cases n <;> cases m <;> first | rfl | exact absurd rfl h

theorem Six.get_set {α : Type} (v : Six α) (n m : Deck) (x : α) :
    (v.set n x).get m = if m = n then x else v.get m := by
  cases n <;> cases m <;> rfl

theorem Six.ext_get {α : Type} {v w : Six α} (h : ∀ n, v.get n = w.get n) : v = w := by
  cases v; cases w
  simp only [Six.mk.injEq]
  exact ⟨h .d0, h .d1, h .d2, h .d3, h .d4, h .d5⟩

@[simp] theorem Six.set_get {α : Type} (v : Six α) (n : Deck) : v.set n (v.get n) = v := by
  cases n <;> rfl

@[simp] theorem Six.get_all {α : Type} (x : α) (n : Deck) : (Six.all x).get n = x := by
  cases n <;> rfl

@[simp] theorem Eight.get_set_self {α : Type} (v : Eight α) (l : Line) (x : α) : (v.set l x).get l = x := by
  cases l <;> rfl

theorem Eight.get_set_ne {α : Type} (v : Eight α) {l k : Line} (x : α) (h : k ≠ l) : (v.set l x).get k = v.get k := by
  cases l <;> cases k <;> first | rfl | exact absurd rfl h

@[simp] theorem PerCause.get_set_self {α : Type} (v : PerCause α) (c : Cause) (x : α) : (v.set c x).get c = x := by
  cases c <;> rfl

theorem PerCause.get_set_ne {α : Type} (v : PerCause α) {c d : Cause} (x : α) (h : d ≠ c) :
    (v.set c x).get d = v.get d := by
  cases c <;> cases d <;> first | rfl | exact absurd rfl h

/-! ## Updates of one block of the whole part -/

@[simp] theorem State.onIface_pending (s : State) (f : Interface → Interface) : (s.onIface f).pending = s.pending := rfl
@[simp] theorem State.onIface_resetHeld (s : State) (f : Interface → Interface) : (s.onIface f).resetHeld = s.resetHeld := rfl
@[simp] theorem State.onIface_causeRead (s : State) (f : Interface → Interface) : (s.onIface f).causeRead = s.causeRead := rfl
@[simp] theorem State.onIface_mem (s : State) (f : Interface → Interface) : (s.onIface f).mem = s.mem := rfl
@[simp] theorem State.onIface_iface (s : State) (f : Interface → Interface) : (s.onIface f).iface = f s.iface := rfl
@[simp] theorem State.onIface_timeline (s : State) (f : Interface → Interface) : (s.onIface f).timeline = s.timeline := rfl
@[simp] theorem State.onIface_suite (s : State) (f : Interface → Interface) : (s.onIface f).suite = s.suite := rfl
@[simp] theorem State.onIface_decks (s : State) (f : Interface → Interface) : (s.onIface f).decks = s.decks := rfl
@[simp] theorem State.onIface_engine (s : State) (f : Interface → Interface) : (s.onIface f).engine = s.engine := rfl
@[simp] theorem State.onIface_generator (s : State) (f : Interface → Interface) : (s.onIface f).generator = s.generator := rfl
@[simp] theorem State.onIface_ep (s : State) (f : Interface → Interface) : (s.onIface f).ep = s.ep := rfl
@[simp] theorem State.onIface_marks (s : State) (f : Interface → Interface) : (s.onIface f).marks = s.marks := rfl
@[simp] theorem State.onIface_gpi (s : State) (f : Interface → Interface) : (s.onIface f).gpi = s.gpi := rfl
@[simp] theorem State.onIface_log (s : State) (f : Interface → Interface) : (s.onIface f).log = s.log := rfl
@[simp] theorem State.onIface_deck (s : State) (f : Interface → Interface) (n : Deck) : (s.onIface f).deck n = s.deck n := rfl

@[simp] theorem State.onEngine_pending (s : State) (f : Engine → Engine) : (s.onEngine f).pending = s.pending := rfl
@[simp] theorem State.onEngine_resetHeld (s : State) (f : Engine → Engine) : (s.onEngine f).resetHeld = s.resetHeld := rfl
@[simp] theorem State.onEngine_causeRead (s : State) (f : Engine → Engine) : (s.onEngine f).causeRead = s.causeRead := rfl
@[simp] theorem State.onEngine_mem (s : State) (f : Engine → Engine) : (s.onEngine f).mem = s.mem := rfl
@[simp] theorem State.onEngine_iface (s : State) (f : Engine → Engine) : (s.onEngine f).iface = s.iface := rfl
@[simp] theorem State.onEngine_timeline (s : State) (f : Engine → Engine) : (s.onEngine f).timeline = s.timeline := rfl
@[simp] theorem State.onEngine_suite (s : State) (f : Engine → Engine) : (s.onEngine f).suite = s.suite := rfl
@[simp] theorem State.onEngine_decks (s : State) (f : Engine → Engine) : (s.onEngine f).decks = s.decks := rfl
@[simp] theorem State.onEngine_engine (s : State) (f : Engine → Engine) : (s.onEngine f).engine = f s.engine := rfl
@[simp] theorem State.onEngine_generator (s : State) (f : Engine → Engine) : (s.onEngine f).generator = s.generator := rfl
@[simp] theorem State.onEngine_ep (s : State) (f : Engine → Engine) : (s.onEngine f).ep = s.ep := rfl
@[simp] theorem State.onEngine_marks (s : State) (f : Engine → Engine) : (s.onEngine f).marks = s.marks := rfl
@[simp] theorem State.onEngine_gpi (s : State) (f : Engine → Engine) : (s.onEngine f).gpi = s.gpi := rfl
@[simp] theorem State.onEngine_log (s : State) (f : Engine → Engine) : (s.onEngine f).log = s.log := rfl
@[simp] theorem State.onEngine_deck (s : State) (f : Engine → Engine) (n : Deck) : (s.onEngine f).deck n = s.deck n := rfl

@[simp] theorem State.onGenerator_pending (s : State) (f : Generator → Generator) : (s.onGenerator f).pending = s.pending := rfl
@[simp] theorem State.onGenerator_resetHeld (s : State) (f : Generator → Generator) : (s.onGenerator f).resetHeld = s.resetHeld := rfl
@[simp] theorem State.onGenerator_causeRead (s : State) (f : Generator → Generator) : (s.onGenerator f).causeRead = s.causeRead := rfl
@[simp] theorem State.onGenerator_mem (s : State) (f : Generator → Generator) : (s.onGenerator f).mem = s.mem := rfl
@[simp] theorem State.onGenerator_iface (s : State) (f : Generator → Generator) : (s.onGenerator f).iface = s.iface := rfl
@[simp] theorem State.onGenerator_timeline (s : State) (f : Generator → Generator) : (s.onGenerator f).timeline = s.timeline := rfl
@[simp] theorem State.onGenerator_suite (s : State) (f : Generator → Generator) : (s.onGenerator f).suite = s.suite := rfl
@[simp] theorem State.onGenerator_decks (s : State) (f : Generator → Generator) : (s.onGenerator f).decks = s.decks := rfl
@[simp] theorem State.onGenerator_engine (s : State) (f : Generator → Generator) : (s.onGenerator f).engine = s.engine := rfl
@[simp] theorem State.onGenerator_generator (s : State) (f : Generator → Generator) : (s.onGenerator f).generator = f s.generator := rfl
@[simp] theorem State.onGenerator_ep (s : State) (f : Generator → Generator) : (s.onGenerator f).ep = s.ep := rfl
@[simp] theorem State.onGenerator_marks (s : State) (f : Generator → Generator) : (s.onGenerator f).marks = s.marks := rfl
@[simp] theorem State.onGenerator_gpi (s : State) (f : Generator → Generator) : (s.onGenerator f).gpi = s.gpi := rfl
@[simp] theorem State.onGenerator_log (s : State) (f : Generator → Generator) : (s.onGenerator f).log = s.log := rfl
@[simp] theorem State.onGenerator_deck (s : State) (f : Generator → Generator) (n : Deck) : (s.onGenerator f).deck n = s.deck n := rfl

@[simp] theorem State.onGpi_pending (s : State) (f : GpiUnit → GpiUnit) : (s.onGpi f).pending = s.pending := rfl
@[simp] theorem State.onGpi_resetHeld (s : State) (f : GpiUnit → GpiUnit) : (s.onGpi f).resetHeld = s.resetHeld := rfl
@[simp] theorem State.onGpi_causeRead (s : State) (f : GpiUnit → GpiUnit) : (s.onGpi f).causeRead = s.causeRead := rfl
@[simp] theorem State.onGpi_mem (s : State) (f : GpiUnit → GpiUnit) : (s.onGpi f).mem = s.mem := rfl
@[simp] theorem State.onGpi_iface (s : State) (f : GpiUnit → GpiUnit) : (s.onGpi f).iface = s.iface := rfl
@[simp] theorem State.onGpi_timeline (s : State) (f : GpiUnit → GpiUnit) : (s.onGpi f).timeline = s.timeline := rfl
@[simp] theorem State.onGpi_suite (s : State) (f : GpiUnit → GpiUnit) : (s.onGpi f).suite = s.suite := rfl
@[simp] theorem State.onGpi_decks (s : State) (f : GpiUnit → GpiUnit) : (s.onGpi f).decks = s.decks := rfl
@[simp] theorem State.onGpi_engine (s : State) (f : GpiUnit → GpiUnit) : (s.onGpi f).engine = s.engine := rfl
@[simp] theorem State.onGpi_generator (s : State) (f : GpiUnit → GpiUnit) : (s.onGpi f).generator = s.generator := rfl
@[simp] theorem State.onGpi_ep (s : State) (f : GpiUnit → GpiUnit) : (s.onGpi f).ep = s.ep := rfl
@[simp] theorem State.onGpi_marks (s : State) (f : GpiUnit → GpiUnit) : (s.onGpi f).marks = s.marks := rfl
@[simp] theorem State.onGpi_gpi (s : State) (f : GpiUnit → GpiUnit) : (s.onGpi f).gpi = f s.gpi := rfl
@[simp] theorem State.onGpi_log (s : State) (f : GpiUnit → GpiUnit) : (s.onGpi f).log = s.log := rfl
@[simp] theorem State.onGpi_deck (s : State) (f : GpiUnit → GpiUnit) (n : Deck) : (s.onGpi f).deck n = s.deck n := rfl

@[simp] theorem State.onMarks_pending (s : State) (f : MarkUnit → MarkUnit) : (s.onMarks f).pending = s.pending := rfl
@[simp] theorem State.onMarks_resetHeld (s : State) (f : MarkUnit → MarkUnit) : (s.onMarks f).resetHeld = s.resetHeld := rfl
@[simp] theorem State.onMarks_causeRead (s : State) (f : MarkUnit → MarkUnit) : (s.onMarks f).causeRead = s.causeRead := rfl
@[simp] theorem State.onMarks_mem (s : State) (f : MarkUnit → MarkUnit) : (s.onMarks f).mem = s.mem := rfl
@[simp] theorem State.onMarks_iface (s : State) (f : MarkUnit → MarkUnit) : (s.onMarks f).iface = s.iface := rfl
@[simp] theorem State.onMarks_timeline (s : State) (f : MarkUnit → MarkUnit) : (s.onMarks f).timeline = s.timeline := rfl
@[simp] theorem State.onMarks_suite (s : State) (f : MarkUnit → MarkUnit) : (s.onMarks f).suite = s.suite := rfl
@[simp] theorem State.onMarks_decks (s : State) (f : MarkUnit → MarkUnit) : (s.onMarks f).decks = s.decks := rfl
@[simp] theorem State.onMarks_engine (s : State) (f : MarkUnit → MarkUnit) : (s.onMarks f).engine = s.engine := rfl
@[simp] theorem State.onMarks_generator (s : State) (f : MarkUnit → MarkUnit) : (s.onMarks f).generator = s.generator := rfl
@[simp] theorem State.onMarks_ep (s : State) (f : MarkUnit → MarkUnit) : (s.onMarks f).ep = s.ep := rfl
@[simp] theorem State.onMarks_marks (s : State) (f : MarkUnit → MarkUnit) : (s.onMarks f).marks = f s.marks := rfl
@[simp] theorem State.onMarks_gpi (s : State) (f : MarkUnit → MarkUnit) : (s.onMarks f).gpi = s.gpi := rfl
@[simp] theorem State.onMarks_log (s : State) (f : MarkUnit → MarkUnit) : (s.onMarks f).log = s.log := rfl
@[simp] theorem State.onMarks_deck (s : State) (f : MarkUnit → MarkUnit) (n : Deck) : (s.onMarks f).deck n = s.deck n := rfl

@[simp] theorem State.onLog_pending (s : State) (f : LogWriter → LogWriter) : (s.onLog f).pending = s.pending := rfl
@[simp] theorem State.onLog_resetHeld (s : State) (f : LogWriter → LogWriter) : (s.onLog f).resetHeld = s.resetHeld := rfl
@[simp] theorem State.onLog_causeRead (s : State) (f : LogWriter → LogWriter) : (s.onLog f).causeRead = s.causeRead := rfl
@[simp] theorem State.onLog_mem (s : State) (f : LogWriter → LogWriter) : (s.onLog f).mem = s.mem := rfl
@[simp] theorem State.onLog_iface (s : State) (f : LogWriter → LogWriter) : (s.onLog f).iface = s.iface := rfl
@[simp] theorem State.onLog_timeline (s : State) (f : LogWriter → LogWriter) : (s.onLog f).timeline = s.timeline := rfl
@[simp] theorem State.onLog_suite (s : State) (f : LogWriter → LogWriter) : (s.onLog f).suite = s.suite := rfl
@[simp] theorem State.onLog_decks (s : State) (f : LogWriter → LogWriter) : (s.onLog f).decks = s.decks := rfl
@[simp] theorem State.onLog_engine (s : State) (f : LogWriter → LogWriter) : (s.onLog f).engine = s.engine := rfl
@[simp] theorem State.onLog_generator (s : State) (f : LogWriter → LogWriter) : (s.onLog f).generator = s.generator := rfl
@[simp] theorem State.onLog_ep (s : State) (f : LogWriter → LogWriter) : (s.onLog f).ep = s.ep := rfl
@[simp] theorem State.onLog_marks (s : State) (f : LogWriter → LogWriter) : (s.onLog f).marks = s.marks := rfl
@[simp] theorem State.onLog_gpi (s : State) (f : LogWriter → LogWriter) : (s.onLog f).gpi = s.gpi := rfl
@[simp] theorem State.onLog_log (s : State) (f : LogWriter → LogWriter) : (s.onLog f).log = f s.log := rfl
@[simp] theorem State.onLog_deck (s : State) (f : LogWriter → LogWriter) (n : Deck) : (s.onLog f).deck n = s.deck n := rfl

@[simp] theorem State.onTimeline_pending (s : State) (f : Timeline → Timeline) : (s.onTimeline f).pending = s.pending := rfl
@[simp] theorem State.onTimeline_resetHeld (s : State) (f : Timeline → Timeline) : (s.onTimeline f).resetHeld = s.resetHeld := rfl
@[simp] theorem State.onTimeline_causeRead (s : State) (f : Timeline → Timeline) : (s.onTimeline f).causeRead = s.causeRead := rfl
@[simp] theorem State.onTimeline_mem (s : State) (f : Timeline → Timeline) : (s.onTimeline f).mem = s.mem := rfl
@[simp] theorem State.onTimeline_iface (s : State) (f : Timeline → Timeline) : (s.onTimeline f).iface = s.iface := rfl
@[simp] theorem State.onTimeline_timeline (s : State) (f : Timeline → Timeline) : (s.onTimeline f).timeline = f s.timeline := rfl
@[simp] theorem State.onTimeline_suite (s : State) (f : Timeline → Timeline) : (s.onTimeline f).suite = s.suite := rfl
@[simp] theorem State.onTimeline_decks (s : State) (f : Timeline → Timeline) : (s.onTimeline f).decks = s.decks := rfl
@[simp] theorem State.onTimeline_engine (s : State) (f : Timeline → Timeline) : (s.onTimeline f).engine = s.engine := rfl
@[simp] theorem State.onTimeline_generator (s : State) (f : Timeline → Timeline) : (s.onTimeline f).generator = s.generator := rfl
@[simp] theorem State.onTimeline_ep (s : State) (f : Timeline → Timeline) : (s.onTimeline f).ep = s.ep := rfl
@[simp] theorem State.onTimeline_marks (s : State) (f : Timeline → Timeline) : (s.onTimeline f).marks = s.marks := rfl
@[simp] theorem State.onTimeline_gpi (s : State) (f : Timeline → Timeline) : (s.onTimeline f).gpi = s.gpi := rfl
@[simp] theorem State.onTimeline_log (s : State) (f : Timeline → Timeline) : (s.onTimeline f).log = s.log := rfl
@[simp] theorem State.onTimeline_deck (s : State) (f : Timeline → Timeline) (n : Deck) : (s.onTimeline f).deck n = s.deck n := rfl

/-! ## Updates of one deck -/

@[simp] theorem State.onDeck_pending (s : State) (n : Deck) (f : DeckUnit → DeckUnit) : (s.onDeck n f).pending = s.pending := rfl
@[simp] theorem State.onDeck_resetHeld (s : State) (n : Deck) (f : DeckUnit → DeckUnit) : (s.onDeck n f).resetHeld = s.resetHeld := rfl
@[simp] theorem State.onDeck_causeRead (s : State) (n : Deck) (f : DeckUnit → DeckUnit) : (s.onDeck n f).causeRead = s.causeRead := rfl
@[simp] theorem State.onDeck_mem (s : State) (n : Deck) (f : DeckUnit → DeckUnit) : (s.onDeck n f).mem = s.mem := rfl
@[simp] theorem State.onDeck_iface (s : State) (n : Deck) (f : DeckUnit → DeckUnit) : (s.onDeck n f).iface = s.iface := rfl
@[simp] theorem State.onDeck_timeline (s : State) (n : Deck) (f : DeckUnit → DeckUnit) : (s.onDeck n f).timeline = s.timeline := rfl
@[simp] theorem State.onDeck_suite (s : State) (n : Deck) (f : DeckUnit → DeckUnit) : (s.onDeck n f).suite = s.suite := rfl
@[simp] theorem State.onDeck_engine (s : State) (n : Deck) (f : DeckUnit → DeckUnit) : (s.onDeck n f).engine = s.engine := rfl
@[simp] theorem State.onDeck_generator (s : State) (n : Deck) (f : DeckUnit → DeckUnit) : (s.onDeck n f).generator = s.generator := rfl
@[simp] theorem State.onDeck_ep (s : State) (n : Deck) (f : DeckUnit → DeckUnit) : (s.onDeck n f).ep = s.ep := rfl
@[simp] theorem State.onDeck_marks (s : State) (n : Deck) (f : DeckUnit → DeckUnit) : (s.onDeck n f).marks = s.marks := rfl
@[simp] theorem State.onDeck_gpi (s : State) (n : Deck) (f : DeckUnit → DeckUnit) : (s.onDeck n f).gpi = s.gpi := rfl
@[simp] theorem State.onDeck_log (s : State) (n : Deck) (f : DeckUnit → DeckUnit) : (s.onDeck n f).log = s.log := rfl
@[simp] theorem State.onDeck_deck_self (s : State) (n : Deck) (f : DeckUnit → DeckUnit) :
    (s.onDeck n f).deck n = f (s.deck n) := Six.get_set_self _ _ _
theorem State.onDeck_deck_ne (s : State) {n m : Deck} (f : DeckUnit → DeckUnit) (h : m ≠ n) :
    (s.onDeck n f).deck m = s.deck m := Six.get_set_ne _ _ h
theorem State.onDeck_deck (s : State) (n m : Deck) (f : DeckUnit → DeckUnit) :
    (s.onDeck n f).deck m = if m = n then f (s.deck m) else s.deck m := by
  by_cases h : m = n
  · subst h; simp
  · simp [State.onDeck_deck_ne s f h, h]

@[simp] theorem State.onLink_pending (s : State) (n : Deck) (f : Link → Link) : (s.onLink n f).pending = s.pending := rfl
@[simp] theorem State.onLink_resetHeld (s : State) (n : Deck) (f : Link → Link) : (s.onLink n f).resetHeld = s.resetHeld := rfl
@[simp] theorem State.onLink_causeRead (s : State) (n : Deck) (f : Link → Link) : (s.onLink n f).causeRead = s.causeRead := rfl
@[simp] theorem State.onLink_mem (s : State) (n : Deck) (f : Link → Link) : (s.onLink n f).mem = s.mem := rfl
@[simp] theorem State.onLink_iface (s : State) (n : Deck) (f : Link → Link) : (s.onLink n f).iface = s.iface := rfl
@[simp] theorem State.onLink_timeline (s : State) (n : Deck) (f : Link → Link) : (s.onLink n f).timeline = s.timeline := rfl
@[simp] theorem State.onLink_suite (s : State) (n : Deck) (f : Link → Link) : (s.onLink n f).suite = s.suite := rfl
@[simp] theorem State.onLink_engine (s : State) (n : Deck) (f : Link → Link) : (s.onLink n f).engine = s.engine := rfl
@[simp] theorem State.onLink_generator (s : State) (n : Deck) (f : Link → Link) : (s.onLink n f).generator = s.generator := rfl
@[simp] theorem State.onLink_ep (s : State) (n : Deck) (f : Link → Link) : (s.onLink n f).ep = s.ep := rfl
@[simp] theorem State.onLink_marks (s : State) (n : Deck) (f : Link → Link) : (s.onLink n f).marks = s.marks := rfl
@[simp] theorem State.onLink_gpi (s : State) (n : Deck) (f : Link → Link) : (s.onLink n f).gpi = s.gpi := rfl
@[simp] theorem State.onLink_log (s : State) (n : Deck) (f : Link → Link) : (s.onLink n f).log = s.log := rfl
@[simp] theorem State.onLink_deck_self (s : State) (n : Deck) (f : Link → Link) :
    (s.onLink n f).deck n = { s.deck n with link := f (s.deck n).link } := Six.get_set_self _ _ _
theorem State.onLink_deck_ne (s : State) {n m : Deck} (f : Link → Link) (h : m ≠ n) :
    (s.onLink n f).deck m = s.deck m := Six.get_set_ne _ _ h

@[simp] theorem State.onList_pending (s : State) (n : Deck) (f : CommandList → CommandList) : (s.onList n f).pending = s.pending := rfl
@[simp] theorem State.onList_resetHeld (s : State) (n : Deck) (f : CommandList → CommandList) : (s.onList n f).resetHeld = s.resetHeld := rfl
@[simp] theorem State.onList_causeRead (s : State) (n : Deck) (f : CommandList → CommandList) : (s.onList n f).causeRead = s.causeRead := rfl
@[simp] theorem State.onList_mem (s : State) (n : Deck) (f : CommandList → CommandList) : (s.onList n f).mem = s.mem := rfl
@[simp] theorem State.onList_iface (s : State) (n : Deck) (f : CommandList → CommandList) : (s.onList n f).iface = s.iface := rfl
@[simp] theorem State.onList_timeline (s : State) (n : Deck) (f : CommandList → CommandList) : (s.onList n f).timeline = s.timeline := rfl
@[simp] theorem State.onList_suite (s : State) (n : Deck) (f : CommandList → CommandList) : (s.onList n f).suite = s.suite := rfl
@[simp] theorem State.onList_engine (s : State) (n : Deck) (f : CommandList → CommandList) : (s.onList n f).engine = s.engine := rfl
@[simp] theorem State.onList_generator (s : State) (n : Deck) (f : CommandList → CommandList) : (s.onList n f).generator = s.generator := rfl
@[simp] theorem State.onList_ep (s : State) (n : Deck) (f : CommandList → CommandList) : (s.onList n f).ep = s.ep := rfl
@[simp] theorem State.onList_marks (s : State) (n : Deck) (f : CommandList → CommandList) : (s.onList n f).marks = s.marks := rfl
@[simp] theorem State.onList_gpi (s : State) (n : Deck) (f : CommandList → CommandList) : (s.onList n f).gpi = s.gpi := rfl
@[simp] theorem State.onList_log (s : State) (n : Deck) (f : CommandList → CommandList) : (s.onList n f).log = s.log := rfl
@[simp] theorem State.onList_deck_self (s : State) (n : Deck) (f : CommandList → CommandList) :
    (s.onList n f).deck n = { s.deck n with list := f (s.deck n).list } := Six.get_set_self _ _ _
theorem State.onList_deck_ne (s : State) {n m : Deck} (f : CommandList → CommandList) (h : m ≠ n) :
    (s.onList n f).deck m = s.deck m := Six.get_set_ne _ _ h

@[simp] theorem State.onArbiter_pending (s : State) (n : Deck) (f : Arbiter → Arbiter) : (s.onArbiter n f).pending = s.pending := rfl
@[simp] theorem State.onArbiter_resetHeld (s : State) (n : Deck) (f : Arbiter → Arbiter) : (s.onArbiter n f).resetHeld = s.resetHeld := rfl
@[simp] theorem State.onArbiter_causeRead (s : State) (n : Deck) (f : Arbiter → Arbiter) : (s.onArbiter n f).causeRead = s.causeRead := rfl
@[simp] theorem State.onArbiter_mem (s : State) (n : Deck) (f : Arbiter → Arbiter) : (s.onArbiter n f).mem = s.mem := rfl
@[simp] theorem State.onArbiter_iface (s : State) (n : Deck) (f : Arbiter → Arbiter) : (s.onArbiter n f).iface = s.iface := rfl
@[simp] theorem State.onArbiter_timeline (s : State) (n : Deck) (f : Arbiter → Arbiter) : (s.onArbiter n f).timeline = s.timeline := rfl
@[simp] theorem State.onArbiter_suite (s : State) (n : Deck) (f : Arbiter → Arbiter) : (s.onArbiter n f).suite = s.suite := rfl
@[simp] theorem State.onArbiter_engine (s : State) (n : Deck) (f : Arbiter → Arbiter) : (s.onArbiter n f).engine = s.engine := rfl
@[simp] theorem State.onArbiter_generator (s : State) (n : Deck) (f : Arbiter → Arbiter) : (s.onArbiter n f).generator = s.generator := rfl
@[simp] theorem State.onArbiter_ep (s : State) (n : Deck) (f : Arbiter → Arbiter) : (s.onArbiter n f).ep = s.ep := rfl
@[simp] theorem State.onArbiter_marks (s : State) (n : Deck) (f : Arbiter → Arbiter) : (s.onArbiter n f).marks = s.marks := rfl
@[simp] theorem State.onArbiter_gpi (s : State) (n : Deck) (f : Arbiter → Arbiter) : (s.onArbiter n f).gpi = s.gpi := rfl
@[simp] theorem State.onArbiter_log (s : State) (n : Deck) (f : Arbiter → Arbiter) : (s.onArbiter n f).log = s.log := rfl
@[simp] theorem State.onArbiter_deck_self (s : State) (n : Deck) (f : Arbiter → Arbiter) :
    (s.onArbiter n f).deck n = { s.deck n with arbiter := f (s.deck n).arbiter } := Six.get_set_self _ _ _
theorem State.onArbiter_deck_ne (s : State) {n m : Deck} (f : Arbiter → Arbiter) (h : m ≠ n) :
    (s.onArbiter n f).deck m = s.deck m := Six.get_set_ne _ _ h

@[simp] theorem State.onTracker_pending (s : State) (n : Deck) (f : Tracker → Tracker) : (s.onTracker n f).pending = s.pending := rfl
@[simp] theorem State.onTracker_resetHeld (s : State) (n : Deck) (f : Tracker → Tracker) : (s.onTracker n f).resetHeld = s.resetHeld := rfl
@[simp] theorem State.onTracker_causeRead (s : State) (n : Deck) (f : Tracker → Tracker) : (s.onTracker n f).causeRead = s.causeRead := rfl
@[simp] theorem State.onTracker_mem (s : State) (n : Deck) (f : Tracker → Tracker) : (s.onTracker n f).mem = s.mem := rfl
@[simp] theorem State.onTracker_iface (s : State) (n : Deck) (f : Tracker → Tracker) : (s.onTracker n f).iface = s.iface := rfl
@[simp] theorem State.onTracker_timeline (s : State) (n : Deck) (f : Tracker → Tracker) : (s.onTracker n f).timeline = s.timeline := rfl
@[simp] theorem State.onTracker_suite (s : State) (n : Deck) (f : Tracker → Tracker) : (s.onTracker n f).suite = s.suite := rfl
@[simp] theorem State.onTracker_engine (s : State) (n : Deck) (f : Tracker → Tracker) : (s.onTracker n f).engine = s.engine := rfl
@[simp] theorem State.onTracker_generator (s : State) (n : Deck) (f : Tracker → Tracker) : (s.onTracker n f).generator = s.generator := rfl
@[simp] theorem State.onTracker_ep (s : State) (n : Deck) (f : Tracker → Tracker) : (s.onTracker n f).ep = s.ep := rfl
@[simp] theorem State.onTracker_marks (s : State) (n : Deck) (f : Tracker → Tracker) : (s.onTracker n f).marks = s.marks := rfl
@[simp] theorem State.onTracker_gpi (s : State) (n : Deck) (f : Tracker → Tracker) : (s.onTracker n f).gpi = s.gpi := rfl
@[simp] theorem State.onTracker_log (s : State) (n : Deck) (f : Tracker → Tracker) : (s.onTracker n f).log = s.log := rfl
@[simp] theorem State.onTracker_deck_self (s : State) (n : Deck) (f : Tracker → Tracker) :
    (s.onTracker n f).deck n = { s.deck n with tracker := f (s.deck n).tracker } := Six.get_set_self _ _ _
theorem State.onTracker_deck_ne (s : State) {n m : Deck} (f : Tracker → Tracker) (h : m ≠ n) :
    (s.onTracker n f).deck m = s.deck m := Six.get_set_ne _ _ h

@[simp] theorem State.onChase_pending (s : State) (n : Deck) (f : Chase → Chase) : (s.onChase n f).pending = s.pending := rfl
@[simp] theorem State.onChase_resetHeld (s : State) (n : Deck) (f : Chase → Chase) : (s.onChase n f).resetHeld = s.resetHeld := rfl
@[simp] theorem State.onChase_causeRead (s : State) (n : Deck) (f : Chase → Chase) : (s.onChase n f).causeRead = s.causeRead := rfl
@[simp] theorem State.onChase_mem (s : State) (n : Deck) (f : Chase → Chase) : (s.onChase n f).mem = s.mem := rfl
@[simp] theorem State.onChase_iface (s : State) (n : Deck) (f : Chase → Chase) : (s.onChase n f).iface = s.iface := rfl
@[simp] theorem State.onChase_timeline (s : State) (n : Deck) (f : Chase → Chase) : (s.onChase n f).timeline = s.timeline := rfl
@[simp] theorem State.onChase_suite (s : State) (n : Deck) (f : Chase → Chase) : (s.onChase n f).suite = s.suite := rfl
@[simp] theorem State.onChase_engine (s : State) (n : Deck) (f : Chase → Chase) : (s.onChase n f).engine = s.engine := rfl
@[simp] theorem State.onChase_generator (s : State) (n : Deck) (f : Chase → Chase) : (s.onChase n f).generator = s.generator := rfl
@[simp] theorem State.onChase_ep (s : State) (n : Deck) (f : Chase → Chase) : (s.onChase n f).ep = s.ep := rfl
@[simp] theorem State.onChase_marks (s : State) (n : Deck) (f : Chase → Chase) : (s.onChase n f).marks = s.marks := rfl
@[simp] theorem State.onChase_gpi (s : State) (n : Deck) (f : Chase → Chase) : (s.onChase n f).gpi = s.gpi := rfl
@[simp] theorem State.onChase_log (s : State) (n : Deck) (f : Chase → Chase) : (s.onChase n f).log = s.log := rfl
@[simp] theorem State.onChase_deck_self (s : State) (n : Deck) (f : Chase → Chase) :
    (s.onChase n f).deck n = { s.deck n with chase := f (s.deck n).chase } := Six.get_set_self _ _ _
theorem State.onChase_deck_ne (s : State) {n m : Deck} (f : Chase → Chase) (h : m ≠ n) :
    (s.onChase n f).deck m = s.deck m := Six.get_set_ne _ _ h

@[simp] theorem State.onTx_pending (s : State) (n : Deck) (f : Transmitter → Transmitter) : (s.onTx n f).pending = s.pending := rfl
@[simp] theorem State.onTx_resetHeld (s : State) (n : Deck) (f : Transmitter → Transmitter) : (s.onTx n f).resetHeld = s.resetHeld := rfl
@[simp] theorem State.onTx_causeRead (s : State) (n : Deck) (f : Transmitter → Transmitter) : (s.onTx n f).causeRead = s.causeRead := rfl
@[simp] theorem State.onTx_mem (s : State) (n : Deck) (f : Transmitter → Transmitter) : (s.onTx n f).mem = s.mem := rfl
@[simp] theorem State.onTx_iface (s : State) (n : Deck) (f : Transmitter → Transmitter) : (s.onTx n f).iface = s.iface := rfl
@[simp] theorem State.onTx_timeline (s : State) (n : Deck) (f : Transmitter → Transmitter) : (s.onTx n f).timeline = s.timeline := rfl
@[simp] theorem State.onTx_suite (s : State) (n : Deck) (f : Transmitter → Transmitter) : (s.onTx n f).suite = s.suite := rfl
@[simp] theorem State.onTx_engine (s : State) (n : Deck) (f : Transmitter → Transmitter) : (s.onTx n f).engine = s.engine := rfl
@[simp] theorem State.onTx_generator (s : State) (n : Deck) (f : Transmitter → Transmitter) : (s.onTx n f).generator = s.generator := rfl
@[simp] theorem State.onTx_ep (s : State) (n : Deck) (f : Transmitter → Transmitter) : (s.onTx n f).ep = s.ep := rfl
@[simp] theorem State.onTx_marks (s : State) (n : Deck) (f : Transmitter → Transmitter) : (s.onTx n f).marks = s.marks := rfl
@[simp] theorem State.onTx_gpi (s : State) (n : Deck) (f : Transmitter → Transmitter) : (s.onTx n f).gpi = s.gpi := rfl
@[simp] theorem State.onTx_log (s : State) (n : Deck) (f : Transmitter → Transmitter) : (s.onTx n f).log = s.log := rfl
@[simp] theorem State.onTx_deck_self (s : State) (n : Deck) (f : Transmitter → Transmitter) :
    (s.onTx n f).deck n = { s.deck n with tx := f (s.deck n).tx } := Six.get_set_self _ _ _
theorem State.onTx_deck_ne (s : State) {n m : Deck} (f : Transmitter → Transmitter) (h : m ≠ n) :
    (s.onTx n f).deck m = s.deck m := Six.get_set_ne _ _ h

@[simp] theorem State.onRx_pending (s : State) (n : Deck) (f : Receiver → Receiver) : (s.onRx n f).pending = s.pending := rfl
@[simp] theorem State.onRx_resetHeld (s : State) (n : Deck) (f : Receiver → Receiver) : (s.onRx n f).resetHeld = s.resetHeld := rfl
@[simp] theorem State.onRx_causeRead (s : State) (n : Deck) (f : Receiver → Receiver) : (s.onRx n f).causeRead = s.causeRead := rfl
@[simp] theorem State.onRx_mem (s : State) (n : Deck) (f : Receiver → Receiver) : (s.onRx n f).mem = s.mem := rfl
@[simp] theorem State.onRx_iface (s : State) (n : Deck) (f : Receiver → Receiver) : (s.onRx n f).iface = s.iface := rfl
@[simp] theorem State.onRx_timeline (s : State) (n : Deck) (f : Receiver → Receiver) : (s.onRx n f).timeline = s.timeline := rfl
@[simp] theorem State.onRx_suite (s : State) (n : Deck) (f : Receiver → Receiver) : (s.onRx n f).suite = s.suite := rfl
@[simp] theorem State.onRx_engine (s : State) (n : Deck) (f : Receiver → Receiver) : (s.onRx n f).engine = s.engine := rfl
@[simp] theorem State.onRx_generator (s : State) (n : Deck) (f : Receiver → Receiver) : (s.onRx n f).generator = s.generator := rfl
@[simp] theorem State.onRx_ep (s : State) (n : Deck) (f : Receiver → Receiver) : (s.onRx n f).ep = s.ep := rfl
@[simp] theorem State.onRx_marks (s : State) (n : Deck) (f : Receiver → Receiver) : (s.onRx n f).marks = s.marks := rfl
@[simp] theorem State.onRx_gpi (s : State) (n : Deck) (f : Receiver → Receiver) : (s.onRx n f).gpi = s.gpi := rfl
@[simp] theorem State.onRx_log (s : State) (n : Deck) (f : Receiver → Receiver) : (s.onRx n f).log = s.log := rfl
@[simp] theorem State.onRx_deck_self (s : State) (n : Deck) (f : Receiver → Receiver) :
    (s.onRx n f).deck n = { s.deck n with rx := f (s.deck n).rx } := Six.get_set_self _ _ _
theorem State.onRx_deck_ne (s : State) {n m : Deck} (f : Receiver → Receiver) (h : m ≠ n) :
    (s.onRx n f).deck m = s.deck m := Six.get_set_ne _ _ h

/-! ## Causes, attention bits, deck captures -/

@[simp] theorem State.raise_pending (s : State) (c : Cause) : (s.raise c).pending = s.pending := rfl
@[simp] theorem State.raise_resetHeld (s : State) (c : Cause) : (s.raise c).resetHeld = s.resetHeld := rfl
@[simp] theorem State.raise_causeRead (s : State) (c : Cause) : (s.raise c).causeRead = s.causeRead := rfl
@[simp] theorem State.raise_mem (s : State) (c : Cause) : (s.raise c).mem = s.mem := rfl
@[simp] theorem State.raise_timeline (s : State) (c : Cause) : (s.raise c).timeline = s.timeline := rfl
@[simp] theorem State.raise_suite (s : State) (c : Cause) : (s.raise c).suite = s.suite := rfl
@[simp] theorem State.raise_decks (s : State) (c : Cause) : (s.raise c).decks = s.decks := rfl
@[simp] theorem State.raise_engine (s : State) (c : Cause) : (s.raise c).engine = s.engine := rfl
@[simp] theorem State.raise_generator (s : State) (c : Cause) : (s.raise c).generator = s.generator := rfl
@[simp] theorem State.raise_ep (s : State) (c : Cause) : (s.raise c).ep = s.ep := rfl
@[simp] theorem State.raise_marks (s : State) (c : Cause) : (s.raise c).marks = s.marks := rfl
@[simp] theorem State.raise_gpi (s : State) (c : Cause) : (s.raise c).gpi = s.gpi := rfl
@[simp] theorem State.raise_log (s : State) (c : Cause) : (s.raise c).log = s.log := rfl
@[simp] theorem State.raise_deck (s : State) (c : Cause) (n : Deck) : (s.raise c).deck n = s.deck n := rfl

@[simp] theorem State.setAttention_pending (s : State) (g : Nat) (on : Bool) : (s.setAttention g on).pending = s.pending := rfl
@[simp] theorem State.setAttention_resetHeld (s : State) (g : Nat) (on : Bool) : (s.setAttention g on).resetHeld = s.resetHeld := rfl
@[simp] theorem State.setAttention_causeRead (s : State) (g : Nat) (on : Bool) : (s.setAttention g on).causeRead = s.causeRead := rfl
@[simp] theorem State.setAttention_mem (s : State) (g : Nat) (on : Bool) : (s.setAttention g on).mem = s.mem := rfl
@[simp] theorem State.setAttention_timeline (s : State) (g : Nat) (on : Bool) : (s.setAttention g on).timeline = s.timeline := rfl
@[simp] theorem State.setAttention_suite (s : State) (g : Nat) (on : Bool) : (s.setAttention g on).suite = s.suite := rfl
@[simp] theorem State.setAttention_decks (s : State) (g : Nat) (on : Bool) : (s.setAttention g on).decks = s.decks := rfl
@[simp] theorem State.setAttention_engine (s : State) (g : Nat) (on : Bool) : (s.setAttention g on).engine = s.engine := rfl
@[simp] theorem State.setAttention_generator (s : State) (g : Nat) (on : Bool) : (s.setAttention g on).generator = s.generator := rfl
@[simp] theorem State.setAttention_ep (s : State) (g : Nat) (on : Bool) : (s.setAttention g on).ep = s.ep := rfl
@[simp] theorem State.setAttention_marks (s : State) (g : Nat) (on : Bool) : (s.setAttention g on).marks = s.marks := rfl
@[simp] theorem State.setAttention_gpi (s : State) (g : Nat) (on : Bool) : (s.setAttention g on).gpi = s.gpi := rfl
@[simp] theorem State.setAttention_log (s : State) (g : Nat) (on : Bool) : (s.setAttention g on).log = s.log := rfl
@[simp] theorem State.setAttention_deck (s : State) (g : Nat) (on : Bool) (n : Deck) : (s.setAttention g on).deck n = s.deck n := rfl

@[simp] theorem State.raise_iface (s : State) (c : Cause) :
    (s.raise c).iface = { s.iface with pending := s.iface.pending.set c true } := rfl

@[simp] theorem State.offerDeck_pending (s : State) (n : Deck) (v : Nat) (c : FaultCode) (o : Nat) :
    (s.offerDeck n v c o).pending = s.pending := rfl
@[simp] theorem State.offerDeck_resetHeld (s : State) (n : Deck) (v : Nat) (c : FaultCode) (o : Nat) :
    (s.offerDeck n v c o).resetHeld = s.resetHeld := rfl
@[simp] theorem State.offerDeck_causeRead (s : State) (n : Deck) (v : Nat) (c : FaultCode) (o : Nat) :
    (s.offerDeck n v c o).causeRead = s.causeRead := rfl
@[simp] theorem State.offerDeck_mem (s : State) (n : Deck) (v : Nat) (c : FaultCode) (o : Nat) :
    (s.offerDeck n v c o).mem = s.mem := rfl
@[simp] theorem State.offerDeck_iface (s : State) (n : Deck) (v : Nat) (c : FaultCode) (o : Nat) :
    (s.offerDeck n v c o).iface = s.iface := rfl
@[simp] theorem State.offerDeck_timeline (s : State) (n : Deck) (v : Nat) (c : FaultCode) (o : Nat) :
    (s.offerDeck n v c o).timeline = s.timeline := rfl
@[simp] theorem State.offerDeck_suite (s : State) (n : Deck) (v : Nat) (c : FaultCode) (o : Nat) :
    (s.offerDeck n v c o).suite = s.suite := rfl
@[simp] theorem State.offerDeck_engine (s : State) (n : Deck) (v : Nat) (c : FaultCode) (o : Nat) :
    (s.offerDeck n v c o).engine = s.engine := rfl
@[simp] theorem State.offerDeck_generator (s : State) (n : Deck) (v : Nat) (c : FaultCode) (o : Nat) :
    (s.offerDeck n v c o).generator = s.generator := rfl
@[simp] theorem State.offerDeck_ep (s : State) (n : Deck) (v : Nat) (c : FaultCode) (o : Nat) :
    (s.offerDeck n v c o).ep = s.ep := rfl
@[simp] theorem State.offerDeck_marks (s : State) (n : Deck) (v : Nat) (c : FaultCode) (o : Nat) :
    (s.offerDeck n v c o).marks = s.marks := rfl
@[simp] theorem State.offerDeck_gpi (s : State) (n : Deck) (v : Nat) (c : FaultCode) (o : Nat) :
    (s.offerDeck n v c o).gpi = s.gpi := rfl
@[simp] theorem State.offerDeck_log (s : State) (n : Deck) (v : Nat) (c : FaultCode) (o : Nat) :
    (s.offerDeck n v c o).log = s.log := rfl
@[simp] theorem State.offerDeck_deck_self (s : State) (n : Deck) (v : Nat) (c : FaultCode) (o : Nat) :
    (s.offerDeck n v c o).deck n = { s.deck n with capture := (s.deck n).capture.offer v c o s.F } :=
  Six.get_set_self _ _ _

end Sys2Proof.Machine
end

