-- ==== Sys2Proof/Laws/Calm.lean ====
section
/-!
SUPPORT. What the shared operations of the part leave alone. `Kept s t` is what every command but a reset, a write of
TOPMEM, a read of CAUSE and a clear of the device capture keeps; `Calm s t` says besides that what stands
(`State.standing`) is unchanged. Each lemma takes `Calm s t` to `Calm s (t.operation …)`, so that a chain of operations
is followed by a chain of lemmas.
-/

namespace Sys2Proof.Machine

/-- The memory keeps its form and everything above the limit, and no pending cause or device fault is lost. -/
structure Kept (s t : State) : Prop where
  topmem : t.iface.topmem = s.iface.topmem
  queue : t.pending = s.pending
  held : t.resetHeld = s.resetHeld
  latch : t.causeRead = s.causeRead
  wf : s.mem.wf = true → t.mem.wf = true
  above : s.sameAbove t
  causes : ∀ c, s.iface.pending.get c = true → t.iface.pending.get c = true
  device : s.iface.device.severity ≤ t.iface.device.severity

/-- `Kept`, and what stands is unchanged. -/
structure Calm (s t : State) : Prop extends Kept s t where
  standing : t.standing = s.standing

variable {s t u : State}

theorem Kept.refl (s : State) : Kept s s :=
  ⟨rfl, rfl, rfl, rfl, id, fun _ _ => rfl, fun _ h => h, Nat.le_refl _⟩

theorem Kept.limit (h : Kept s t) : t.iface.limit = s.iface.limit := by simp [Interface.limit, h.topmem]

theorem Kept.trans (h : Kept s t) (k : Kept t u) : Kept s u :=
  ⟨k.topmem.trans h.topmem, k.queue.trans h.queue, k.held.trans h.held, k.latch.trans h.latch,
    fun w => k.wf (h.wf w),
    fun a ha => (k.above a (by rw [h.limit]; exact ha)).trans (h.above a ha),
    fun c hc => k.causes c (h.causes c hc), h.device.trans k.device⟩

theorem Calm.refl (s : State) : Calm s s := ⟨Kept.refl s, rfl⟩

theorem Calm.trans (h : Calm s t) (k : Calm t u) : Calm s u :=
  ⟨h.toKept.trans k.toKept, k.standing.trans h.standing⟩

theorem Calm.limit (h : Calm s t) : t.iface.limit = s.iface.limit := h.toKept.limit

theorem Calm.ite {c : Prop} [Decidable c] (h : Calm s t) (k : Calm s u) : Calm s (if c then t else u) := by
  split <;> assumption

/-! ## Updates of one block -/

/-- An update that touches neither memory nor the suite memory interface keeps everything but what stands. -/
theorem Kept.of_same (h : Kept s t) (hp : u.pending = t.pending) (hh : u.resetHeld = t.resetHeld)
    (hl : u.causeRead = t.causeRead) (hm : u.mem = t.mem) (hi : u.iface = t.iface) : Kept s u :=
  ⟨by rw [hi]; exact h.topmem, hp.trans h.queue, hh.trans h.held, hl.trans h.latch, by rw [hm]; exact h.wf,
    fun a ha => by rw [hm]; exact h.above a ha, by rw [hi]; exact h.causes, by rw [hi]; exact h.device⟩

theorem Calm.onDeck (h : Calm s t) (n : Deck) {f : DeckUnit → DeckUnit}
    (hf : ∀ d, (f d).settings = d.settings ∧ (f d).port = d.port) : Calm s (t.onDeck n f) := by
  refine ⟨h.toKept.of_same rfl rfl rfl rfl rfl, Eq.trans ?_ h.standing⟩
  have hs : ∀ m, ((t.onDeck n f).deck m).settings = (t.deck m).settings := fun m => by
    rw [State.onDeck_deck]; split
    · exact (hf _).1
    · rfl
  have hp : ∀ m, ((t.onDeck n f).deck m).port = (t.deck m).port := fun m => by
    rw [State.onDeck_deck]; split
    · exact (hf _).2
    · rfl
  simp [State.standing, hs, hp]

theorem Calm.onLink (h : Calm s t) (n : Deck) (f : Link → Link) : Calm s (t.onLink n f) :=
  h.onDeck n fun _ => ⟨rfl, rfl⟩

theorem Calm.onList (h : Calm s t) (n : Deck) (f : CommandList → CommandList) : Calm s (t.onList n f) :=
  h.onDeck n fun _ => ⟨rfl, rfl⟩

theorem Calm.onArbiter (h : Calm s t) (n : Deck) (f : Arbiter → Arbiter) : Calm s (t.onArbiter n f) :=
  h.onDeck n fun _ => ⟨rfl, rfl⟩

theorem Calm.onTracker (h : Calm s t) (n : Deck) (f : Tracker → Tracker) : Calm s (t.onTracker n f) :=
  h.onDeck n fun _ => ⟨rfl, rfl⟩

theorem Calm.onChase (h : Calm s t) (n : Deck) (f : Chase → Chase) : Calm s (t.onChase n f) :=
  h.onDeck n fun _ => ⟨rfl, rfl⟩

theorem Calm.onTx (h : Calm s t) (n : Deck) (f : Transmitter → Transmitter) : Calm s (t.onTx n f) :=
  h.onDeck n fun _ => ⟨rfl, rfl⟩

theorem Calm.onRx (h : Calm s t) (n : Deck) (f : Receiver → Receiver) : Calm s (t.onRx n f) :=
  h.onDeck n fun _ => ⟨rfl, rfl⟩

theorem Calm.onEngine (h : Calm s t) (f : Engine → Engine) : Calm s (t.onEngine f) :=
  ⟨h.toKept.of_same rfl rfl rfl rfl rfl, h.standing⟩

theorem Calm.onGenerator (h : Calm s t) (f : Generator → Generator) : Calm s (t.onGenerator f) :=
  ⟨h.toKept.of_same rfl rfl rfl rfl rfl, h.standing⟩

theorem Calm.onMarks (h : Calm s t) (f : MarkUnit → MarkUnit) : Calm s (t.onMarks f) :=
  ⟨h.toKept.of_same rfl rfl rfl rfl rfl, h.standing⟩

theorem Calm.onPulses (h : Calm s t) (f : GpiUnit → Eight (Option FieldCount)) :
    Calm s (t.onGpi fun g => { g with pulses := f g }) :=
  ⟨h.toKept.of_same rfl rfl rfl rfl rfl, h.standing⟩

theorem Calm.onLog (h : Calm s t) {f : LogWriter → LogWriter}
    (hf : ∀ l, (f l).base = l.base ∧ (f l).count = l.count ∧ (f l).threshold = l.threshold ∧
      (f l).logEdits = l.logEdits) : Calm s (t.onLog f) := by
  refine ⟨h.toKept.of_same rfl rfl rfl rfl rfl, Eq.trans ?_ h.standing⟩
  obtain ⟨h1, h2, h3, h4⟩ := hf t.log
  simp only [State.standing, State.onLog, h1, h2, h3, h4]
  rfl

theorem Calm.raise (h : Calm s t) (c : Cause) : Calm s (t.raise c) := by
  refine ⟨⟨h.topmem, h.queue, h.held, h.latch, h.wf, h.above, fun d hd => ?_, h.device⟩, h.standing⟩
  by_cases e : d = c
  · subst e; simp [State.raise]
  · simp only [State.raise_iface]
    rw [PerCause.get_set_ne _ _ e]; exact h.causes d hd

theorem Calm.setAttention (h : Calm s t) (g : Nat) (on : Bool) : Calm s (t.setAttention g on) :=
  ⟨⟨h.topmem, h.queue, h.held, h.latch, h.wf, h.above, h.causes, h.device⟩, h.standing⟩

theorem Calm.offerDeck (h : Calm s t) (n : Deck) (v : Nat) (c : FaultCode) (o : Nat) : Calm s (t.offerDeck n v c o) :=
  h.onDeck n fun _ => ⟨rfl, rfl⟩

/-! ## Suite memory -/

/-- Bytes stored below the limit. -/
theorem Calm.store (h : Calm s t) (a : Nat) (bs : List Byte) (hb : a + bs.length ≤ t.iface.limit) :
    Calm s { t with mem := t.mem.store a bs } :=
  ⟨⟨h.topmem, h.queue, h.held, h.latch, fun w => Memory.wf_store a bs (h.wf w),
    fun b hb' => (Memory.read_store_outside _ _ _ (Or.inr (by rw [h.limit] at hb; omega))).trans (h.above b hb'),
    h.causes, h.device⟩, h.standing⟩

theorem State.limit_of_page {s : State} (h : s.iface.topmem.val ≠ 0) : 256 ≤ s.iface.limit := by
  simp only [Interface.limit]; omega

@[simp] theorem length_half (n : Nat) : (half n).length = 2 := rfl

@[simp] theorem length_halfSat (n : Nat) : (halfSat n).length = 2 := rfl

@[simp] theorem length_word (n : Nat) : (word n).length = 4 := rfl

@[simp] theorem length_wordOfField (f : FieldCount) : (wordOfField f).length = 4 := rfl

theorem Calm.writeDevice (h : Calm s t) : Calm s t.writeDevice := by
  unfold State.writeDevice
  dsimp only
  split
  · exact h
  · next hp =>
    have hl := State.limit_of_page hp
    have h1 := h.store 0x31 [byte t.iface.device.code.num] (by simp; omega)
    have h2 := h1.store 0x32 (halfSat t.iface.device.offset) (by simp; omega)
    have h3 := h2.store 0x34 (wordOfField t.iface.device.F) (by simp; omega)
    exact h3.store 0x30 [byte t.iface.device.severity] (by simp; omega)

theorem Calm.offerDevice (h : Calm s t) (v : Nat) (c : FaultCode) (o : Nat) : Calm s (t.offerDevice v c o) := by
  unfold State.offerDevice
  split
  · next hv =>
    refine Calm.writeDevice (t := t.onIface fun i => { i with device := i.device.offer v c o t.F })
      ⟨⟨h.topmem, h.queue, h.held, h.latch, h.wf, h.above, h.causes, ?_⟩, h.standing⟩
    have := h.device
    simp only [State.onIface_iface, Capture.offer, hv, if_true]
    omega
  · exact h

theorem Calm.limitFault (h : Calm s t) (a : Nat) : Calm s (t.limitFault a) := (h.offerDevice _ _ _).raise _

theorem Calm.readMem (h : Calm s t) (a n : Nat) : Calm s (t.readMem a n).2 := by
  unfold State.readMem
  split
  · exact h
  · exact h.limitFault a

theorem Calm.of_readMem (h : Calm s t) {a n : Nat} {r : Option (List Byte)} (e : t.readMem a n = (r, u)) : Calm s u := by
  have := h.readMem a n
  rwa [e] at this

theorem Calm.writeMem (h : Calm s t) (a : Nat) (bs : List Byte) : Calm s (t.writeMem a bs).2 := by
  unfold State.writeMem
  split
  · next hb => exact h.store a bs (by simpa [State.inLimit] using hb)
  · exact h.limitFault a

theorem Calm.of_writeMem (h : Calm s t) {a : Nat} {bs : List Byte} {r : Bool} (e : t.writeMem a bs = (r, u)) :
    Calm s u := by
  have := h.writeMem a bs
  rwa [e] at this

theorem Calm.writeAll (h : Calm s t) (ws : List (Nat × List Byte)) : Calm s (t.writeAll ws).2 := by
  induction ws generalizing t with
  | nil => exact h
  | cons w ws ih =>
    obtain ⟨a, bs⟩ := w
    unfold State.writeAll
    split
    · next e => exact ih (h.of_writeMem e)
    · next e => exact h.of_writeMem e

theorem Calm.of_writeAll (h : Calm s t) {ws : List (Nat × List Byte)} {r : Bool} (e : t.writeAll ws = (r, u)) :
    Calm s u := by
  have := h.writeAll ws
  rwa [e] at this

/-! ## Combinators -/

theorem Calm.eachDeck (h : Calm s t) {f : Deck → State → State} (hf : ∀ n u, Calm s u → Calm s (f n u)) :
    Calm s (t.eachDeck f) :=
  hf _ _ (hf _ _ (hf _ _ (hf _ _ (hf _ _ (hf _ _ h)))))

theorem Calm.foldl {α : Type} (h : Calm s t) {f : State → α → State} (hf : ∀ x u, Calm s u → Calm s (f u x))
    (l : List α) : Calm s (l.foldl f t) := by
  induction l generalizing t with
  | nil => exact h
  | cons x l ih => exact ih (hf x t h)

/-! ## The capture log and the GPI lines -/

theorem LogWriter.rearm_standing (l : LogWriter) : l.rearm.base = l.base ∧ l.rearm.count = l.count ∧
    l.rearm.threshold = l.threshold ∧ l.rearm.logEdits = l.logEdits := by
  unfold LogWriter.rearm
  split <;> exact ⟨rfl, rfl, rfl, rfl⟩

theorem Calm.rereadLog (h : Calm s t) : Calm s t.rereadLog := by
  unfold State.rereadLog
  split
  · exact h
  · split
    · next e => exact (h.of_readMem e).onLog LogWriter.rearm_standing
    · next e =>
      refine (h.of_readMem e).onLog fun l => ?_
      split <;> exact LogWriter.rearm_standing _

theorem Calm.judgeThreshold (h : Calm s t) : Calm s t.judgeThreshold := by
  unfold State.judgeThreshold
  split
  · refine Calm.raise (Calm.onLog h ?_) _
    exact fun _ => ⟨rfl, rfl, rfl, rfl⟩
  · exact h

theorem Calm.dropEntry (h : Calm s t) : Calm s t.dropEntry := (h.writeMem _ _).raise _

theorem Calm.placeEntry (h : Calm s t) (e : LogEntry) : Calm s (t.placeEntry e) := by
  unfold State.placeEntry
  dsimp only
  split
  · next e => exact h.of_writeAll e
  · next e =>
    refine Calm.judgeThreshold (Calm.onLog (h.of_writeAll e) ?_)
    exact fun _ => ⟨rfl, rfl, rfl, rfl⟩

theorem Calm.appendLog (h : Calm s t) (e : LogEntry) : Calm s (t.appendLog e) := by
  unfold State.appendLog
  split
  · exact h
  · split
    · exact h.rereadLog.dropEntry.ite (h.rereadLog.placeEntry e)
    · exact h.placeEntry e

theorem Calm.requestPulse (h : Calm s t) (fn : OutputFunction) (l : Line) (w : Nat) :
    Calm s (t.requestPulse fn l w) := by
  unfold State.requestPulse
  split
  · exact h.onPulses _
  · exact h

/-! ## Marks -/

theorem Calm.readRecords (h : Calm s t) (a n : Nat) : Calm s (t.readRecords a n).2 := by
  induction n generalizing t a with
  | zero => exact h
  | succ n ih =>
    unfold State.readRecords
    split
    · next e => exact h.of_readMem e
    · next e =>
      have := ih (h.of_readMem e) (a + 16)
      split <;> next e' => rw [e'] at this; exact this

theorem Calm.loadMarks (h : Calm s t) : Calm s t.loadMarks := by
  unfold State.loadMarks
  have hr := h.readRecords (16 * t.iface.bases.mark) 16
  split
  · next e => rw [e] at hr; exact hr
  · next e => rw [e] at hr; exact (hr.onMarks _).writeAll _

theorem Calm.fireMark (h : Calm s t) (i : Nat) (m : Mark) (x : Sample) : Calm s (t.fireMark i m x) := by
  unfold State.fireMark
  have h1 := (h.appendLog ⟨1, some m.deck, x.stamp, addrOf x.kind (x.pos / 2), some x.kind,
        (t.deck m.deck).tracker.quality, i, 0⟩).ite (c := m.capture) h
  have h2 := (h1.requestPulse .mark m.line m.width).ite (c := m.pulse) h1
  have h3 := (h2.raise .mark).ite (c := m.notice) h2
  exact (h3.onMarks _).ite h3

theorem Calm.compareMark (h : Calm s t) (n : Deck) (x : Sample) (d : Option Int) (i : Nat) :
    Calm s (t.compareMark n x d i) := by
  unfold State.compareMark
  dsimp only
  split
  · exact ((h.onMarks _).fireMark _ _ _).ite (h.onMarks _)
  · exact h

theorem Calm.compareMarks (h : Calm s t) (n : Deck) (x : Sample) : Calm s (t.compareMarks n x) := by
  unfold State.compareMarks
  refine Calm.onMarks (Calm.foldl h ?_ _) _
  exact fun i _ hu => hu.compareMark n x _ i

theorem Calm.evaluateProbe (h : Calm s t) : Calm s t.evaluateProbe := by
  unfold State.evaluateProbe
  dsimp only
  split
  · next e => exact h.of_readMem e
  · next e =>
    split
    · next e' => exact (h.of_readMem e).of_writeAll e'
    · next e' => exact ((h.of_readMem e).of_writeAll e').raise _

/-! ## Chase -/

theorem Calm.moveChase (h : Calm s t) (n : Deck) (f : Chase → Chase) : Calm s (t.moveChase n f) :=
  ((h.onChase n f).raise _).ite (h.onChase n f)

theorem Calm.offerTrim (h : Calm s t) (n : Deck) (c : Option LinkCommand) : Calm s (t.offerTrim n c) := by
  unfold State.offerTrim
  split
  · exact h
  · exact h.ite (h.onDeck n fun _ => ⟨rfl, rfl⟩)

theorem Calm.evaluateChase (h : Calm s t) (n : Deck) (x : Sample) : Calm s (t.evaluateChase n x) :=
  h.ite ((h.moveChase n _).offerTrim n _)

theorem Calm.masterSample (h : Calm s t) (m n : Deck) : Calm s (t.masterSample m n) := (h.moveChase n _).ite h

theorem Calm.emptyTrim (h : Calm s t) (n : Deck) : Calm s (t.emptyTrim n) := h.onArbiter n _

theorem Calm.startChase (h : Calm s t) (n : Deck) (q : Starter) (m : Master) (o : Int) (p : Option (Nat × Kind)) :
    Calm s (t.startChase n q m o p) :=
  (((h.moveChase n _).onChase n _).onLink n _).emptyTrim n

theorem Calm.endChase (h : Calm s t) (n : Deck) : Calm s (t.endChase n) :=
  h.ite (((h.moveChase n _).onLink n _).emptyTrim n)

theorem Calm.chaseRejected (h : Calm s t) (n : Deck) (c : LinkCommand) : Calm s (t.chaseRejected n c) := h.onChase n _

theorem Calm.chaseArrived (h : Calm s t) (n : Deck) (p : PendingSeek) : Calm s (t.chaseArrived n p) :=
  ((h.moveChase n _).ite ((h.moveChase n _).offerTrim n _)).ite h

theorem Calm.chaseSeekFailed (h : Calm s t) (n : Deck) (p : PendingSeek) (b : Bool) :
    Calm s (t.chaseSeekFailed n p b) := (h.onChase n _).ite h

theorem Calm.lockChase (h : Calm s t) (n : Deck) : Calm s (t.lockChase n) := h.moveChase n _

theorem Calm.unlockChase (h : Calm s t) (n : Deck) : Calm s (t.unlockChase n) := h.moveChase n _

/-! ## Trackers -/

theorem Calm.handOn (h : Calm s t) (n : Deck) (x : Sample) : Calm s (t.handOn n x) :=
  let h1 := (h.evaluateChase n x).eachDeck (f := fun m s => s.masterSample n m) fun m _ hu => hu.masterSample n m
  h1.ite (h1.compareMarks n x)

theorem Calm.takeWord (h : Calm s t) (n : Deck) (w : LtcWord) : Calm s (t.takeWord n w) := by
  unfold State.takeWord
  dsimp only
  split
  · exact (h.onTracker n _).handOn n _
  · exact h.onTracker n _

theorem Calm.takePosition (h : Calm s t) (n : Deck) (p : Option TapePosition) (f : FieldCount) :
    Calm s (t.takePosition n p f) := by
  unfold State.takePosition
  dsimp only
  split
  · exact h
  · exact h
  · exact h
  · exact h.onTracker n _
  · exact (h.onTracker n _).handOn n _

theorem Calm.requestPosition (h : Calm s t) (n : Deck) : Calm s (t.requestPosition n) := h.ite (h.onArbiter n _)

theorem Calm.boundaryRequest (h : Calm s t) (n : Deck) : Calm s (t.boundaryRequest n) := (h.requestPosition n).ite h

theorem Calm.pollRequest (h : Calm s t) (n : Deck) : Calm s (t.pollRequest n) := (h.requestPosition n).ite h

theorem Calm.flywheelBoundary (h : Calm s t) (n : Deck) : Calm s (t.flywheelBoundary n) := by
  unfold State.flywheelBoundary
  dsimp only
  split
  · split
    · split
      · exact h.onTracker n _
      · exact (h.onTracker n _).handOn n _
    · exact h.onTracker n _
  · exact h

theorem Calm.endFlywheel (h : Calm s t) (n : Deck) : Calm s (t.endFlywheel n) := (h.onTracker n _).boundaryRequest n

theorem Calm.enterFlywheel (h : Calm s t) (n : Deck) : Calm s (t.enterFlywheel n) :=
  (((h.onTracker n _).boundaryRequest n).ite (h.onTracker n _)).ite
    (((h.onTracker n _).flywheelBoundary n).ite (h.onTracker n _))

end Sys2Proof.Machine
end

