-- ==== Sys2Proof/Laws/CalmEngine.lean ====
section
/-!
SUPPORT. The edit engine, the command lists, the links and the part's own acts are calm, up to the settling of the decks
and every act made before a field advance.
-/

namespace Sys2Proof.Machine

variable {s t u : State}

/-! ## The engine's shared acts -/

theorem Calm.offerEngine (h : Calm s t) (n : Deck) (r : EngineRequest) : Calm s (t.offerEngine n r).2 := by
  unfold State.offerEngine
  split
  · dsimp only
    exact h.onArbiter n _
  · exact h.offerDeck n _ _ _

theorem Calm.of_offerEngine (h : Calm s t) {n : Deck} {r : EngineRequest} {b : Bool}
    (e : t.offerEngine n r = (b, u)) : Calm s u := by
  have := h.offerEngine n r
  rwa [e] at this

theorem Calm.emptyEngineQueue (h : Calm s t) (n : Deck) : Calm s (t.emptyEngineQueue n) := h.onArbiter n _

theorem Calm.setPunch (h : Calm s t) (i : PunchId) (st : PunchStatus) : Calm s (t.setPunch i st) := h.onEngine _

theorem Calm.eachClaimed (h : Calm s t) {f : State → Deck → State} (hf : ∀ n u, Calm s u → Calm s (f u n)) :
    Calm s (t.eachClaimed f) := h.foldl hf _

theorem Calm.abortPunchOut (h : Calm s t) : Calm s t.abortPunchOut := by
  unfold State.abortPunchOut
  split
  · exact h
  · exact ((h.offerEngine _ _).onEngine _).ite h

theorem Calm.writeAbandoned (h : Calm s t) (i : PunchId) : Calm s (t.writeAbandoned i) := by
  unfold State.writeAbandoned
  split
  · exact h
  · exact h.writeAll _

theorem Calm.abandonPunches (h : Calm s t) : Calm s t.abandonPunches :=
  (h.onEngine _).foldl (fun i _ hu => (hu.writeAbandoned i).ite hu) _

theorem Calm.abort (h : Calm s t) (c : FaultCode) : Calm s (t.abort c) := by
  unfold State.abort
  split
  · refine Calm.onEngine (Calm.onGenerator (Calm.eachClaimed (Calm.onEngine (Calm.eachClaimed (Calm.abortPunchOut
      (Calm.abandonPunches (Calm.eachClaimed (Calm.onEngine h _) ?_))) ?_) _) ?_) _) _
    · exact fun n _ hu => hu.emptyEngineQueue n
    · exact fun n _ hu => hu.offerEngine n _
    · exact fun n _ hu => hu.endChase n
  · exact h

theorem Calm.progress (h : Calm s t) (fs : List (Nat × List Byte)) : Calm s (t.progress fs) := by
  unfold State.progress
  split
  · exact h
  · split
    · exact h
    · split
      · next e => exact h.of_writeAll e
      · next e => exact (h.of_writeAll e).abort _

theorem Calm.enterRunning (h : Calm s t) (st : EngineState) : Calm s (t.enterRunning st) := by
  unfold State.enterRunning
  split
  · exact h.onEngine _
  · dsimp only
    split
    · next e => exact ((h.onEngine _).of_writeMem e).onEngine _
    · next e => exact ((h.onEngine _).of_writeMem e).abort _

/-! ## Command lists -/

theorem Calm.completeRecord (h : Calm s t) (n : Deck) (r : HeldRecord) (x : HostResult) :
    Calm s (t.completeRecord n r x) := by
  unfold State.completeRecord
  refine Calm.onList ?_ n _
  split
  · next e => exact (h.of_writeAll e).raise _
  · next e => exact h.of_writeAll e

theorem Calm.completeOffered (h : Calm s t) (n : Deck) (r : HeldRecord) (x : HostResult) (v : Nat) :
    Calm s (t.completeOffered n r x v) := (h.offerDeck n _ _ _).completeRecord n _ _

theorem Calm.refuseRecord (h : Calm s t) (n : Deck) (a f : Nat) : Calm s (t.refuseRecord n a f).2 := by
  unfold State.refuseRecord
  dsimp only
  split
  · next e => exact h.of_writeAll e
  · next e =>
    dsimp only
    exact (((h.of_writeAll e).offerDeck n _ _ _).raise _).onList n _

theorem Calm.takeSlot (h : Calm s t) (n : Deck) (a : Nat) : Calm s (t.takeSlot n a).2 := by
  unfold State.takeSlot
  split
  · next e => exact h.of_readMem e
  · next e =>
    have h1 := h.of_readMem e
    split
    · exact h1.refuseRecord n _ _
    · split
      · next e' => exact h1.of_writeMem e'
      · next e' =>
        dsimp only
        exact (h1.of_writeMem e').onList n _

theorem Calm.scanSlots (h : Calm s t) (n : Deck) (fuel : Nat) : Calm s (t.scanSlots n fuel) := by
  induction fuel generalizing t with
  | zero => exact h
  | succ fuel ih =>
    unfold State.scanSlots
    dsimp only
    split
    · next e => exact h.of_readMem e
    · next v w e =>
      have h1 := h.of_readMem e
      split
      · exact h1
      · have h2 := h1.takeSlot n (t.ringSlot n (t.deck n).list.nextSlot)
        split
        · next e' => rw [e'] at h2; exact ih h2
        · next e' => rw [e'] at h2; exact h2

theorem Calm.scan (h : Calm s t) (n : Deck) : Calm s (t.scan n) :=
  (((h.onList n _).setAttention _ _).scanSlots n _).ite ((h.onList n _).onList n _)

theorem Calm.completeFromEngine (h : Calm s t) (n : Deck) (o : EngineOutcome) : Calm s (t.completeFromEngine n o) := by
  unfold State.completeFromEngine
  split
  · exact h
  · split
    · exact h.completeOffered n _ _ _
    · exact h.completeRecord n _ _

theorem Calm.hostHalt (h : Calm s t) (n : Deck) : Calm s (t.hostHalt n) := by
  unfold State.hostHalt
  dsimp only
  have h1 : Calm s ((t.onList n fun l => { l with queue := markHead .engine l.queue }).abort .hostHalt) :=
    (h.onList n _).abort _
  split
  · exact h1
  · exact h1.completeFromEngine n _

theorem Calm.refuseClaimed (h : Calm s t) (n : Deck) (r : HeldRecord) : Calm s (t.refuseClaimed n r) :=
  h.completeOffered n _ _ _

theorem Calm.examineMotion (h : Calm s t) (n : Deck) (r : HeldRecord) (c : LinkCommand) :
    Calm s (t.examineMotion n r c) :=
  (h.completeOffered n _ _ _).ite ((h.completeOffered n _ _ _).ite (h.endChase n))

theorem Calm.examineHead (h : Calm s t) (n : Deck) : Calm s (t.examineHead n) := by
  unfold State.examineHead
  dsimp only
  have h1 : Calm s (t.onList n fun l => { l with examine := false }) := h.onList n _
  generalize (t.onList n fun l => { l with examine := false }) = v at h1 ⊢
  split
  · exact h1
  · exact h1
  · split
    · exact (h1.hostHalt n).ite (h1.examineMotion n _ _)
    · exact (h1.refuseClaimed n _).ite (h1.examineMotion n _ _)
    · exact (h1.refuseClaimed n _).ite ((h1.startChase n _ _ _ _).completeRecord n _ _)
    · exact (h1.refuseClaimed n _).ite (((h1.endChase n).emptyTrim n).completeRecord n _ _)
    · refine Calm.completeRecord (Calm.onDeck h1 n ?_) n _ _
      exact fun _ => ⟨rfl, rfl⟩

theorem Calm.serviceRounds (h : Calm s t) (n : Deck) (fuel : Nat) : Calm s (t.serviceRounds n fuel) := by
  induction fuel generalizing t with
  | zero => exact h
  | succ fuel ih => exact (ih (h.scan n)).ite ((ih (h.examineHead n)).ite h)

theorem Calm.service (h : Calm s t) (n : Deck) : Calm s (t.service n) := h.ite (h.serviceRounds n _)

theorem Calm.examineSoon (h : Calm s t) (n : Deck) : Calm s (t.examineSoon n) := h.onList n _

theorem Calm.hostTaken (h : Calm s t) (n : Deck) (c : LinkCommand) : Calm s (t.hostTaken n c) := by
  unfold State.hostTaken
  split
  · exact h
  · exact (h.onList n _).ite (h.completeRecord n _ _)

theorem Calm.hostRefused (h : Calm s t) (n : Deck) (r : RefusalReason) : Calm s (t.hostRefused n r) := by
  unfold State.hostRefused
  split
  · exact h
  · exact h.completeOffered n _ _ _

theorem Calm.hostFaulted (h : Calm s t) (n : Deck) (c : FaultCode) : Calm s (t.hostFaulted n c) := by
  unfold State.hostFaulted
  split
  · exact h
  · exact h.completeRecord n _ _

theorem Calm.hostOvertaken (h : Calm s t) (n : Deck) : Calm s (t.hostOvertaken n) := by
  unfold State.hostOvertaken
  split
  · exact h
  · exact h.completeOffered n _ _ _

theorem Calm.hostSeekEnd (h : Calm s t) (n : Deck) (c : Option FaultCode) : Calm s (t.hostSeekEnd n c) := by
  unfold State.hostSeekEnd
  split
  · exact h
  · split
    · exact h.completeRecord n _ _
    · exact h.completeRecord n _ _

theorem Calm.faultHeldRecords (h : Calm s t) (n : Deck) : Calm s (t.faultHeldRecords n) :=
  h.foldl (fun r _ hu => hu.completeRecord n r _) _

/-! ## The edit list -/

theorem Calm.refuseEvent (h : Calm s t) (a : Nat) (r : List Byte) (f : Nat) : Calm s (t.refuseEvent a r f) := by
  unfold State.refuseEvent
  split
  · next e => exact h.of_writeAll e
  · next e => exact ((h.of_writeAll e).raise _).onEngine _

theorem Calm.claim (h : Calm s t) (n : Deck) : Calm s (t.claim n) := ((h.endChase n).onLink n _).examineSoon n

theorem Calm.offerRunning (h : Calm s t) (n : Deck) (c : LinkCommand) : Calm s (t.offerRunning n c) := by
  unfold State.offerRunning
  split
  · split
    · next e => exact h.of_offerEngine e
    · next e => exact (h.of_offerEngine e).abort _
  · exact h

theorem Calm.offerCue (h : Calm s t) (e : Event) (n : Deck) : Calm s (t.offerCue e n) := h.offerRunning n _

theorem Calm.takeEvent (h : Calm s t) (a : Nat) (e : Event) : Calm s (t.takeEvent a e) := by
  unfold State.takeEvent
  split
  · next e' => exact h.of_writeMem e'
  · next e' =>
    refine Calm.foldl (Calm.onEngine (Calm.foldl (Calm.foldl (Calm.onEngine (h.of_writeMem e') _) ?_ _) ?_ _) _) ?_ _
    · exact fun n _ hu => hu.claim n
    · exact fun n _ hu => hu.service n
    · exact fun n _ hu => hu.offerCue e n

theorem Calm.take (h : Calm s t) : Calm s t.take := by
  unfold State.take
  dsimp only
  split
  · next e => exact h.of_readMem e
  · next e =>
    have h1 := h.of_readMem e
    split
    · exact h1
    · split
      · next e' => exact h1.of_readMem e'
      · next e' =>
        split
        · exact (h1.of_readMem e').refuseEvent _ _ _
        · exact (h1.of_readMem e').takeEvent _ _

theorem Calm.attendTake (h : Calm s t) : Calm s t.attendTake :=
  (((h.setAttention _ _).onEngine _).take).ite (h.setAttention _ _)

/-! ## Edit execution -/

theorem Calm.finishEvent (h : Calm s t) : Calm s t.finishEvent := by
  unfold State.finishEvent
  have h1 : Calm s (((t.raise (if t.engine.completionFault.isNone then .editDone else .editFault)).onGenerator
      fun g => { g.rest with recordTally := false }).eachDeck fun n s => s.onDeck n DeckUnit.dropEngine) :=
    ((h.raise _).onGenerator _).eachDeck fun n _ hu => hu.onDeck n fun _ => ⟨rfl, rfl⟩
  exact ((h1.onEngine _).take).ite (h1.onEngine _)

theorem Calm.completeEvent (h : Calm s t) : Calm s t.completeEvent := by
  unfold State.completeEvent
  split
  · split
    · next e => exact (h.of_writeAll e).finishEvent
    · next e => exact (h.of_writeAll e).onEngine _
  · exact h

theorem Calm.tryComplete (h : Calm s t) : Calm s t.tryComplete :=
  h.ite (h.completeEvent.ite (h.completeEvent.ite h))

theorem Calm.setEndFault (h : Calm s t) (c : FaultCode) : Calm s (t.setEndFault c) := h.onEngine _

theorem Calm.haltEnded (h : Calm s t) (n : Deck) (o : EngineOutcome) : Calm s (t.haltEnded n o) := by
  unfold State.haltEnded
  refine Calm.tryComplete (Calm.completeFromEngine (Calm.onEngine ?_ _) n o)
  split
  · exact h.setEndFault _
  · exact h.setEndFault _
  · exact h

theorem Calm.writePunch (h : Calm s t) (i : PunchId) : Calm s (t.writePunch i) := h.progress _

theorem Calm.logEdit (h : Calm s t) (k : Nat) (ev : Event) (f : Nat) : Calm s (t.logEdit k ev f) :=
  (h.appendLog _).ite h

theorem Calm.punchInTaken (h : Calm s t) (i : PunchId) (ev : Event) : Calm s (t.punchInTaken i ev) := by
  unfold State.punchInTaken
  dsimp only
  have h0 := h.setPunch i .taken
  have h1 := (h0.onGenerator fun g => { g with recordTally := true }).ite (c := (!t.engine.punches.inTaken) = true) h0
  have h2 := h1.writePunch i
  exact h1.ite (((((h2.enterRunning _).raise _).ite h2).logEdit _ _ _).ite h2)

theorem Calm.punchOutTaken (h : Calm s t) (ev : Event) : Calm s (t.punchOutTaken ev) := by
  unfold State.punchOutTaken
  dsimp only
  split
  · exact ((((h.setPunch _ _).onEngine _).progress _).logEdit _ _ _)
  · exact h.setPunch _ _

theorem Calm.punchLost (h : Calm s t) (i : PunchId) (st : PunchStatus) (a b : FaultCode) :
    Calm s (t.punchLost i st a b) :=
  (((h.setPunch i st).writePunch i).abort _).ite ((((h.setPunch i st).writePunch i).setEndFault _).ite
    ((h.setPunch i st).writePunch i))

theorem Calm.punchEnded (h : Calm s t) (i : PunchId) (o : EngineOutcome) : Calm s (t.punchEnded i o) := by
  unfold State.punchEnded
  dsimp only
  have h1 : Calm s (match o, t.engine.working with
    | .taken, some ev => if i = .out then t.punchOutTaken ev else t.punchInTaken i ev
    | .taken, none => t
    | .refused _, _ => t.punchLost i .refused .recordRefused .deckRefused
    | .faulted c, _ => t.punchLost i .failed .deckFailed c) := by
    split
    · exact (h.punchOutTaken _).ite (h.punchInTaken _ _)
    · exact h
    · exact h.punchLost _ _ _ _
    · exact h.punchLost _ _ _ _
  exact (h1.onGenerator _).tryComplete.ite h1

theorem Calm.moveEnded (h : Calm s t) (o : EngineOutcome) : Calm s (t.moveEnded o) := by
  unfold State.moveEnded
  split
  · exact h
  · exact h.abort _
  · exact (h.setEndFault _).ite (h.abort _)

theorem Calm.engineOutcome (h : Calm s t) (n : Deck) (c : LinkCommand) (p : Option PunchId) (o : EngineOutcome) :
    Calm s (t.engineOutcome n c p o) := by
  unfold State.engineOutcome
  split
  · exact h.punchEnded _ _
  · exact (h.haltEnded n o).ite (h.moveEnded o)

theorem Calm.cueArrived (h : Calm s t) (n : Deck) : Calm s (t.cueArrived n) :=
  (((h.onEngine _).enterRunning _).ite (h.onEngine _)).ite h

theorem Calm.cueFailed (h : Calm s t) (c : FaultCode) : Calm s (t.cueFailed c) := (h.abort _).ite h

theorem Calm.engineState (h : Calm s t) (n : Deck) (d : DeckState) : Calm s (t.engineState n d) := (h.abort _).ite h

theorem Calm.startRequest (h : Calm s t) (k : StartKind) : Calm s (t.startRequest k) := (h.onEngine _).ite h

theorem Calm.chaseIdeal (h : Calm s t) (ev : Event) (n : Deck) : Calm s (t.chaseIdeal ev n) :=
  (h.startChase n _ _ _ _).ite h

theorem Calm.rollEvent (h : Calm s t) (ev : Event) : Calm s (t.rollEvent ev) := by
  unfold State.rollEvent
  dsimp only
  split
  · refine Calm.enterRunning (Calm.onEngine (Calm.onGenerator (Calm.eachClaimed (Calm.eachClaimed (Calm.onEngine h _)
      ?_) ?_) _) _) _
    · exact fun n _ hu => hu.offerRunning n _
    · exact fun n _ hu => hu.chaseIdeal ev n
  · refine Calm.eachClaimed (Calm.eachClaimed (Calm.onEngine h _) ?_) ?_
    · exact fun n _ hu => hu.offerRunning n _
    · exact fun n _ hu => hu.chaseIdeal ev n

theorem Calm.enterSynced (h : Calm s t) : Calm s t.enterSynced := (h.enterRunning _).raise _

theorem Calm.proceedUnlocked (h : Calm s t) (l : List Deck) : Calm s (t.proceedUnlocked l) :=
  ((((h.enterRunning _).onEngine _).progress _).raise _).foldl (fun n _ hu => hu.offerDeck n _ _ _) l

theorem Calm.syncCheck (h : Calm s t) (ev : Event) : Calm s (t.syncCheck ev) := by
  unfold State.syncCheck
  dsimp only
  split
  · split
    · exact ((h.onEngine _).progress _).enterSynced
    · split
      · exact ((h.onEngine _).progress _).abort _
      · exact ((h.onEngine _).progress _).proceedUnlocked _
  · exact (h.onEngine _).progress _

theorem Calm.offerPunch (h : Calm s t) (i : PunchId) (r : Deck) (c : LinkCommand) : Calm s (t.offerPunch i r c) := by
  unfold State.offerPunch
  split
  · next e => exact (h.of_offerEngine e).setPunch _ _
  · next e => exact (((h.of_offerEngine e).setPunch _ _).writePunch _).abort _

theorem Calm.abandonPunch (h : Calm s t) (i : PunchId) (r : Deck) : Calm s (t.abandonPunch i r) :=
  let h1 := ((h.onArbiter r fun a =>
    { a with engineQueue := a.engineQueue.filter fun q => !(q.live && q.punch == some i) }).setPunch i
      .abandoned).writePunch i
  (h1.abort _).ite h1

theorem Calm.rehearseIn (h : Calm s t) : Calm s t.rehearseIn := (h.enterRunning _).raise _

theorem Calm.recordOut (h : Calm s t) : Calm s t.recordOut :=
  (h.eachClaimed (f := State.endChase) fun n _ hu => hu.endChase n).enterRunning _

theorem Calm.offerEndingHalt (h : Calm s t) (n : Deck) : Calm s (t.offerEndingHalt n) := by
  unfold State.offerEndingHalt
  split
  · next e => exact h.of_offerEngine e
  · next e => exact (((h.of_offerEngine e).setEndFault _).onEngine _).completeFromEngine n _

theorem Calm.endPostroll (h : Calm s t) : Calm s t.endPostroll :=
  (((h.enterRunning _).onEngine _).eachClaimed (f := State.offerEndingHalt) fun n _ hu =>
    hu.offerEndingHalt n).tryComplete

theorem Calm.fireTrigger (h : Calm s t) (i : Nat) (x : Trigger) : Calm s (t.fireTrigger i x) :=
  (h.requestPulse _ _ _).onEngine _

theorem Calm.punchBegun (h : Calm s t) (i : PunchId) : Calm s (t.punchBegun i) := h.onEngine _

/-! ## The deck link -/

theorem Calm.takeByte (h : Calm s t) (n : Deck) : Calm s (t.takeByte n) := by
  unfold State.takeByte
  dsimp only
  split
  · exact h
  · exact ((h.onRx n _).onLink n _).ite (((((h.onRx n _).offerDeck n _ _ _).ite (h.onRx n _)).onLink n _).ite
      (h.onRx n _))

theorem Calm.beginFrame (h : Calm s t) (n : Deck) (e : Exchange) : Calm s (t.beginFrame n e) := by
  unfold State.beginFrame
  dsimp only
  have h1 : Calm s (t.onDeck n fun d =>
    { d with
      link := { d.link with exchange := some { e with tag := (t.deck n).link.nextTag, phase := .sending, timer := none }
                            nextTag := d.link.nextTag + 1, judged := none }
      tx := d.tx.start (commandFrame (t.deck n).link.nextTag e.command) }) := h.onDeck n fun _ => ⟨rfl, rfl⟩
  split
  · exact (h1.onChase n _).ite h1
  · exact (h1.punchBegun _).ite h1
  · exact h1.onDeck n fun _ => ⟨rfl, rfl⟩
  · exact h1

theorem Calm.endSeek (h : Calm s t) (n : Deck) (c : Option FaultCode) : Calm s (t.endSeek n c) := by
  unfold State.endSeek
  dsimp only
  split
  · exact h
  · have h1 : Calm s (t.onLink n fun l => { l with seek := none, seekTimer := none }) := h.onLink n _
    split
    · exact h1.hostSeekEnd n _
    · exact (h1.cueArrived n).ite h1
    · exact (h1.cueFailed _).ite h1
    · exact h1.chaseArrived n _
    · exact h1.chaseSeekFailed n _ _
    · exact h1

theorem Calm.deckFrameSent (h : Calm s t) (n : Deck) : Calm s (t.deckFrameSent n) := by
  unfold State.deckFrameSent
  dsimp only
  split
  · exact h
  · next e he =>
    have h1 : Calm s (t.onDeck n fun d => { d with link :=
        { d.link with exchange := some { e with phase := .awaiting, timer := some d.settings.replyTimeout } } }) :=
      h.onDeck n fun _ => ⟨rfl, rfl⟩
    exact ((h1.offerDeck n _ _ _).endSeek n _).ite h1

theorem Calm.deliverTaken (h : Calm s t) (n : Deck) (e : Exchange) : Calm s (t.deliverTaken n e) := by
  unfold State.deliverTaken
  dsimp only
  have h1 : Calm s (t.onDeck n fun d => { d with link := d.link.makeSeek e d.settings.seekLimit }) :=
    h.onDeck n fun _ => ⟨rfl, rfl⟩
  split
  · exact h1.hostTaken n _
  · exact (h1.engineOutcome n _ _ _).ite h1
  · exact h1

theorem Calm.deliverRefused (h : Calm s t) (n : Deck) (e : Exchange) (r : RefusalReason) :
    Calm s (t.deliverRefused n e r) := by
  unfold State.deliverRefused
  split
  · exact h.hostRefused n _
  · exact (h.engineOutcome n _ _ _).ite h
  · exact (h.chaseRejected n _).ite h
  · exact h

theorem Calm.deliverState (h : Calm s t) (n : Deck) (d : DeckState) : Calm s (t.deliverState n d) :=
  ((((h.onLink n _).endSeek n _).ite (h.onLink n _)).onTracker n _).engineState n d

theorem Calm.finalReply (h : Calm s t) (n : Deck) (e : Exchange) (r : Reply) (f : FieldCount) :
    Calm s (t.finalReply n e r f) := by
  unfold State.finalReply
  dsimp only
  split
  · exact (h.onLink n _).deliverTaken n e
  · exact (h.onLink n _).deliverRefused n e _
  · exact (h.onLink n _).deliverState n _
  · exact (h.onLink n _).takePosition n _ _
  · exact h.onLink n _

theorem Calm.endFailed (h : Calm s t) (n : Deck) (b : Bool) : Calm s (t.endFailed n b) :=
  h.onDeck n fun _ => ⟨rfl, rfl⟩

theorem Calm.failExchange (h : Calm s t) (n : Deck) (w : Failure) : Calm s (t.failExchange n w) := by
  unfold State.failExchange
  dsimp only
  split
  · exact h
  · split
    · exact ((h.endFailed n _).hostOvertaken n).ite ((h.beginFrame n _).ite
        (((h.offerDeck n _ _ _).endFailed n _).hostFaulted n _))
    · exact (h.beginFrame n _).ite ((((h.offerDeck n _ _ _).endFailed n _).engineOutcome n _ _ _).ite
        ((h.offerDeck n _ _ _).endFailed n _))
    · exact ((h.endFailed n _).chaseRejected n _).ite (h.endFailed n _)
    · exact h.endFailed n _
    · exact h.endFailed n _

theorem Calm.holdOn (h : Calm s t) (n : Deck) : Calm s (t.holdOn n) := h.onDeck n fun _ => ⟨rfl, rfl⟩

theorem Calm.actOnFrame (h : Calm s t) (n : Deck) : Calm s (t.actOnFrame n) := by
  unfold State.actOnFrame
  dsimp only
  split
  · exact h
  · exact h.onLink n _
  · exact (h.onLink n _).failExchange n _
  · exact (h.onLink n _).holdOn n
  · exact (h.onLink n _).finalReply n _ _ _
  · exact h.onLink n _

theorem Calm.enterDown (h : Calm s t) (n : Deck) : Calm s (t.enterDown n) :=
  let h1 := (((((h.onLink n fun l => { l with state := .down, downDue := false }).faultHeldRecords n).endSeek n
    (some .linkDown)).offerDeck n 3 .linkDown 0).raise .deckFault).onTracker n Tracker.linkLost
  ((h1.abort _).ite h1).examineSoon n

theorem Calm.cutExchange (h : Calm s t) (n : Deck) : Calm s (t.cutExchange n) := by
  unfold State.cutExchange
  dsimp only
  split
  · exact h
  · refine Calm.offerDeck ?_ n _ _ _
    have h1 : Calm s (t.onLink n fun l => { l with exchange := none, failures := 0, judged := none }) := h.onLink n _
    split
    · exact h1.hostFaulted n _
    · exact (h1.engineOutcome n _ _ _).ite h1
    · exact (h1.chaseRejected n _).ite h1
    · exact h1

theorem Calm.enterAbsent (h : Calm s t) (n : Deck) : Calm s (t.enterAbsent n) := by
  unfold State.enterAbsent
  refine Calm.examineSoon (Calm.endChase (Calm.onDeck ((h.cutExchange n).endSeek n _) n ?_) n) n
  exact fun _ => ⟨rfl, rfl⟩

theorem Calm.enterProbing (h : Calm s t) (n : Deck) : Calm s (t.enterProbing n) := by
  unfold State.enterProbing
  refine Calm.onDeck ((h.cutExchange n).endSeek n _) n ?_
  exact fun _ => ⟨rfl, rfl⟩

theorem Calm.seekExpired (h : Calm s t) (n : Deck) : Calm s (t.seekExpired n) :=
  (h.offerDeck n _ _ _).endSeek n _

theorem Calm.makePoll (h : Calm s t) (n : Deck) : Calm s (t.makePoll n) := h.ite (h.onLink n _)

theorem Calm.pollExpired (h : Calm s t) (n : Deck) : Calm s (t.pollExpired n) := by
  unfold State.pollExpired
  have h1 : Calm s (t.onDeck n fun d =>
      { d with link := { d.link with pollTimer := loadTimer d.settings.pollInterval } }) :=
    h.onDeck n fun _ => ⟨rfl, rfl⟩
  exact (h1.ite (h1.makePoll n)).pollRequest n

theorem Calm.boundaryPoll (h : Calm s t) (n : Deck) : Calm s (t.boundaryPoll n) := (h.makePoll n).ite h

theorem Calm.handOver (h : Calm s t) (n : Deck) (c : Choice) : Calm s (t.handOver n c) := by
  unfold State.handOver
  dsimp only
  split
  · exact (h.onArbiter n _).beginFrame n _
  · exact (h.emptyTrim n).beginFrame n _
  · exact (h.completeOffered n _ _ _).ite ((h.onList n _).beginFrame n _)
  · exact (h.onArbiter n _).beginFrame n _
  · exact h.beginFrame n _

theorem Calm.arbitrate (h : Calm s t) (n : Deck) (fuel : Nat) : Calm s (t.arbitrate n fuel) := by
  induction fuel generalizing t with
  | zero => exact h
  | succ fuel ih =>
    unfold State.arbitrate
    split
    · split
      · exact h
      · exact (ih ((h.handOver n _).service n)).ite (h.handOver n _)
    · exact h

/-- The settling of the decks is calm. -/
theorem Calm.settleDecks (h : Calm s t) : Calm s t.settleDecks :=
  (h.eachDeck (f := fun n s => s.service n) fun n _ hu => hu.service n).eachDeck fun n _ hu => hu.arbitrate n 32

/-! ## The part's own acts -/

theorem Calm.onEvent (h : Calm s t) {f : State → Event → State} (hf : ∀ ev u, Calm s u → Calm s (f u ev)) :
    Calm s (t.onEvent f) := by
  unfold State.onEvent
  split
  · exact h
  · exact hf _ _ h

/-- Every act of the tick class is calm. -/
theorem Calm.run (h : Calm s t) (a : Act) : Calm s (a.run t) := by
  cases a with
  | frame n => exact h.actOnFrame n
  | reply n => exact h.failExchange n _
  | seek n => exact h.seekExpired n
  | poll n => exact h.pollExpired n
  | gap n => exact h.enterFlywheel n
  | limit n => exact h.endFlywheel n
  | pulse l => exact h.onPulses fun g => g.pulses.set l none
  | roll => exact h.onEvent fun ev _ hu => hu.rollEvent ev
  | trigger i =>
    unfold Act.run
    dsimp only
    split
    · exact h
    · exact h.fireTrigger _ _
  | window p => exact h.setPunch _ _
  | sync => exact h.onEvent fun ev _ hu => hu.syncCheck ev
  | abandon p => exact h.onEvent fun ev _ hu => hu.abandonPunch _ _
  | punchIn p => exact h.onEvent fun ev _ hu => hu.offerPunch _ _ _
  | rehearseIn => exact h.rehearseIn
  | punchOut => exact h.onEvent fun ev _ hu => hu.offerPunch _ _ _
  | recordOut => exact h.recordOut
  | endPostroll => exact h.endPostroll
  | retry => exact h.completeEvent

theorem Calm.row (h : Calm s t) (a : Act) : Calm s (t.row a) := ((h.run a).settleDecks).ite h

theorem Calm.immediateDeck (h : Calm s t) (n : Deck) : Calm s (t.immediateDeck n) := by
  unfold State.immediateDeck
  have h1 : Calm s (if (t.deck n).link.downDue then t.enterDown n else t) := (h.enterDown n).ite h
  generalize (if (t.deck n).link.downDue then t.enterDown n else t) = v at h1 ⊢
  have h2 : Calm s (if (v.deck n).chase.lockDue then v.lockChase n else v) := (h1.lockChase n).ite h1
  exact (h2.unlockChase n).ite h2

end Sys2Proof.Machine
end

