-- ==== Sys2Proof/Laws/Kept.lean ====
section
/-!
SUPPORT. The field tick and the acts that come before a command keep the memory's form, everything above the limit, and
every pending cause and device fault; and what is at rest is left as it is.
-/

namespace Sys2Proof.Machine

variable {s t u : State}

theorem Kept.then (h : Kept s t) (k : Calm t u) : Kept s u := h.trans k.toKept

theorem Kept.ite {c : Prop} [Decidable c] (h : Kept s t) (k : Kept s u) : Kept s (if c then t else u) := by
  split <;> assumption

theorem Kept.foldl {α : Type} (h : Kept s t) {f : State → α → State} (hf : ∀ x u, Kept s u → Kept s (f u x))
    (l : List α) : Kept s (l.foldl f t) := by
  induction l generalizing t with
  | nil => exact h
  | cons x l ih => exact ih (hf x t h)

theorem Kept.eachDeck (h : Kept s t) {f : Deck → State → State} (hf : ∀ n u, Kept s u → Kept s (f n u)) :
    Kept s (t.eachDeck f) :=
  hf _ _ (hf _ _ (hf _ _ (hf _ _ (hf _ _ (hf _ _ h)))))

theorem Kept.onDeck (h : Kept s t) (n : Deck) (f : DeckUnit → DeckUnit) : Kept s (t.onDeck n f) :=
  h.of_same rfl rfl rfl rfl rfl

theorem Kept.onTimeline (h : Kept s t) (f : Timeline → Timeline) : Kept s (t.onTimeline f) :=
  h.of_same rfl rfl rfl rfl rfl

theorem Kept.onGpi (h : Kept s t) (f : GpiUnit → GpiUnit) : Kept s (t.onGpi f) := h.of_same rfl rfl rfl rfl rfl

theorem Kept.onLog (h : Kept s t) (f : LogWriter → LogWriter) : Kept s (t.onLog f) := h.of_same rfl rfl rfl rfl rfl

/-! ## The field tick -/

theorem Calm.writeMirror (h : Calm s t) : Calm s t.writeMirror := h.ite (h.writeAll _)

theorem Calm.writeStatus (h : Calm s t) (n : Deck) : Calm s (t.writeStatus n) := by
  unfold State.writeStatus
  dsimp only
  split
  · split
    · exact h
    · split
      · next e =>
        refine Calm.onDeck (h.of_writeMem e) n ?_
        exact fun _ => ⟨rfl, rfl⟩
      · next e => exact h.of_writeMem e
  · exact h

theorem Calm.tickTimers (h : Calm s t) : Calm s t.tickTimers :=
  h.eachDeck (f := fun n s => s.onLink n Link.tick) fun n _ hu => hu.onLink n _

theorem Kept.fieldFrameTick (h : Kept s t) : Kept s t.fieldFrameTick := by
  unfold State.fieldFrameTick
  have h1 : Kept s (t.onGenerator fun g => g.update t.F) := h.of_same rfl rfl rfl rfl rfl
  dsimp only
  split
  · exact h1.of_same rfl rfl rfl rfl rfl
  · exact h1

/-- A frame boundary is calm but for what it notes. -/
theorem Calm.frameBoundary (h : Calm s t) : Calm s t.frameBoundary := by
  unfold State.frameBoundary
  refine Calm.onEngine (Calm.eachDeck (Calm.eachDeck (Calm.eachDeck (Calm.eachDeck h.writeMirror ?_) ?_) ?_) ?_) _
  · exact fun n _ hu => hu.writeStatus n
  · exact fun n _ hu => hu.boundaryPoll n
  · exact fun n _ hu => hu.flywheelBoundary n
  · exact fun n _ hu => hu.boundaryRequest n

theorem Kept.fieldTick (h : Kept s t) : Kept s t.fieldTick := by
  have h1 : Kept s t.tickTimers.fieldFrameTick := (h.then (Calm.refl t).tickTimers).fieldFrameTick
  exact (h1.then (Calm.refl _).frameBoundary).ite h1

theorem Kept.advance (h : Kept s t) (id : FieldId) (st : RefState) (m : Nat) : Kept s (t.advance id st m) :=
  (h.onTimeline _).fieldTick

/-! ## Acts before a command and before a field advance -/

theorem Kept.loseReference (h : Kept s t) : Kept s t.loseReference := by
  have h1 : Kept s (((t.onTimeline fun t => { t with refState := .lost }).raise .reference).offerDevice 4
      .referenceLost 0) := (h.onTimeline _).then (((Calm.refl _).raise _).offerDevice _ _ _)
  exact (h1.then ((Calm.refl _).abort _)).ite h1

theorem Kept.immediates (h : Kept s t) : Kept s t.immediates := by
  unfold State.immediates
  dsimp only
  have h1 : Kept s (t.eachDeck fun n s => s.immediateDeck n) :=
    h.then ((Calm.refl t).eachDeck fun n _ hu => hu.immediateDeck n)
  generalize (t.eachDeck fun n s => s.immediateDeck n) = v at h1 ⊢
  exact ((h1.loseReference.ite h1).then (Calm.refl _).settleDecks).ite h

theorem Kept.actIfDue (h : Kept s t) (a : Act) : Kept s (t.actIfDue a) :=
  (h.then ((Calm.refl t).run a).settleDecks).immediates.ite h

theorem Kept.catchUp (h : Kept s t) : Kept s t.catchUp := h.foldl (fun a _ hu => hu.actIfDue a) _

theorem Kept.advanceField (h : Kept s t) (id : FieldId) (st : RefState) (m : Nat) :
    Kept s (t.advanceField id st m) :=
  (h.catchUp.advance id st m).then (Calm.refl _).settleDecks

theorem Kept.lockReference (h : Kept s t) : Kept s t.lockReference :=
  (h.advanceField _ _ _).then ((Calm.refl _).raise _)

theorem Kept.settle (h : Kept s t) : Kept s t.settle := by
  unfold State.settle
  dsimp only
  have h1 := h.immediates
  exact h1.lockReference.immediates.ite h1

/-! ## What is at rest -/

theorem immediates_of_none (h : s.immediateDue = false) : s.immediates = s := by simp [State.immediates, h]

/-- A ready part has nothing to do before a command. -/
theorem settle_of_ready (h : s.ready) : s.settle = s := by
  simp [State.settle, immediates_of_none h.2.1, h.2.2]

/-- A command on a ready part acts on the state as it stands. -/
theorem command_of_ready (h : s.ready) (f : State → State) : command f s = .next (f s) := by
  simp [command, settle_of_ready h]

/-- A register write on a ready part acts on the state as it stands. -/
theorem registerWrite_of_ready (h : s.ready) (f : State → State) : registerWrite f s = .next (f s) := by
  simp [registerWrite, h.1, command_of_ready h]

/-- While the reset line is held a register write changes nothing (R194). -/
theorem registerWrite_of_held (h : s.resetHeld = true) (f : State → State) : registerWrite f s = .next s := by
  simp [registerWrite, h]

theorem service_of_rest {n : Deck} (h : s.deckAtRest n) : s.service n = s := by
  simp [State.service, State.serviceRounds, h.1, h.2.1]

theorem arbitrate_of_rest {n : Deck} (h : s.deckAtRest n) (fuel : Nat) : s.arbitrate n fuel = s := by
  cases fuel with
  | zero => rfl
  | succ fuel =>
    unfold State.arbitrate
    obtain h | h := h.2.2
    · simp [h]
    · simp [h]

/-- Decks at rest are left as they are. -/
theorem settleDecks_of_rest (h : s.decksAtRest) : s.settleDecks = s := by
  simp [State.settleDecks, State.eachDeck, service_of_rest (h _), arbitrate_of_rest (h _)]

/-- An act that is due is made by its row, and the decks settled after it. -/
theorem row_of_due {a : Act} (h : a.due s = true) : s.row a = (a.run s).settleDecks := by simp [State.row, h]

end Sys2Proof.Machine
end

