-- ==== Sys2Proof/Laws/Access.lean ====
section
/-!
SUPPORT. What an access to suite memory does, said once: below the limit it is made, at or above it fails and is
recorded; and what the directory's writers leave.
-/

namespace Sys2Proof.Machine

variable {s t : State}

/-! ## Accesses below the limit -/

theorem readMem_of_limit {a n : Nat} (h : a + n ≤ s.iface.limit) : s.readMem a n = (some (s.mem.load a n), s) := by
  simp [State.readMem, State.inLimit, h]

theorem writeMem_of_limit {a : Nat} {bs : List Byte} (h : a + bs.length ≤ s.iface.limit) :
    s.writeMem a bs = (true, { s with mem := s.mem.store a bs }) := by
  simp [State.writeMem, State.inLimit, h]

/-- Bytes written in order from several offsets. -/
def Memory.storeAll (m : Memory) (ws : List (Nat × List Byte)) : Memory :=
  ws.foldl (fun m w => m.store w.1 w.2) m

@[simp] theorem Memory.storeAll_nil (m : Memory) : m.storeAll [] = m := rfl

@[simp] theorem Memory.storeAll_cons (m : Memory) (a : Nat) (bs : List Byte) (ws : List (Nat × List Byte)) :
    m.storeAll ((a, bs) :: ws) = (m.store a bs).storeAll ws := rfl

/-- Writes that all lie below the limit are all made. -/
theorem writeAll_of_limit {ws : List (Nat × List Byte)} (h : ∀ w ∈ ws, w.1 + w.2.length ≤ s.iface.limit) :
    s.writeAll ws = (true, { s with mem := s.mem.storeAll ws }) := by
  induction ws generalizing s with
  | nil => rfl
  | cons w ws ih =>
    obtain ⟨a, bs⟩ := w
    have ha : a + bs.length ≤ s.iface.limit := h (a, bs) (List.mem_cons_self ..)
    simp only [State.writeAll, writeMem_of_limit ha]
    exact ih (s := { s with mem := s.mem.store a bs }) fun w hw => h w (List.mem_cons_of_mem _ hw)

/-! ## Accesses at or above the limit (R182) -/

theorem readMem_above {a n : Nat} (h : s.iface.limit < a + n) : s.readMem a n = (none, s.limitFault a) := by
  have : ¬ a + n ≤ s.iface.limit := by omega
  simp [State.readMem, State.inLimit, this]

theorem writeMem_above {a : Nat} {bs : List Byte} (h : s.iface.limit < a + bs.length) :
    s.writeMem a bs = (false, s.limitFault a) := by
  have : ¬ a + bs.length ≤ s.iface.limit := by omega
  simp [State.writeMem, State.inLimit, this]

theorem limitFault_raises (s : State) (a : Nat) : (s.limitFault a).iface.pending.get .memoryLimit = true := by
  simp [State.limitFault]

/-! ## The directory -/

theorem writeDevice_of_open (h : s.iface.topmem.val ≠ 0) :
    s.writeDevice = { s with
      mem := s.mem.storeAll [(0x31, [byte s.iface.device.code.num]), (0x32, halfSat s.iface.device.offset),
        (0x34, wordOfField s.iface.device.F), (0x30, [byte s.iface.device.severity])] } := by
  simp [State.writeDevice, h, Memory.storeAll]

theorem writeDevice_of_closed (h : s.iface.topmem.val = 0) : s.writeDevice = s := by simp [State.writeDevice, h]

theorem writeStartUp_of_open (h : s.iface.topmem.val ≠ 0) :
    s.writeStartUp = { s with
      mem := s.mem.storeAll [(0x20, [byte s.iface.resetCause.code]), (0x21, [1]), (0x22, [1]),
        (0x31, [byte s.iface.device.code.num]), (0x32, halfSat s.iface.device.offset),
        (0x34, wordOfField s.iface.device.F), (0x30, [byte s.iface.device.severity])]
      iface := { s.iface with startUpDue := false } } := by
  have hl := State.limit_of_page h
  have hw : ∀ w ∈ ([(0x20, [byte s.iface.resetCause.code]), (0x21, [byte Config.revision]), (0x22, [byte 1])] :
      List (Nat × List Byte)), w.1 + w.2.length ≤ s.iface.limit := by
    intro w hw
    simp only [List.mem_cons, List.not_mem_nil, or_false] at hw
    obtain rfl | rfl | rfl := hw <;> (simp only [List.length_cons, List.length_nil]; omega)
  simp only [State.writeStartUp, writeAll_of_limit hw]
  rw [writeDevice_of_open (by simpa using h)]
  rfl

/-- What four consecutive stores leave where the device capture is copied. -/
theorem Memory.load_device {m : Memory} (hm : m.wf = true) (c : Capture) :
    (m.storeAll [(0x31, [byte c.code.num]), (0x32, halfSat c.offset), (0x34, wordOfField c.F),
      (0x30, [byte c.severity])]).load 0x30 8 = c.directory := by
  have h1 := Memory.wf_store 0x31 [byte c.code.num] hm
  have h2 := Memory.wf_store 0x32 (halfSat c.offset) h1
  have h3 := Memory.wf_store 0x34 (wordOfField c.F) h2
  simp only [Memory.storeAll_cons, Memory.storeAll_nil]
  refine List.ext_getElem (by simp [Capture.directory]) fun i hi _ => ?_
  simp only [Memory.length_load] at hi
  simp only [Memory.load, List.getElem_map, List.getElem_range]
  have r0 := Memory.read_store_inside 0x30 [byte c.severity] h3 (i := 0) (by simp)
  have r1 := Memory.read_store_inside 0x31 [byte c.code.num] hm (i := 0) (by simp)
  have r2 := fun i h => Memory.read_store_inside 0x32 (halfSat c.offset) h1 (i := i) h
  have r4 := fun i h => Memory.read_store_inside 0x34 (wordOfField c.F) h2 (i := i) h
  interval_cases i
  · simpa [Capture.directory] using r0
  · rw [Memory.read_store_outside _ _ _ (by simp), Memory.read_store_outside _ _ _ (by simp),
      Memory.read_store_outside _ _ _ (by simp)]
    simpa [Capture.directory] using r1
  all_goals rw [Memory.read_store_outside _ _ _ (by simp)]
  · rw [Memory.read_store_outside _ _ _ (by simp)]
    exact r2 0 (by simp)
  · rw [Memory.read_store_outside _ _ _ (by simp)]
    exact r2 1 (by simp)
  · exact r4 0 (by simp)
  · exact r4 1 (by simp)
  · exact r4 2 (by simp)
  · exact r4 3 (by simp)

end Sys2Proof.Machine
end

