-- ==== Sys2Proof/Laws/Abort.lean ====
section
/-!
SUPPORT. What an abort writes into suite memory, said once: the results of the punches it abandons, and nothing else.
-/

namespace Sys2Proof.Machine

variable {s t : State}

/-! ## The plan after step 2 -/

theorem PunchPlan.get_abandonOpen (p : PunchPlan) (i : PunchId) :
    p.abandonOpen.get i =
      (p.get i).map fun x => if x.inWindow then { x with status := .abandoned } else x := by
  cases i <;> rfl

theorem PunchPlan.window_iff (p : PunchPlan) :
    p.window = true ↔ ∃ i, (p.get i).any Punch.inWindow = true := by
  constructor
  · simp only [PunchPlan.window, Bool.or_eq_true]
    rintro ((h | h) | h)
    · exact ⟨.video, h⟩
    · exact ⟨.audio, h⟩
    · exact ⟨.out, h⟩
  · rintro ⟨i, h⟩
    cases i <;> simp_all [PunchPlan.window, PunchPlan.get]

theorem length_punchBytes (p : Option Punch) : (punchBytes p).length = 5 := by
  cases p with
  | none => rfl
  | some p =>
    simp only [punchBytes]
    split
    · split <;> rfl
    · rfl

/-- The result bytes of a punch abandoned before it was sent (R136). -/
theorem punchBytes_abandoned {x : Punch} (h : x.actual = none) :
    punchBytes (some { x with status := .abandoned }) = halfOfField x.planned ++ [0, 0, 0] := by
  simp [punchBytes, Punch.known, h, half]
  rfl

/-! ## The write of one punch's results -/

/-- With the taken slot below the limit and a result write made before, the results of a punch are written. -/
theorem writeAbandoned_of_held {slot : Fin 64} (h : s.slotHeld slot) (hr : s.engine.results.reached.isSome = true)
    (i : PunchId) :
    s.writeAbandoned i = { s with
      mem := (s.mem.store (s.eventSlot slot + 42) [byte s.engine.punches.flags]).store
        (s.eventSlot slot + punchOffset i) (punchBytes (s.engine.punches.get i)) } := by
  have hn : s.engine.results.reached.isNone = false := by
    cases h' : s.engine.results.reached <;> simp_all
  have hw : s.resultWrites slot (s.engine.punchFields i) =
      [(s.eventSlot slot + 42, [byte s.engine.punches.flags]),
        (s.eventSlot slot + punchOffset i, punchBytes (s.engine.punches.get i))] := by
    simp [State.resultWrites, hn, Engine.punchFields]
  have hl := h.2
  have ho : punchOffset i + 5 ≤ 64 := by cases i <;> decide
  simp only [State.writeAbandoned, h.1, hw]
  rw [writeAll_of_limit]
  · rfl
  · intro w hm
    simp only [List.mem_cons, List.not_mem_nil, or_false] at hm
    obtain rfl | rfl := hm
    · simp only [List.length_cons, List.length_nil]; omega
    · simp only [length_punchBytes]; omega

/-! ## What a run of such writes leaves -/

/-- The results of the punches `l` written one after another: `old` is the memory before, `m` the memory after. -/
structure ResultsWritten (base : Nat) (p : PunchPlan) (l : List PunchId) (old m : Memory) : Prop where
  wf : m.wf = true
  outside : ∀ b, (b < base + 42 ∨ base + 59 ≤ b ∨ b = base + 43) → m.read b = old.read b
  flags : l ≠ [] → m.read (base + 42) = byte p.flags
  written : ∀ i ∈ l, ∀ k, k < 5 → (punchBytes (p.get i))[k]? = some (m.read (base + punchOffset i + k))
  kept : ∀ i, i ∉ l → ∀ k < 5, m.read (base + punchOffset i + k) = old.read (base + punchOffset i + k)

theorem ResultsWritten.nil {base : Nat} {p : PunchPlan} {m : Memory} (h : m.wf = true) :
    ResultsWritten base p [] m m :=
  ⟨h, fun _ _ => rfl, fun h => absurd rfl h, fun _ h => absurd h (by simp), fun _ _ _ _ => rfl⟩

theorem ResultsWritten.snoc {base : Nat} {p : PunchPlan} {l : List PunchId} {old m : Memory}
    (h : ResultsWritten base p l old m) {i : PunchId} (hi : i ∉ l) :
    ResultsWritten base p (l ++ [i]) old
      ((m.store (base + 42) [byte p.flags]).store (base + punchOffset i) (punchBytes (p.get i))) := by
  have w1 := Memory.wf_store (base + 42) [byte p.flags] h.wf
  have r1 := Memory.read_store_inside (base + 42) [byte p.flags] h.wf (i := 0) (by simp)
  have o1 := fun b hb => Memory.read_store_outside m (base + 42) [byte p.flags] (b := b) hb
  have r2 := fun k hk => Memory.read_store_inside (base + punchOffset i) (punchBytes (p.get i)) w1 (i := k) hk
  have o2 := fun b hb => Memory.read_store_outside (m.store (base + 42) [byte p.flags]) (base + punchOffset i)
    (punchBytes (p.get i)) (b := b) hb
  simp only [length_punchBytes, List.length_cons, List.length_nil] at o1 o2 r2
  have ho : ∀ j, 44 ≤ punchOffset j ∧ punchOffset j + 5 ≤ 59 := by intro j; cases j <;> decide
  have hne : ∀ j, j ≠ i → punchOffset j + 5 ≤ punchOffset i ∨ punchOffset i + 5 ≤ punchOffset j := by
    intro j hj
    cases j <;> cases i <;> simp_all [punchOffset]
  have away : ∀ j, j ≠ i → ∀ k < 5,
      ((m.store (base + 42) [byte p.flags]).store (base + punchOffset i) (punchBytes (p.get i))).read
        (base + punchOffset j + k) = m.read (base + punchOffset j + k) := by
    intro j hj k hk
    have := hne j hj
    have := ho j
    rw [o2 _ (by omega), o1 _ (by omega)]
  have hi2 := ho i
  refine ⟨Memory.wf_store _ _ w1, ?_, ?_, ?_, ?_⟩
  · intro b hb
    rw [o2 _ (by omega), o1 _ (by omega)]
    exact h.outside b hb
  · intro _
    rw [o2 _ (by omega)]
    simpa using r1
  · intro j hj k hk
    by_cases hji : j = i
    · subst hji
      rw [r2 k hk]
      simp [length_punchBytes, hk]
    · rw [away j hji k hk]
      have : j ∈ l := by simpa [hji] using hj
      exact h.written j this k hk
  · intro j hj k hk
    simp only [List.mem_append, List.mem_singleton, not_or] at hj
    rw [away j hj.2 k hk]
    exact h.kept j hj.1 k hk

/-- One punch of step 2. -/
theorem ResultsWritten.step {slot : Fin 64} {p : PunchPlan} {l : List PunchId} {old : Memory}
    (hs : s.slotHeld slot) (hr : s.engine.results.reached.isSome = true) (hp : s.engine.punches = p)
    (h : ResultsWritten (s.eventSlot slot) p l old s.mem) {i : PunchId} (hi : i ∉ l) (c : Bool) :
    let t := if c = true then s.writeAbandoned i else s
    t = { s with mem := t.mem } ∧
      ResultsWritten (s.eventSlot slot) p (if c = true then l ++ [i] else l) old t.mem := by
  subst hp
  cases c with
  | false => exact ⟨rfl, h⟩
  | true =>
    simp only [if_true]
    rw [writeAbandoned_of_held hs hr]
    exact ⟨rfl, h.snoc hi⟩

/-- Step 2 of an abort, with the taken slot below the limit and a result write made before. -/
theorem abandonPunches_of_held {slot : Fin 64} (hs : s.slotHeld slot)
    (hr : s.engine.results.reached.isSome = true) (hm : s.memoryOk) :
    ResultsWritten (s.eventSlot slot) s.engine.punches.abandonOpen
      ([PunchId.video, .audio, .out].filter fun i => (s.engine.punches.get i).any Punch.inWindow) s.mem
      s.abandonPunches.mem := by
  unfold State.abandonPunches
  simp only [List.foldl_cons, List.foldl_nil]
  set u := s.onEngine fun e => { e with punches := e.punches.abandonOpen } with hu
  have h0 : ResultsWritten (u.eventSlot slot) s.engine.punches.abandonOpen [] s.mem u.mem := .nil hm
  obtain ⟨e1, h1⟩ := h0.step (s := u) hs hr rfl (i := .video) (by simp)
    ((s.engine.punches.get .video).any Punch.inWindow)
  set v := if (s.engine.punches.get .video).any Punch.inWindow = true then u.writeAbandoned .video else u
  have hs1 : v.slotHeld slot := by rw [e1]; exact hs
  have hr1 : v.engine.results.reached.isSome = true := by rw [e1]; exact hr
  have hp1 : v.engine.punches = s.engine.punches.abandonOpen := by rw [e1]; rfl
  have hb1 : v.eventSlot slot = u.eventSlot slot := by rw [e1]; rfl
  rw [← hb1] at h1
  obtain ⟨e2, h2⟩ := h1.step hs1 hr1 hp1 (i := .audio) (by split <;> simp)
    ((s.engine.punches.get .audio).any Punch.inWindow)
  set w := if (s.engine.punches.get .audio).any Punch.inWindow = true then v.writeAbandoned .audio else v
  have hs2 : w.slotHeld slot := by rw [e2]; exact hs1
  have hr2 : w.engine.results.reached.isSome = true := by rw [e2]; exact hr1
  have hp2 : w.engine.punches = s.engine.punches.abandonOpen := by rw [e2]; exact hp1
  have hb2 : w.eventSlot slot = v.eventSlot slot := by rw [e2]; rfl
  rw [← hb2] at h2
  obtain ⟨-, h3⟩ := h2.step hs2 hr2 hp2 (i := .out) (by split <;> split <;> simp)
    ((s.engine.punches.get .out).any Punch.inWindow)
  have hb : w.eventSlot slot = s.eventSlot slot := by rw [hb2, hb1]; rfl
  rw [hb] at h3
  simp only [List.filter_cons, List.filter_nil]
  refine Eq.subst (motive := fun l => ResultsWritten _ _ l _ _) ?_ h3
  generalize (s.engine.punches.get .video).any Punch.inWindow = a
  generalize (s.engine.punches.get .audio).any Punch.inWindow = b
  generalize (s.engine.punches.get .out).any Punch.inWindow = c
  cases a <;> cases b <;> cases c <;> rfl

/-! ## The rest of an abort writes nothing -/

theorem eachClaimed_mem {f : State → Deck → State} (hf : ∀ u n, (f u n).mem = u.mem) (s : State) :
    (s.eachClaimed f).mem = s.mem := by
  unfold State.eachClaimed
  generalize s.engine.claims = l
  induction l generalizing s with
  | nil => rfl
  | cons n l ih => exact (ih _).trans (hf s n)

theorem offerEngine_mem (s : State) (n : Deck) (r : EngineRequest) : (s.offerEngine n r).2.mem = s.mem := by
  unfold State.offerEngine
  split <;> rfl

theorem endChase_mem (s : State) (n : Deck) : (s.endChase n).mem = s.mem := by
  unfold State.endChase
  split
  · rfl
  · unfold State.moveChase
    dsimp only
    split <;> rfl

theorem abortPunchOut_mem (s : State) : s.abortPunchOut.mem = s.mem := by
  unfold State.abortPunchOut
  split
  · rfl
  · split
    · exact offerEngine_mem _ _ _
    · rfl

/-- Emptying the engine queues leaves everything but the decks. -/
theorem emptyQueues_eq (s : State) : ∃ d, (s.eachClaimed fun s n => s.emptyEngineQueue n) = { s with decks := d } := by
  unfold State.eachClaimed
  generalize s.engine.claims = l
  induction l generalizing s with
  | nil => exact ⟨s.decks, rfl⟩
  | cons n l ih =>
    obtain ⟨d, h⟩ := ih (s.emptyEngineQueue n)
    exact ⟨d, h⟩

/-- An abort in CUEING through POSTROLL writes what its second step writes, and nothing more. -/
theorem abort_mem (code : FaultCode) (h : s.engine.state.running = true) : ∃ d, (s.abort code).mem =
    ({ s with
      decks := d
      engine := { s.engine with state := .aborting, abortCode := some code, rollDue := false } } :
        State).abandonPunches.mem := by
  obtain ⟨d, hd⟩ := emptyQueues_eq
    (s.onEngine fun e => { e with state := .aborting, abortCode := some code, rollDue := false })
  refine ⟨d, ?_⟩
  simp only [State.abort, h, if_true, State.onEngine_mem, State.onGenerator_mem]
  rw [eachClaimed_mem endChase_mem, State.onEngine_mem,
    eachClaimed_mem (f := fun s d => (s.offerEngine d ⟨.halt, true, none⟩).2) fun u n => offerEngine_mem u n _,
    abortPunchOut_mem, hd]
  rfl

/-- With no punch in its window step 2 writes nothing. -/
theorem abandonPunches_of_shut (h : s.engine.punches.window = false) : s.abandonPunches.mem = s.mem := by
  have hw : ∀ i, (s.engine.punches.get i).any Punch.inWindow = false := fun i => by
    cases hi : (s.engine.punches.get i).any Punch.inWindow
    · rfl
    · rw [(PunchPlan.window_iff _).mpr ⟨i, hi⟩] at h
      cases h
  simp [State.abandonPunches, hw]

/-- Step 2 of an abort writes the results of the punches it abandons (R136, R144). -/
theorem abandonPunches_writes (s : State) : s.abandonsWritten s.abandonPunches := by
  refine ⟨abandonPunches_of_shut, fun slot hs hm hr => ?_⟩
  have h := abandonPunches_of_held hs hr hm
  refine ⟨fun b hb => h.outside b (by omega), h.outside _ (by omega), fun hw => h.flags ?_, fun i => ⟨?_, ?_⟩⟩
  · obtain ⟨i, hi⟩ := (PunchPlan.window_iff _).mp hw
    refine List.ne_nil_of_mem (a := i) ?_
    cases i <;> simpa using hi
  · intro x hx hi ha
    have hg : s.engine.punches.abandonOpen.get i = some { x with status := .abandoned } := by
      simp [PunchPlan.get_abandonOpen, hx, hi]
    rw [← punchBytes_abandoned ha, ← hg]
    have hmem : i ∈ [PunchId.video, .audio, .out].filter fun i => (s.engine.punches.get i).any Punch.inWindow := by
      cases i <;> simp [hx, hi]
    refine List.ext_getElem? fun k => ?_
    by_cases hk : k < 5
    · rw [Memory.load_get _ _ _ _ hk, h.written i hmem k hk]
    · rw [List.getElem?_eq_none (by simp; omega), List.getElem?_eq_none (by rw [length_punchBytes]; omega)]
  · intro hx
    have hmem : i ∉ [PunchId.video, .audio, .out].filter fun i => (s.engine.punches.get i).any Punch.inWindow := by
      rw [List.mem_filter]
      rintro ⟨-, hi⟩
      cases hg : s.engine.punches.get i with
      | none => simp [hg] at hi
      | some x => simp [hg, hx x hg] at hi
    refine List.map_congr_left fun k hk => ?_
    exact h.kept i hmem k (List.mem_range.mp hk)

/-- What an abort writes: the results of the punches it abandons (R136, R144). -/
theorem abort_writes (code : FaultCode) (h : s.engine.state.running = true) : s.abandonsWritten (s.abort code) := by
  obtain ⟨d, hd⟩ := abort_mem (s := s) code h
  have := abandonPunches_writes { s with
      decks := d
      engine := { s.engine with state := .aborting, abortCode := some code, rollDue := false } }
  simp only [State.abandonsWritten, State.sameOutside, hd]
  exact this

/-- An abort outside those states has no effect (R143). -/
theorem abort_of_rest (code : FaultCode) (h : s.engine.state.running = false) : s.abort code = s := by
  simp [State.abort, h]

end Sys2Proof.Machine
end

