-- ==== Sys2Proof/Laws/Chase.lean ====
section
/-!
SUPPORT. When a chase is between a return of its master (R98) and the next evaluation, and what row 1 does then.
-/

namespace Sys2Proof.Machine

theorem Chase.resumed_iff (c : Chase) :
    c.resumed = true ↔ c.state = .seeking ∧ c.lastError = none ∧ c.lastCounted ≠ none := by
  simp [Chase.resumed, Option.isSome_iff_ne_none, and_assoc]

/-- An offer changes at most the outstanding seek. -/
theorem Chase.offering_resumed (c : Chase) (cmd : Option LinkCommand) : (c.offering cmd).1.resumed = c.resumed := by
  unfold Chase.offering
  split <;> rfl

/-- A controller that holds a last error has evaluated a sample. -/
theorem Chase.resumed_of_error {c : Chase} (h : c.lastError.isSome = true) : c.resumed = false := by
  cases he : c.lastError <;> simp_all [Chase.resumed]

/-- After an evaluation a sample has been evaluated. -/
theorem Chase.evaluate_resumed (c : Chase) (d : DeckSettings) (x : Sample) (m : Int) (vm : Int) :
    (c.evaluate d x (some (m, vm))).1.lastError = some (sdiff x.kind.dayFields x.pos (c.target x.kind m)) ∧
      (c.evaluate d x (some (m, vm))).1.resumed = false := by
  have h : (c.evaluate d x (some (m, vm))).1.lastError =
      some (sdiff x.kind.dayFields x.pos (c.target x.kind m)) := by
    unfold Chase.evaluate
    dsimp only
    cases hr : chaseRow d vm (sdiff x.kind.dayFields x.pos (c.target x.kind m)) with
    | noMaster =>
      exfalso
      unfold chaseRow at hr
      repeat' split at hr
      all_goals cases hr
    | tooFast => simp only [Chase.offering]; split <;> rfl
    | send => dsimp only; split <;> rfl
    | hold => simp only [Chase.offering]; split <;> split <;> rfl
    | far => dsimp only; split <;> rfl
    | trim =>
      dsimp only
      split
      · rfl
      · simp only [Chase.trimRow, Chase.offering]; split <;> rfl
  exact ⟨h, Chase.resumed_of_error (by simp [h])⟩

/-- The first slave sample after R98 that finds the master lost again enters WAIT and offers nothing (R100). -/
theorem Chase.evaluate_of_resumed {c : Chase} (h : c.resumed = true) (d : DeckSettings) (x : Sample) :
    c.evaluate d x none = (c.unlockedTo .wait x.stamp none, none) := by
  simp [Chase.evaluate, Chase.offering, h]

/-- Row 1 counts a sample, or one has been counted before. -/
theorem Chase.unlockedTo_counted (c : Chase) (st : ChaseState) (f : FieldCount) (e : Option Int) :
    (c.unlockedTo st f e).lastCounted ≠ none := by
  unfold Chase.unlockedTo Chase.counts
  cases c.lastCounted <;> simp
  split <;> simp

/-- The WAIT that row 1 enters, moved to SEEKING by R98, is resumed. -/
theorem Chase.resumed_after_wait (c : Chase) (d : DeckSettings) (x : Sample) :
    ({ (c.evaluate d x none).1 with state := .seeking } : Chase).resumed = true := by
  have hl := c.unlockedTo_counted .wait x.stamp none
  rw [Chase.resumed_iff]
  unfold Chase.evaluate Chase.offering
  dsimp only
  split <;> exact ⟨rfl, rfl, hl⟩

end Sys2Proof.Machine
end

