-- ==== Sys2Proof/Laws/Ports.lean ====
section
/-! SUPPORT. What the receive shift holds after a character, and how long a transmitted character is. -/

namespace Sys2Proof.Machine

/-- One sample shifted in, bit by bit. -/
theorem shiftIn_getLsbD (r : Byte) (b : Bool) (i : Nat) :
    (shiftIn r b).getLsbD i = if i = 7 then b else decide (i < 7) && r.getLsbD (1 + i) := by
  simp [shiftIn, BitVec.getLsbD_cons]

/-- Eight samples shifted in stand in the order they came, the first lowest (R27). -/
theorem receiveShift_eq (r : Byte) (samples : BitVec 8) : receiveShift r samples = samples := by
  refine BitVec.eq_of_getLsbD_eq fun i hi => ?_
  simp only [receiveShift, List.range, List.range.loop, List.foldl, shiftIn_getLsbD]
  interval_cases i <;> simp

/-- A transmitted character has a start bit, eight data bits, a parity bit unless the parity is NONE, and its stop bits (R21). -/
theorem PortSettings.character_length (p : PortSettings) (data : Byte) :
    (p.character data).length = 9 + (if p.parity = .none then 0 else 1) + if p.twoStopBits = true then 2 else 1 := by
  cases h : p.parity <;> simp [PortSettings.character, Parity.bit, h] <;> split <;> omega

end Sys2Proof.Machine
end

