-- ==== Sys2Proof/Laws/Rest.lean ====
section
/-!
SUPPORT. When the command lists and the arbiters have nothing to do, and which changes leave them so.
-/

namespace Sys2Proof.Machine

variable {s t : State}

theorem State.linksBusy.atRest (h : s.linksBusy) : s.decksAtRest :=
  fun n => ⟨(h n).1, (h n).2.1, .inl (h n).2.2⟩

/-- With every link busy the settling of the decks changes nothing. -/
theorem settleDecks_of_busy (h : s.linksBusy) : s.settleDecks = s := settleDecks_of_rest h.atRest

/-- Whether a punch is barred depends on the state of the engine, the punch plan and F. -/
theorem punchBarred_congr (he : t.engine.state = s.engine.state) (hp : t.engine.punches = s.engine.punches)
    (hF : t.timeline.F = s.timeline.F) (r : EngineRequest) : t.punchBarred r = s.punchBarred r := by
  simp only [State.punchBarred, State.F, he, hp, hF]

/-- What an arbiter chooses depends on its deck, on the claims, on whether its punch window is open, and on the punches
that may be sent. -/
theorem choice_congr {n : Deck} (hd : t.deck n = s.deck n) (hc : t.claimed n = s.claimed n)
    (hw : t.punchWindow n = s.punchWindow n) (hb : ∀ r, t.punchBarred r = s.punchBarred r) :
    t.choice n = s.choice n := by
  simp only [State.choice, hd, hc, hw, hb]

/-- A change of neither the decks nor the engine nor F leaves the decks at rest. -/
theorem State.decksAtRest.congr (h : s.decksAtRest) (hd : t.decks = s.decks) (he : t.engine = s.engine)
    (hF : t.timeline.F = s.timeline.F) : t.decksAtRest := by
  intro n
  have hn : t.deck n = s.deck n := by simp only [State.deck, hd]
  have hch : t.choice n = s.choice n :=
    choice_congr hn (by simp only [State.claimed, he]) (by simp only [State.punchWindow, State.recorder, he])
      (punchBarred_congr (by rw [he]) (by rw [he]) hF)
  simp only [State.deckAtRest, hn, hch]
  exact h n

/-- A change of no deck's list or readiness leaves every link busy. -/
theorem State.linksBusy.congr (h : s.linksBusy) (hl : ∀ n, (t.deck n).list.rescan = (s.deck n).list.rescan ∧
    (t.deck n).list.examine = (s.deck n).list.examine) (hf : ∀ n, (t.deck n).free = (s.deck n).free) :
    t.linksBusy := by
  intro n
  rw [(hl n).1, (hl n).2, hf n]
  exact h n

/-- A ready part has no deck about to enter DOWN. -/
theorem State.ready.downDue (h : s.ready) (n : Deck) : (s.deck n).link.downDue = false := by
  have := h.2.1
  simp only [State.immediateDue, Bool.or_eq_false_iff] at this
  have hn : (s.deck n).immediate = false := by
    have := List.any_eq_false.mp this.1 n (by cases n <;> decide)
    simpa using this
  simp only [DeckUnit.immediate, Bool.or_eq_false_iff] at hn
  exact hn.1.1

/-- A ready part has no LOST due. -/
theorem State.ready.lostDue (h : s.ready) : s.timeline.lostDue = false := by
  have := h.2.1
  simp only [State.immediateDue, Bool.or_eq_false_iff] at this
  exact this.2

/-- Setting an attention bit and clearing it again clears it. -/
@[simp] theorem setAttention_clear (s : State) (g : Nat) :
    (s.setAttention g true).setAttention g false = s.setAttention g false := by
  simp only [State.setAttention, State.onIface, if_true, Bool.false_eq_true, if_false]
  congr 2
  ext i hi
  simp only [BitVec.getElem_and, BitVec.getElem_or, BitVec.getElem_not]
  cases s.iface.attention[i] <;> cases (1#13 <<< g)[i] <;> rfl

end Sys2Proof.Machine
end

