-- ==== Sys2Proof/Tests/Slice0.lean ====
section
/-!
SUPPORT. The model's own tests: ill-formed commands that WellFormed refuses, worked examples of the manual on one step,
and, for each obligation with hypotheses, a state that meets them (`test_witness_<obligation>`).
-/

open Sys2Proof Sys2Proof.Machine

namespace Sys2Proof.Tests

/-! ## States -/

/-- A part with all of suite memory below the limit, a configuration accepted and the regions laid out one after
another: six rings from 0x100, the edit list at 0x880, the marks at 0x1880, the probe at 0x1980. -/
def suite : State :=
  { State.reset with
    iface :=
      { Interface.reset .powerOn 256 with
        configured := true
        startUpDue := false
        bases := ⟨⟨0x10, 0x24, 0x38, 0x4C, 0x60, 0x74⟩, 0x88, 0x188, 0x198⟩ } }

/-- `s` with its engine changed. -/
def withEngine (s : State) (f : Engine → Engine) : State := s.onEngine f

/-- A host exchange of HALT awaiting its reply. -/
def halting : Exchange := ⟨.host, .halt, 5, .awaiting, some 3, 2, none, true, none, false⟩

/-- The HALT record it came from, in slot 0 of deck 0's ring. -/
def haltRecord : HeldRecord := ⟨0x100, 7, .motion .halt, .chosen⟩

/-- `s` with exchange `e` outstanding on deck 0's UP link, the frame `j` held, and `q` in the host queue. -/
def exchanging (e : Exchange) (j : Option (JudgedFrame × FieldCount)) (q : List HeldRecord) : State :=
  suite.onDeck .d0 fun d =>
    { d with
      link := { d.link with state := .up, exchange := some e, judged := j }
      list := { d.list with queue := q }
      tx := .started }

/-- An ASSEMBLE event from deck 1 with a cut, record in at frame 9000, claiming decks 0 and 1. -/
def cutEvent : Event where
  number := 12
  perform := true
  start := .host
  recorder := .d0
  insert := false
  mask := 0
  recordIn := 9000
  recordKind := .nd525
  duration := 200
  sourceA := .deck .d1
  aIn := some (21600, .nd525)
  sourceB := none
  bIn := none
  transition := .cut
  pattern := 0
  transitionFrames := 0
  startOffset := 0
  curve := .linear
  split := 0
  preroll := 150
  postroll := 30
  triggers := []
  editDelay := 5

/-- Its schedule when it rolls at field 1000. -/
def cutSchedule : Schedule := cutEvent.schedule 30 1000

/-- The part running that event from slot 3, in state `st` at field `f`. -/
def running (st : EngineState) (f : FieldCount) : State :=
  { suite with
    timeline := { suite.timeline with F := f }
    engine :=
      { Engine.reset with
        state := st
        nextEvent := 4
        working := some cutEvent
        takenSlot := some 3
        claims := [.d0, .d1]
        schedule := some cutSchedule
        punches := punchPlan cutEvent cutSchedule.fIn cutSchedule.fOut
        results := { Results.none with reached := some st } } }

/-! ## WellFormed refuses what is no command of its row -/

/-- A write that the register window acts on is not a write without effect: ATTN with a group number. -/
theorem test_attn_group_is_not_without_effect : (Instr.registerWriteNoEffect .attn 3).wellFormed = false := by decide

/-- COMMAND with one of its three codes. -/
theorem test_command_code_is_not_without_effect : (Instr.registerWriteNoEffect .command 0x3C).wellFormed = false := by
  decide

/-- A write of CAUSE is without effect whatever its value. -/
theorem test_cause_write_is_without_effect : (Instr.registerWriteNoEffect .cause 0xFF).wellFormed = true := by decide

/-- A PUNCH-IN row is not the PUNCH-OUT's. -/
theorem test_punch_out_is_not_queued_as_a_punch_in : (Instr.punchInQueued .out).wellFormed = false := by decide

/-- A PUNCH-OUT is never abandoned (R139). -/
theorem test_punch_out_is_not_abandoned : (Instr.punchAbandoned .out).wellFormed = false := by decide

/-! ## Witnesses: resets and the register window -/

theorem test_witness_StepTakesTheFront : { suite with pending := [.causeRead, .attnTake] }.pending =
    .causeRead :: [.attnTake] := by decide

theorem test_witness_ResetLeavesTimelinePortsAndUnits : (Instr.restart = .powerOn ∨ Instr.restart = .resetLine ∨
    (Instr.restart = .restart ∧ suite.resetHeld = false)) := by decide

theorem test_witness_ResetLeavesDecks : (Instr.powerOn = .powerOn ∨ Instr.powerOn = .resetLine ∨
    (Instr.powerOn = .restart ∧ suite.resetHeld = false)) := by decide

/-- The reset line held, as RESET_LINE leaves it. -/
def heldLine : State := { State.reset with resetHeld := true }

theorem test_witness_ResetLeavesInterfaceAndHeldLine : suite.ready ∧ suite.memoryOk ∧ suite.iface.topmem ≠ 0 ∧
    State.reset.ready ∧ State.reset.memoryOk ∧ State.reset.iface.topmem = 0 ∧ heldLine.resetHeld = true ∧
    heldLine.iface.topmem = 0 ∧ heldLine.immediateDue = false ∧ heldLine.timeline.lockDue = false ∧
    (∀ c, ¬(heldLine.iface.pending.get c = true ∧ heldLine.iface.floor < heldLine.iface.levels.get c)) := by
  constructorm* _ ∧ _ <;> first | decide | (intro n; cases n <;> decide)

/-- DECK_DONE at level 2 and LOG at level 5 are presentable; LOG is taken. -/
def twoCauses : State :=
  (suite.onIface fun i =>
    { i with levels := (i.levels.set .deckDone 2).set .log 5
             pending := (i.pending.set .deckDone true).set .log true })

theorem test_witness_CauseReadTakesHighestLevel : twoCauses.ready ∧ twoCauses.iface.pending.get .log = true ∧
    twoCauses.iface.floor < twoCauses.iface.levels.get .log ∧
    (∀ d, twoCauses.iface.pending.get d = true → twoCauses.iface.floor < twoCauses.iface.levels.get d → d ≠ .log →
      twoCauses.iface.levels.get d < twoCauses.iface.levels.get .log ∨
        (twoCauses.iface.levels.get d = twoCauses.iface.levels.get .log ∧ Cause.log.num < d.num)) ∧
    (∀ c, ¬(suite.iface.pending.get c = true ∧ suite.iface.floor < suite.iface.levels.get c)) := by
  constructorm* _ ∧ _ <;> first | decide | (intro n; cases n <;> decide)

theorem test_witness_LineFloorAndDisregardedWrites : suite.ready ∧ Register.status.disregards 7 = true := by decide

theorem test_witness_TopmemWriteMakesTheRecord : State.reset.ready ∧ State.reset.memoryOk ∧
    State.reset.iface.startUpDue = true ∧ (0x0100 : Half) ≠ 0 ∧
    suite.ready ∧ suite.memoryOk ∧ suite.iface.startUpDue = false ∧ suite.iface.topmem ≠ 0 ∧
    (suite.onIface fun i => { i with topmem := 0 }).ready ∧
    (suite.onIface fun i => { i with topmem := 0 }).iface.topmem = 0 := by decide

theorem test_witness_ClearDeviceFaultClearsTheCapture : suite.ready ∧ suite.memoryOk ∧ suite.iface.topmem ≠ 0 := by
  decide

/-! ## Witnesses: attention groups -/

theorem busy_suite : suite.linksBusy := by intro n; cases n <;> decide

/-- A record in slot 0 of deck 1's ring whose command is no command (CODE 0x30). -/
def badRecord : State := suite.hostStore 0x240 [1, 0x30]

/-- A POSTED RUN record behind four held ones. -/
def fullQueue : State :=
  (suite.hostStore 0x240 [1, 2]).onList .d1 fun l =>
    { l with queue := List.replicate 4 ⟨0x250, 7, .motion .run, .waiting⟩ }

theorem test_witness_ScanDeferredEmptyOrRefusing : State.reset.ready ∧ State.reset.decksAtRest ∧
    State.reset.iface.configured = false ∧ suite.ready ∧ suite.decksAtRest ∧ suite.iface.configured = true ∧
    suite.ringSlot .d1 0 + 1 ≤ suite.iface.limit ∧ suite.mem.read (suite.ringSlot .d1 0) ≠ 1 ∧
    fullQueue.ready ∧ fullQueue.decksAtRest ∧ (fullQueue.deck .d1).list.queue.length = 4 ∧
    fullQueue.mem.read (fullQueue.ringSlot .d1 0) = 1 ∧
    badRecord.ready ∧ badRecord.decksAtRest ∧ (badRecord.deck .d1).list.queue.length < 4 ∧
    (∀ i, badRecord.ringSlot .d1 i + 16 ≤ badRecord.iface.limit) ∧
    badRecord.mem.read (badRecord.ringSlot .d1 0) = 1 ∧ badRecord.mem.read (badRecord.ringSlot .d1 1) ≠ 1 ∧
    parseRecord badRecord.standard .d1 (badRecord.mem.load (badRecord.ringSlot .d1 0) 16) = .error 1 := by
  constructorm* _ ∧ _ <;> first | decide | (intro n; cases n <;> decide)

/-- A RUN record with tag 9 in slot 0 of deck 1's ring, deck 1's link UP and busy. -/
def runRecord : State :=
  (suite.onLink .d1 fun l => { l with state := .up, exchange := some halting }).hostStore 0x240 [1, 2, 9]

theorem test_witness_ScanTakesAValidRecord : runRecord.ready ∧ runRecord.linksBusy ∧
    runRecord.iface.configured = true ∧ (runRecord.deck .d1).list.queue = [] ∧ runRecord.claimed .d1 = false ∧
    (runRecord.deck .d1).chase.state = .off ∧ (runRecord.deck .d1).link.state = .up ∧
    (∀ i, runRecord.ringSlot .d1 i + 16 ≤ runRecord.iface.limit) ∧
    runRecord.mem.read (runRecord.ringSlot .d1 0) = 1 ∧ runRecord.mem.read (runRecord.ringSlot .d1 1) ≠ 1 ∧
    parseRecord runRecord.standard .d1 (runRecord.mem.load (runRecord.ringSlot .d1 0) 16) = .ok (.motion .run) := by
  constructorm* _ ∧ _ <;> first | decide | (intro n; cases n <;> decide)

/-- An event record of an ASSEMBLE by deck 0 from BLACK, 100 frames from 00:05:00:00, in slot 0, AUTO. -/
def eventBytes : List Byte :=
  [1, 0, 12, 0, 0, 0, 0, 0, 0, 5, 0, 0, 0, 1, 100, 0, 0, 0, 0x80, 0xFF, 0, 0, 0, 0, 0, 0, 0, 0, 0, 0, 0, 0, 0, 0, 0, 0, 0,
    0, 0, 0, 30, 0, 0]

/-- The same, posted, deck 0 being a recorder whose link is UP and busy; and one whose record in is not valid. -/
def eventPosted : State :=
  (suite.onDeck .d0 fun d =>
    { d with
      settings := { d.settings with role := .recorder }
      link := { d.link with state := .up, exchange := some halting } }).hostStore 0x880 eventBytes

def eventBad : State := eventPosted.hostStore 0x888 [24]

theorem test_witness_TakeDeferredIgnoredOrRefused : State.reset.ready ∧ State.reset.decksAtRest ∧
    State.reset.iface.configured = false ∧ suite.ready ∧ suite.decksAtRest ∧ suite.iface.configured = true ∧
    suite.engine.state.atRest = true ∧ suite.eventSlot 0 + 1 ≤ suite.iface.limit ∧
    suite.mem.read (suite.eventSlot 0) ≠ 1 ∧
    (running .cued 900).ready ∧ (running .cued 900).decksAtRest ∧ (running .cued 900).engine.state.atRest = false ∧
    eventBad.ready ∧ eventBad.decksAtRest ∧ eventBad.eventSlot 0 + 64 ≤ eventBad.iface.limit ∧
    eventBad.mem.read (eventBad.eventSlot 0) = 1 ∧
    eventBad.checkEvent (eventBad.mem.load (eventBad.eventSlot 0) 64) = .error 7 := by
  constructorm* _ ∧ _ <;> first | decide | (intro n; cases n <;> decide)

/-- The event those bytes hold. -/
def blackEvent : Event :=
  { cutEvent with
    start := .auto, sourceA := .black, aIn := none, duration := 100, editDelay := 5 }

theorem test_witness_TakeCuesAValidEvent : eventPosted.ready ∧ eventPosted.linksBusy ∧
    eventPosted.iface.configured = true ∧ eventPosted.engine.takeInProgress = false ∧
    eventPosted.engine.state.atRest = true ∧ (∀ n, (eventPosted.deck n).list.queue = []) ∧
    (∀ n, (eventPosted.deck n).arbiter.engineQueue = []) ∧ blackEvent.decks.Nodup ∧
    eventPosted.eventSlot 0 + 64 ≤ eventPosted.iface.limit ∧ eventPosted.memoryOk ∧
    eventPosted.mem.read (eventPosted.eventSlot 0) = 1 ∧
    eventPosted.checkEvent (eventPosted.mem.load (eventPosted.eventSlot 0) 64) = .ok blackEvent := by
  constructorm* _ ∧ _ <;> first | decide | (intro n; cases n <;> decide)

theorem test_witness_StartAttentionMakesStartPending : (running .cueing 900).ready ∧
    (running .cueing 900).engine.state = .cueing ∧ (running .cueing 900).engine.working = some cutEvent ∧
    cutEvent.start = .host ∧ suite.ready ∧ suite.engine.state ≠ .cueing ∧ suite.engine.state ≠ .cued := by decide

/-- The event in RECORDING, its PUNCH-IN sent at 1291. -/
def punchedIn : State :=
  withEngine (running .recording 1350) fun e =>
    { e with punches := { e.punches with video := some ⟨15, 1290, .taken, some 1291⟩ } }

/-- Its video punch queued and not sent at 1291, the slot's result bytes 42 to 63 all 0xFF. -/
def punchWaiting : State :=
  let s := (running .synced 1291).setPunch .video .queued
  s.hostStore (s.eventSlot 3 + 42) (List.replicate 22 0xFF)

theorem test_witness_AbortAttentionStopsTheEvent : (running .synced 1250).ready ∧ (running .synced 1250).linksBusy ∧
    (running .synced 1250).engine.state.running = true ∧ (running .synced 1250).engine.claims.Nodup ∧
    (running .synced 1250).engine.working = some cutEvent ∧ (running .synced 1250).engine.claims = cutEvent.decks ∧
    punchedIn.ready ∧ punchedIn.linksBusy ∧ punchedIn.engine.state.running = true ∧
    punchedIn.engine.claims = cutEvent.decks ∧ punchedIn.recorder = some .d0 ∧ punchedIn.engine.punches.open = true ∧
    punchWaiting.ready ∧ punchWaiting.linksBusy ∧ punchWaiting.engine.state.running = true ∧
    punchWaiting.slotHeld 3 ∧ punchWaiting.memoryOk ∧ punchWaiting.engine.results.reached.isSome = true ∧
    punchWaiting.engine.punches.window = true ∧
    punchWaiting.engine.punches.get .video = some ⟨15, 1290, .queued, none⟩ ∧
    (Punch.mk 15 1290 .queued none).inWindow = true ∧ punchWaiting.engine.punches.get .audio = none ∧
    (running .synced 1250).engine.punches.window = false ∧
    suite.ready ∧ suite.decksAtRest ∧ suite.engine.state.running = false ∧ suite.engine.working = none := by
  constructorm* _ ∧ _ <;> first | decide | (intro n; cases n <;> decide)

/-- R136, R144: a punch abandoned by an abort has its results written: not sent, its planned field 1290, no actual field,
no lateness; bytes 43 and 49 on stay. -/
theorem test_abort_writes_the_abandoned_punch :
    (punchWaiting.abort .hostAbort).mem.load (punchWaiting.eventSlot 3 + 42) 8 =
      [0, 0xFF, 0x0A, 0x05, 0, 0, 0, 0xFF] := by decide +kernel

theorem test_witness_MarkLoadAndProbe : State.reset.ready ∧ State.reset.iface.configured = false ∧ suite.ready ∧
    suite.memoryOk ∧ suite.iface.configured = true ∧ 16 * suite.iface.bases.mark + 256 ≤ suite.iface.limit ∧
    16 * suite.iface.bases.probe + 16 ≤ suite.iface.limit := by decide

/-! ## Witnesses: configuration, ports' settings, log, all-stop -/

/-- The directory: rings, edit list, marks, log of 8 entries at 0x2000, configuration at 0x1990, probe. -/
def directory : List Byte :=
  [0x10, 0, 0x24, 0, 0x38, 0, 0x4C, 0, 0x60, 0, 0x74, 0, 0x88, 0, 0x88, 1, 0, 2, 0x99, 1, 0x98, 1, 8, 0]

/-- A deck block of the manual's default values, for a SOURCE. -/
def deckBlock (input : Byte) : List Byte :=
  [1, input, 5, 3, 0x2C, 1, 2, 4, 0x08, 7, 10, 5, 160, 1, 150, 0, 3, 4, 0x2C, 1, 150, 0, 0, 0]

/-- A configuration record of a standard: EXTERNAL, every port off, every line without function. -/
def record (standard : Byte) : List Byte :=
  [standard, 0, 0, 0, 150, 0, 30, 0, 0, 0, 0, 0, 0, 0, 0, 0xFF] ++ (List.replicate 7 [0, 0, 1, 0]).flatten
    ++ List.replicate 52 0 ++ (List.range 6).flatMap fun n => deckBlock (byte n)

def loadable : State := (suite.hostStore 0 directory).hostStore 0x1990 (record 1)

/-- A standard of 9 is no standard. -/
def unloadable : State := loadable.hostStore 0x1990 [9]

theorem test_witness_ConfigLoadRefused : unloadable.ready ∧ unloadable.decksAtRest ∧ 256 ≤ unloadable.iface.limit ∧
    0x1990 = 16 * halfAt (unloadable.mem.load 0 24) 0x12 ∧ 0x1990 + 256 ≤ unloadable.iface.limit ∧
    unloadable.engine.state.atRest = true ∧ unloadable.engine.takeInProgress = false ∧
    configFailure (unloadable.mem.load 0 24) (unloadable.mem.load 0x1990 256) 0x1990 unloadable.iface.limit =
      some (.badValue, 0x1990) ∧
    (running .cued 900).ready ∧ (running .cued 900).decksAtRest ∧ (running .cued 900).engine.state.atRest = false := by
  constructorm* _ ∧ _ <;> first | decide +kernel | (intro n; cases n <;> decide +kernel)

/-- A later acceptance; and the first one, of the same record, with slot 2 of deck 0's ring and event slot 1 TAKEN and
deck 1's group and the engine's deferred. -/
def firstLoad : State :=
  ((((loadable.onIface fun i => { i with configured := false, attention := 0x42 }).hostStore 0x120 [2, 1]).hostStore 0x8C0
    [2, 0]).onList .d1 fun l => { l with deferred := true }).onEngine fun e => { e with deferred := true }

/-- The same with a record of the standard in force, the log region in force unchanged and a pulse on output 2. -/
def reloadable : State :=
  { (loadable.hostStore 0x1990 (record 0)) with
    log := ⟨0x200, 8, 4, false, 7, 7, 5, false⟩
    gpi := { loadable.gpi with outputs := loadable.gpi.outputs.set .l2 .mark, pulses := loadable.gpi.pulses.set .l2 (some 9) } }

theorem test_witness_ConfigLoadAccepted : loadable.ready ∧ 256 ≤ loadable.iface.limit ∧
    16 * halfAt (loadable.mem.load 0 24) 0x12 + 256 ≤ loadable.iface.limit ∧ loadable.engine.state.atRest = true ∧
    loadable.engine.takeInProgress = false ∧ loadable.iface.configured = true ∧ loadable.engine.takenSlot = none ∧
    (∀ n, (loadable.deck n).list.queue = [] ∧ (loadable.deck n).list.rescan = false) ∧
    configFailure (loadable.mem.load 0 24) (loadable.mem.load 0x1990 256) 0x1990 loadable.iface.limit = none ∧
    loadable.timeline.standard = .s525 ∧ byteAt (loadable.mem.load 0x1990 256) 0 = 1 ∧
    loadable.log.base ≠ halfAt (loadable.mem.load 0 24) 0x10 := by
  constructorm* _ ∧ _ <;> first | decide +kernel | (intro n; cases n <;> decide +kernel)

theorem test_witness_ConfigLoadAccepted_again : reloadable.ready ∧ 256 ≤ reloadable.iface.limit ∧
    reloadable.engine.state.atRest = true ∧ reloadable.engine.takeInProgress = false ∧
    reloadable.iface.configured = true ∧ reloadable.engine.takenSlot = none ∧
    (∀ n, (reloadable.deck n).list.queue = [] ∧ (reloadable.deck n).list.rescan = false) ∧
    configFailure (reloadable.mem.load 0 24) (reloadable.mem.load 0x1990 256) 0x1990 reloadable.iface.limit = none ∧
    byteAt (reloadable.mem.load 0x1990 256) 0 = 0 ∧ reloadable.log.base = halfAt (reloadable.mem.load 0 24) 0x10 ∧
    reloadable.log.count = halfAt (reloadable.mem.load 0 24) 0x16 := by
  constructorm* _ ∧ _ <;> first | decide +kernel | (intro n; cases n <;> decide +kernel)

theorem test_witness_FirstAcceptanceSweeps : firstLoad.ready ∧ firstLoad.memoryOk ∧
    16 * halfAt (firstLoad.mem.load 0 24) 0x12 = 0x1990 ∧ firstLoad.iface.configured = false ∧
    firstLoad.engine.takenSlot = none ∧ firstLoad.engine.state.atRest = true ∧
    (∀ n, (firstLoad.deck n).list.queue = [] ∧ (firstLoad.deck n).list.rescan = false) ∧
    firstLoad.iface.attention.getLsbD 9 = false ∧ firstLoad.iface.attention.getLsbD 12 = false ∧
    firstLoad.mem.read 0x120 = 2 ∧ firstLoad.mem.read 0x8C0 = 2 ∧
    configFailure (firstLoad.mem.load 0 24) (firstLoad.mem.load 0x1990 256) 0x1990 firstLoad.iface.limit = none := by
  constructorm* _ ∧ _ <;> first | decide +kernel | (intro n; cases n <;> decide +kernel)

theorem test_witness_FirstAcceptanceSweeps_slots : (∀ n, firstLoad.mem.read
      (16 * halfAt (firstLoad.mem.load 0 24) (2 * n.num) + 16 * (firstLoad.deck n).list.nextSlot.val) ≠ 1) ∧
    firstLoad.mem.read (16 * halfAt (firstLoad.mem.load 0 24) 0x0C + 64 * firstLoad.engine.nextEvent.val) ≠ 1 := by
  constructor
  · intro n; cases n <;> decide +kernel
  · decide +kernel

/-- Deck 0's port at 9600 with both sides enabled. -/
def ported (e : Option Exchange) (q : List HeldRecord) : State :=
  (exchanging halting none q).onDeck .d0 fun d =>
    { d with port := ⟨.r9600, .odd, false, true, true, true⟩, link := { d.link with exchange := e } }

/-- The same port, its last exchange ended and `p` pending, for the record `q` or for a chase. -/
def seekingPort (p : PendingSeek) (q : List HeldRecord) : State :=
  (ported none q).onDeck .d0 fun d =>
    { d with
      link := { d.link with seek := some p, seekTimer := some 40 }
      chase := { d.chase with
        state := if p.requester = .chase then .seeking else .off
        seek := if p.requester = .chase then some ⟨.park, 9000, .nd525⟩ else none } }

/-- The effects port enabled, a field frame in progress. -/
def effectsOn : State :=
  { suite with
    ep := ⟨{ suite.ep.port with txEnable := true }, ⟨.sending, none, some ⟨0xC9, false⟩, [1]⟩⟩
    generator := { suite.generator with inProgress := true } }

theorem test_witness_PortRestartsAndReceiveEnable :
    ((ported none []).deck .d0).port.txEnable = true ∧ ((ported none []).deck .d0).port.rate = .r9600 ∧
    ((ported none []).deck .d0).link.exchange = none ∧ ((ported none []).deck .d0).link.seek = none ∧
    ((ported none []).deck .d0).chase.state = .off ∧ (suite.deck .d0).port.txEnable = false ∧
    (suite.deck .d0).port.rxEnable = false ∧ (suite.deck .d0).chase.state = .off ∧
    (suite.deck .d0).link.exchange = none ∧ (suite.deck .d0).link.seek = none ∧
    ((ported (some halting) [haltRecord]).deck .d0).link.exchange = some halting ∧
    ((ported (some halting) [haltRecord]).deck .d0).link.seek = none ∧
    ((ported (some halting) [haltRecord]).deck .d0).list.chosen = some haltRecord ∧
    ((seekingPort ⟨.host, ⟨1, 0, 0, 0⟩, false, true⟩ [⟨0x100, 7, .motion (.seek ⟨1, 0, 0, 0⟩ false), .seeking⟩]).deck
      .d0).list.seeking = some ⟨0x100, 7, .motion (.seek ⟨1, 0, 0, 0⟩ false), .seeking⟩ ∧
    ((seekingPort ⟨.chase, ⟨1, 0, 0, 0⟩, false, true⟩ []).deck .d0).link.exchange = none ∧
    ((seekingPort ⟨.chase, ⟨1, 0, 0, 0⟩, false, true⟩ []).deck .d0).chase.seek ≠ none ∧
    suite.ep.port.txEnable = false ∧ suite.ep.port.rxEnable = false ∧ effectsOn.ep.port ≠ suite.ep.port ∧
    effectsOn.ep.port.txEnable = true ∧ effectsOn.generator.inProgress = true := by decide

/-- A log of 8 entries at 0x2000, 7 written, threshold 4 SPENT, the host's consumed index at 5. -/
def logged : State :=
  { (suite.hostStore 0x2000 [5, 0]) with log := ⟨0x200, 8, 4, false, 7, 7, 0, false⟩ }

theorem test_witness_LogRereadTakesTheConsumedIndex : logged.ready ∧ logged.log.count ≠ 0 ∧
    16 * logged.log.base + 2 ≤ logged.iface.limit ∧ suite.ready ∧ suite.log.count = 0 := by decide

/-! ## Witnesses: the timeline -/

/-- `suite` with its timeline changed. -/
def timed (f : Timeline → Timeline) : State := suite.onTimeline f

theorem quiet_suite : ∀ a ∈ fieldActs, a.due suite = false := by decide

/-- `suite` in its second field. -/
def secondField : State := timed fun t => { t with field := .second }

theorem test_witness_FieldAdvanceAndFrameBoundary : (timed fun t => { t with refState := .locked }).ready ∧
    (timed fun t => { t with refState := .locked }).timeline.refState = .locked ∧
    (timed fun t => { t with refState := .holdover, miss := 15 }).ready ∧ secondField.ready ∧ secondField.linksBusy ∧
    (∀ a ∈ fieldActs, a.due secondField = false) ∧ secondField.timeline.field = .second ∧
    secondField.iface.topmem.val ≠ 0 ∧
    (∀ n, 16 * secondField.iface.bases.deck.get n + 320 ≤ secondField.iface.limit) := by
  constructorm* _ ∧ _ <;> first | decide | (intro n; cases n <;> decide)

theorem test_witness_FieldTickTicksAndSendsTheFrame :
    { suite with ep := ⟨.reset, .started⟩ }.ready ∧ { suite with ep := ⟨.reset, .started⟩ }.linksBusy ∧
    (∀ a ∈ fieldActs, a.due { suite with ep := ⟨.reset, .started⟩ } = false) ∧
    suite.timeline.field = .first ∧ (Transmitter.started.state = .idle ∧ suite.generator.inProgress = false) ∧
    Transmitter.started.holding = none ∧ Transmitter.started.shift = none := by
  constructorm* _ ∧ _ <;> first | decide | (intro n; cases n <;> decide)

/-- Eight good pulses counted, the last of a second field. -/
def eightPulses : State := timed fun t => { t with good := 8, prevPulse := some .second }

/-- Sixteen pulses missed. -/
def sixteenMissed (s : State) : State := s.onTimeline fun t => { t with refState := .holdover, miss := 16 }

theorem test_witness_ReferencePulsesLockAndLoss :
    (timed fun t => { t with refState := .absent }).ready ∧ (timed fun t => { t with refState := .locked }).ready ∧
    FieldId.first = (timed fun t => { t with refState := .locked }).timeline.field ∧
    suite.ready ∧ suite.timeline.refState = .acquiring ∧ (timed fun t => { t with refState := .lost }).ready ∧
    (timed fun t => { t with refState := .holdover, miss := 3 }).ready ∧
    FieldId.second = (timed fun t => { t with refState := .holdover, miss := 3 }).timeline.field.other ∧
    eightPulses.resetHeld = false ∧ eightPulses.immediateDue = false ∧
    eightPulses.timeline.refState = .acquiring ∧ eightPulses.timeline.good = 8 ∧
    eightPulses.timeline.prevPulse = some .second ∧
    (suite.timeline.refState ≠ .acquiring ∨ suite.timeline.good ≠ 8) ∧
    (sixteenMissed suite).resetHeld = false ∧ (sixteenMissed suite).timeline.refState = .holdover ∧
    (sixteenMissed suite).timeline.miss = 16 ∧ (sixteenMissed suite).decksAtRest ∧
    suite.engine.state ≠ .rolling ∧ suite.engine.state ≠ .synced ∧ suite.engine.state ≠ .recording ∧
    (sixteenMissed (running .rolling 1100)).linksBusy ∧
    (sixteenMissed (running .rolling 1100)).engine.state = .rolling ∧
    (suite.timeline.refState ≠ .holdover ∨ suite.timeline.miss ≠ 16) := by
  constructorm* _ ∧ _ <;> first | decide | (intro n; cases n <;> decide)

/-! ## Witnesses: ports and the assembler -/

/-- Deck 2's transmitter, and EP's, in state `t`. -/
def sendingBytes (t : Transmitter) : State :=
  { (suite.onTx .d2 fun _ => t) with ep := ⟨.reset, t⟩ }

/-- Deck 3's receiver in state `r`. -/
def receiving (r : Receiver) : State := suite.onRx .d3 fun _ => r

theorem test_witness_PortsMoveBytesAndCharacters :
    (sendingBytes ⟨.idle, none, none, [0xC9, 5]⟩).ready ∧
    (sendingBytes ⟨.idle, none, none, [0xC9, 5]⟩).ep.tx.state ≠ .off ∧
    ((sendingBytes ⟨.idle, none, none, [0xC9, 5]⟩).deck .d2).tx.holding = none ∧
    ((sendingBytes ⟨.idle, none, none, [0xC9, 5]⟩).deck .d2).tx.outgoing = 0xC9 :: [5] ∧
    (sendingBytes .stopped).ready ∧ ((sendingBytes .stopped).deck .d2).tx.state = .off ∧
    (receiving ⟨.settling, none, 0⟩).ready ∧ (receiving ⟨.receiving, none, 0⟩).ready ∧
    ((receiving ⟨.receiving, none, 0⟩).deck .d3).rx.state = .receiving ∧
    ((receiving ⟨.receiving, some ⟨9, false, false, false⟩, 0⟩).deck .d3).rx.holding = some ⟨9, false, false, false⟩ ∧
    ((receiving ⟨.ready, none, 0⟩).deck .d3).rx.state ≠ .receiving := by decide

/-- The exchange of `exchanging` still sending, its last byte in shift. -/
def lastByte : State :=
  (exchanging { halting with phase := .sending, timer := none } none [haltRecord]).onTx .d0 fun _ =>
    ⟨.sending, none, some ⟨0x2A, true⟩, []⟩

theorem test_witness_CharacterEndMovesTheTransmitter : lastByte.ready ∧ lastByte.linksBusy ∧
    (lastByte.deck .d0).tx.shift = some ⟨0x2A, true⟩ ∧ (lastByte.deck .d0).tx.holding = none ∧
    (lastByte.deck .d0).link.exchange = some { halting with phase := .sending, timer := none } ∧
    (lastByte.deck .d0).link.seek = none ∧
    (sendingBytes ⟨.sending, some ⟨7, true⟩, some ⟨6, false⟩, []⟩).ready ∧
    (sendingBytes ⟨.sending, some ⟨7, true⟩, some ⟨6, false⟩, []⟩).ep.tx.shift = some ⟨6, false⟩ ∧
    (sendingBytes ⟨.sending, none, some ⟨6, false⟩, [7]⟩).ready := by
  constructorm* _ ∧ _ <;> first | decide | (intro n; cases n <;> decide)

/-- The last byte of a HALT of `q` in shift on deck 0 of `s`, with `p` pending. -/
def superseding (s : State) (q : Requester) (p : PendingSeek) (l : List HeldRecord) : State :=
  s.onDeck .d0 fun d =>
    { d with
      tx := ⟨.sending, none, some ⟨0x2A, true⟩, []⟩
      link := { d.link with
        state := .up, exchange := some ⟨q, .halt, 5, .sending, none, 2, none, true, none, false⟩, seek := some p }
      list := { d.list with queue := l }
      chase := { d.chase with
        state := if q = .chase then .seeking else .off
        seek := if q = .chase then some ⟨.park, 9000, .nd525⟩ else none } }

theorem test_witness_MotionCommandsSupersedeSeeks : LinkCommand.halt.isMotion = true ∧
    (superseding suite .host ⟨.host, ⟨1, 0, 0, 0⟩, false, true⟩
      [⟨0x100, 7, .motion (.seek ⟨1, 0, 0, 0⟩ false), .seeking⟩, haltRecord]).ready ∧
    ((superseding suite .host ⟨.host, ⟨1, 0, 0, 0⟩, false, true⟩
      [⟨0x100, 7, .motion (.seek ⟨1, 0, 0, 0⟩ false), .seeking⟩, haltRecord]).deck .d0).list.seeking =
        some ⟨0x100, 7, .motion (.seek ⟨1, 0, 0, 0⟩ false), .seeking⟩ ∧
    (superseding suite .chase ⟨.chase, ⟨1, 0, 0, 0⟩, false, true⟩ []).ready ∧
    ((superseding suite .chase ⟨.chase, ⟨1, 0, 0, 0⟩, false, true⟩ []).deck .d0).chase.seek ≠ none ∧
    (superseding (running .aborting 900) .engine ⟨.engine, ⟨1, 0, 0, 0⟩, false, true⟩ []).ready ∧
    (superseding (running .aborting 900) .engine ⟨.engine, ⟨1, 0, 0, 0⟩, false, true⟩ []).engine.state ≠ .cueing ∧
    (superseding (running .cueing 900) .engine ⟨.engine, ⟨1, 0, 0, 0⟩, false, true⟩ []).ready ∧
    (superseding (running .cueing 900) .engine ⟨.engine, ⟨1, 0, 0, 0⟩, false, true⟩ []).engine.state = .cueing := by
  decide

/-- Deck 3 holding byte `b` with `a` in assembly. -/
def assembling (a : List Byte) (b : RxByte) : State :=
  (receiving ⟨.ready, some b, 0⟩).onLink .d3 fun l => { l with assembly := a }

theorem test_witness_ByteTakeAssemblesFrames : (assembling [] ⟨0xC9, false, false, false⟩).ready ∧
    ((assembling [] ⟨0xC9, false, false, false⟩).deck .d3).link.judged = none ∧
    lenTooLong ([] ++ [0xC9]) = false ∧ frameComplete ([] ++ [0xC9]) = false ∧
    (assembling [] ⟨0xC9, true, false, false⟩).ready ∧
    ((assembling [] ⟨0xC9, true, false, false⟩).deck .d3).port.parityTrust = false ∧
    (assembling [0xC9, 5] ⟨0x40, true, false, false⟩).ready ∧ (assembling [0xC9, 5] ⟨0x40, false, true, false⟩).ready ∧
    (assembling [0xC9, 5, 0x40, 0] ⟨0xBA, false, false, false⟩).ready ∧
    frameComplete ([0xC9, 5, 0x40, 0] ++ [0xBA]) = true ∧
    lenTooLong ([0xC9, 5, 0x40] ++ [11]) = true := by decide

/-- The frames meant are those on the link: TAKEN with tag 5, and 00:01:00;00 of a drop-frame tape. -/
def framed (tag code : Byte) (data : List Byte) : List Byte :=
  linkStart :: (([tag, code, byte data.length] ++ data) ++ [checkByte ([tag, code, byte data.length] ++ data)])

theorem test_witness_FramesAreJudgedByTheirFields : (0x00 : Byte) ≠ checkByte [5, 0x40, 0] ∧
    128 ≤ byteAt [0x85, 0x40, 0] 0 ∧ framed 5 0x40 [] = [0xC9, 5, 0x40, 0, 0xBA] ∧ (5 : Byte) < 6 ∧
    (0x05 : Byte)[2] = true ∧ (0x00 : Byte)[2] = false ∧ (60 : Byte).toNat ≥ 60 ∧ (0 : Byte).toNat < Kind.df525.rate ∧
    judgeFrame .s525 (framed 5 0x51 [0, 1, 0, 0, 5]) = .valid 5 (.position (some ⟨1800, .df525, .first⟩)) := by decide

/-! ## Witnesses: heads and arbiters -/

/-- A REPORT asked for by a poll. -/
def reporting : Exchange := ⟨.poll, .report, 6, .awaiting, some 2, 0, none, true, none, false⟩

/-- Deck 0 in `s` with the command `c` at its head, about to be examined, its link in state `q` with a poll out. -/
def headed (s : State) (q : LinkState) (c : HostCommand) : State :=
  s.onDeck .d0 fun d =>
    { d with
      link := { d.link with state := q, exchange := some reporting }
      list := { d.list with nextSlot := 1, queue := [⟨0x100, 7, c, .waiting⟩], examine := true } }

theorem test_witness_HeadsAreExaminedByTheTable : (∀ m, ((headed suite .up (.motion .run)).deck m).free = false) ∧
    (∀ m, m ≠ .d0 → ((headed suite .up (.motion .run)).deck m).list.rescan = false ∧
      ((headed suite .up (.motion .run)).deck m).list.examine = false) ∧
    ((headed suite .up (.motion .run)).deck .d0).list.rescan = false ∧
    ((headed suite .up (.motion .run)).deck .d0).link.downDue = false ∧
    suite.ringSlot .d0 1 + 16 ≤ suite.iface.limit ∧ 0x100 + 16 ≤ suite.ringSlot .d0 1 ∧
    (headed suite .up (.motion .run)).mem.read (suite.ringSlot .d0 1) ≠ 1 ∧
    (headed suite .up (.motion .run)).memoryOk ∧
    ((headed suite .up (.motion (.punchIn 1))).deck .d0).settings.role ≠ .recorder ∧
    (headed suite .up (.motion .run)).claimed .d0 = false ∧
    (∀ m, ((headed (running .cued 900) .up (.motion .halt)).deck m).free = false) ∧
    (headed (running .cued 900) .up (.motion .halt)).claimed .d0 = true ∧
    (headed (running .cued 900) .up (.motion .halt)).engine.state.running = true ∧
    (headed (running .cued 900) .up (.motion .halt)).engine.haltOutcome.get .d0 = none ∧
    (headed (running .ending 900) .up (.motion .halt)).engine.state.running = false ∧
    (withEngine (running .ending 900) fun e => { e with haltOutcome := e.haltOutcome.set .d0 (some .taken)
      }).engine.haltOutcome.get .d0 = some .taken := by
  constructorm* _ ∧ _ <;> first | decide | (intro n; cases n <;> decide)

/-- Deck 0 in `s` on a free UP link. -/
def freed (s : State) (f : DeckUnit → DeckUnit) : State :=
  s.onDeck .d0 fun d => f { d with link := { d.link with state := .up }, tx := .started }

/-- The video punch of `running`, queued. -/
def punchQueued (st : EngineState) (f : FieldCount) : State :=
  freed ((running st f).setPunch .video .queued) fun d =>
    { d with arbiter := { d.arbiter with engineQueue := [⟨.punchIn 15, true, some .video⟩] } }

theorem test_witness_ArbiterBeginsTheFirstSource : ((freed suite id).deck .d0).free = true ∧
    (∀ m, m ≠ .d0 → ((freed suite id).deck m).free = false) ∧
    (∀ m, ((freed suite id).deck m).list.rescan = false ∧ ((freed suite id).deck m).list.examine = false) ∧
    ((freed suite id).deck .d0).tx.holding = none ∧ ((freed suite id).deck .d0).tx.shift = none ∧
    ((punchQueued .synced 1291).deck .d0).free = true ∧ (∀ m, m ≠ .d0 → ((punchQueued .synced 1291).deck m).free = false) ∧
    (punchQueued .synced 1291).engine.punches.get .video = some ⟨15, 1290, .queued, none⟩ ∧
    fieldDiff 1291 1290 < 3 ∧ 3 ≤ fieldDiff 1293 1290 ∧ (punchQueued .synced 1291).punchWindow .d0 = true ∧
    (freed suite id).punchWindow .d0 = false ∧ (freed suite id).claimed .d0 = false ∧
    (freed (running .cued 900) id).claimed .d0 = true := by
  constructorm* _ ∧ _ <;> first | decide | (intro n; cases n <;> decide)

/-! ## Witnesses: exchanges -/

theorem test_witness_FinalReplyEndsAHostExchange :
    (exchanging halting (some (.valid 5 .taken, 0)) [haltRecord]).ready ∧ halting.requester = .host ∧
    halting.phase ≠ .sending ∧
    ((exchanging halting (some (.valid 5 .taken, 0)) [haltRecord]).deck .d0).list.chosen = some haltRecord ∧
    halting.tag = 5 ∧ halting.command.isMotion = true ∧ halting.command.isSeek = false ∧
    (exchanging { halting with command := .seek ⟨1, 0, 0, 0⟩ false } (some (.valid 5 .taken, 0)) [haltRecord]).ready ∧
    (exchanging halting (some (.valid 5 (.refused .noTape), 0)) [haltRecord]).ready := by decide

theorem test_witness_CompletionWritesTheRecord : haltRecord.offset + 16 ≤ suite.iface.limit := by decide

theorem test_witness_HoldOnKeepsTheExchange : (exchanging halting (some (.valid 5 .holdOn, 0)) [haltRecord]).ready ∧
    (exchanging halting (some (.valid 5 .holdOn, 0)) [haltRecord]).decksAtRest ∧
    ((exchanging halting (some (.valid 5 .holdOn, 0)) [haltRecord]).deck .d0).link.exchange = some halting := by
  constructorm* _ ∧ _ <;> first | decide | (intro n; cases n <;> decide)

/-- A SEEK of the host pending on deck 0, a STATE with AT_TARGET held. -/
def seekPending : State :=
  (exchanging reporting (some (.valid 6 (.state ⟨.still, true, false, true, true, false⟩), 0))
    [⟨0x100, 7, .motion (.seek ⟨1, 0, 0, 0⟩ false), .seeking⟩]).onLink .d0 fun l =>
      { l with seek := some ⟨.host, ⟨1, 0, 0, 0⟩, false, true⟩, seekTimer := some 0 }

/-- Deck 1 polled in `s`, the STATE `d` held, `p` pending. -/
def stating (s : State) (d : DeckState) (p : Option PendingSeek) : State :=
  s.onLink .d1 fun l =>
    { l with state := .up, exchange := some reporting, judged := some (.valid 6 (.state d), 0), seek := p
             seekTimer := p.map fun _ => 0 }

/-- The engine's seek of deck 1 to its cue, deck 0 being in cue state `c`, nothing yet written into the slot. -/
def cueing (c : CueStatus) : State :=
  stating (withEngine (running .cueing 900) fun e =>
    { e with cue := e.cue.set .d0 (some c), results := .none }) ⟨.still, true, false, true, true, false⟩
    (some ⟨.engine, ⟨0, 11, 55, 0⟩, false, true⟩)

/-- A chase's seek pending on deck 1. -/
def parking (p : SeekPurpose) : State :=
  (stating suite ⟨.still, true, false, true, true, false⟩ (some ⟨.chase, ⟨0, 5, 0, 0⟩, false, true⟩)).onChase .d1
    fun c => { c with state := .seeking, seek := some ⟨p, 9000, .nd525⟩ }

theorem test_witness_StateReplyIsKeptAndExamined :
    (exchanging reporting (some (.valid 6 (.state ⟨.stopped, false, false, false, false, false⟩), 0)) []).ready ∧
    (exchanging reporting (some (.valid 6 (.state ⟨.stopped, false, false, false, false, false⟩), 0)) []).claimed .d0 =
      false ∧ reporting.phase ≠ .sending ∧ reporting.command = .report ∧
    seekPending.ready ∧ seekPending.claimed .d0 = false ∧
    (seekPending.deck .d0).list.seeking = some ⟨0x100, 7, .motion (.seek ⟨1, 0, 0, 0⟩ false), .seeking⟩ ∧
    (cueing .seeking).ready ∧ (cueing .seeking).engine.state = .cueing ∧ (cueing .seeking).claimed .d1 = true ∧
    (cueing .seeking).slotHeld 3 ∧ (cueing .seeking).memoryOk ∧ (cueing .seeking).engine.results.reached = none ∧
    (cueing .seeking).engine.cue.get .d0 ≠ some .arrived ∧ (cueing .arrived).ready ∧
    (cueing .arrived).engine.claims = [.d0, .d1] ∧ (cueing .arrived).engine.cue.get .d0 = some .arrived ∧
    (parking .park).ready ∧ (parking .park).claimed .d1 = false ∧ (parking .runOn).ready ∧
    ((parking .runOn).deck .d1).chase.seek = some ⟨.runOn, 9000, .nd525⟩ ∧
    (stating (running .synced 1250) ⟨.stopped, false, false, false, false, false⟩ none).ready ∧
    (stating (running .synced 1250) ⟨.stopped, false, false, false, false, false⟩ none).claimed .d1 = true := by decide

/-- A READ-POSITION asked for by the tracker. -/
def locating : Exchange := ⟨.tracker, .readPosition, 6, .awaiting, some 2, 0, none, true, none, false⟩

theorem test_witness_PositionReplyMakesALinkSample :
    (exchanging locating (some (.valid 6 (.position (some ⟨9000, .nd525, .first⟩)), 0)) []).ready ∧
    locating.phase ≠ .sending ∧ locating.command = .readPosition ∧
    ((exchanging locating (some (.valid 6 (.position none), 0)) []).deck .d0).tracker.quality = .none := by decide

/-- The engine's video PUNCH-IN, begun at 1291, garbled and out of time, in RECORDING. -/
def punchGarbled : State :=
  (withEngine (running .recording 1295) fun e =>
    { e with punches := e.punches.set .video (some ⟨15, 1290, .begun, some 1291⟩) }).onDeck .d0 fun d =>
    { d with
      tx := .started
      link := { d.link with
        state := .up
        exchange := some ⟨.engine, .punchIn 15, 6, .awaiting, some 0, 2, none, true, some .video, false⟩
        judged := some (.garbled, 0) } }

theorem test_witness_FailedExchangeIsRetried :
    (exchanging { halting with timer := some 0 } (some (.garbled, 0)) [haltRecord]).ready ∧
    (exchanging { halting with timer := some 0 } (some (.garbled, 0)) [haltRecord]).decksAtRest ∧
    halting.requester = .host ∧ halting.overtaken = false ∧ 0 < halting.retries ∧ halting.phase ≠ .sending ∧
    Transmitter.started.state = .idle ∧ Transmitter.started.holding = none ∧ Transmitter.started.shift = none ∧
    punchGarbled.ready ∧ punchGarbled.decksAtRest ∧ (punchGarbled.deck .d0).tx.state = .idle ∧
    punchGarbled.engine.punches.get .video = some ⟨15, 1290, .begun, some 1291⟩ := by
  constructorm* _ ∧ _ <;> first | decide | (intro n; cases n <;> decide)

/-- A SEEK of a chase in exchange, out of time. -/
def chasingSeek : Exchange := ⟨.chase, .seek ⟨0, 5, 0, 0⟩ false, 6, .awaiting, some 0, 0, none, true, none, false⟩

/-- Deck 0's RUN of the event in exchange, out of time and of retries. -/
def runUnanswered : State :=
  (running .rolling 1100).onLink .d0 fun l =>
    { l with state := .up, exchange := some ⟨.engine, .run, 6, .awaiting, some 0, 0, none, true, none, false⟩ }

/-- A host HALT of deck 0, since claimed by the event being cued, out of time, the frame `j` held. -/
def overtaken (j : Option (JudgedFrame × FieldCount)) : State :=
  (running .cueing 900).onDeck .d0 fun d =>
    { d with
      tx := .started
      link := { d.link with
        state := .up, exchange := some { halting with overtaken := true, timer := some 0 }, judged := j }
      list := { d.list with queue := [haltRecord] } }

theorem test_witness_ExhaustedExchangeEndsFaulted :
    (exchanging { halting with timer := some 0, retries := 0 } (some (.garbled, 0)) [haltRecord]).ready ∧
    (exchanging { halting with timer := some 0, retries := 0 } (some (.garbled, 0)) [haltRecord]).decksAtRest ∧
    ((exchanging { halting with timer := some 0, retries := 0 } (some (.garbled, 0)) [haltRecord]).deck .d0).list.chosen =
      some haltRecord ∧
    (exchanging { reporting with timer := some 0 } none []).ready ∧
    (exchanging { reporting with timer := some 0 } none []).decksAtRest ∧
    ((exchanging { reporting with timer := some 0 } none []).deck .d0).link.state = .up ∧
    (exchanging chasingSeek none []).ready ∧ (exchanging chasingSeek none []).decksAtRest ∧ chasingSeek.live = true ∧
    runUnanswered.ready ∧ runUnanswered.decksAtRest ∧ runUnanswered.engine.state.running = true ∧
    (overtaken none).ready ∧ (overtaken none).decksAtRest ∧ ((overtaken none).deck .d0).list.chosen = some haltRecord ∧
    (overtaken (some (.garbled, 0))).ready ∧ (overtaken (some (.garbled, 0))).decksAtRest ∧
    (exchanging chasingSeek (some (.valid 6 (.refused .notNow), 0)) []).ready := by
  constructorm* _ ∧ _ <;> first | decide | (intro n; cases n <;> decide)

/-- Deck 0's last exchange ended with four failures in a row, its link about to enter DOWN, `q` in the host queue. -/
def losing (s : State) (q : List HeldRecord) : State :=
  s.onDeck .d0 fun d =>
    { d with
      tx := .started
      link := { d.link with state := .up, failures := 4, downDue := true }
      list := { d.list with queue := q } }

/-- Deck 1's poll timer expired. -/
def polling : State :=
  suite.onLink .d1 fun l => { l with state := .up, exchange := some reporting, pollTimer := some 0 }

theorem test_witness_LinkDownAndTimerExpiries : (suite.deck .d0).link.downDue = false ∧
    (losing suite []).resetHeld = false ∧ ((losing suite []).deck .d0).link.downDue = true ∧
    (losing suite []).claimed .d0 = false ∧ ((losing suite []).deck .d0).link.seek = none ∧
    ((losing suite [{ haltRecord with status := .waiting }]).deck .d0).list.queue =
      [{ haltRecord with status := .waiting }] ∧
    (losing (running .ending 1800) []).engine.state.running = false ∧
    (losing (running .cueing 900) []).claimed .d0 = true ∧
    (losing (running .cueing 900) []).engine.state.running = true ∧
    (losing (running .cueing 900) []).engine.claims.Nodup ∧
    ((losing (running .cueing 900) []).deck .d0).list.queue = [] ∧
    suite.ready ∧ (suite.deck .d0).link.seekTimer ≠ some 0 ∧
    seekPending.ready ∧ (seekPending.deck .d0).link.seekTimer = some 0 ∧
    (seekPending.deck .d0).link.seek = some ⟨.host, ⟨1, 0, 0, 0⟩, false, true⟩ ∧
    (cueing .arrived).ready ∧ (cueing .arrived).linksBusy ∧ ((cueing .arrived).deck .d1).link.seekTimer = some 0 ∧
    (parking .park).ready ∧ (parking .park).linksBusy ∧ ((parking .park).deck .d1).chase.seek ≠ none ∧
    polling.ready ∧ polling.linksBusy ∧ (polling.deck .d1).link.pollTimer = some 0 := by
  constructorm* _ ∧ _ <;> first | decide | (intro n; cases n <;> decide)

/-! ## Witnesses: trackers, chase, GPI lines, log -/

/-- 01:02:03:04 ND read forward: the digits in their places, the sync pattern at bit 64. -/
def goodWord : BitVec 80 := 0xBFFC0001000200030004

/-- Deck 4's tracker in LTC quality on a base sample at field 900 of position 18000, v 1000, at field 902. -/
def tracking : State :=
  (timed fun t => { t with F := 902, field := .second }).onTracker .d4 fun t =>
    { t with
      quality := .ltc, latest := some ⟨18000, .nd525, 900, .ltc⟩, base := some ⟨18000, .nd525, 900, .ltc⟩
      history := [⟨18000, .nd525, 900, .ltc⟩], v := 1000, lastWord := some 900, kind := some .nd525 }

/-- The same with the word before `goodWord` held as the candidate; and one two fields before it on the base. -/
def jumping : State := tracking.onTracker .d4 fun t => { t with candidate := some (⟨223388, .nd525, 900, .ltc⟩, .forward) }

def following : State :=
  tracking.onTracker .d4 fun t =>
    { t with base := some ⟨223388, .nd525, 900, .ltc⟩, history := [⟨223388, .nd525, 900, .ltc⟩] }

theorem test_witness_WordArrivalIsJudged : suite.ready ∧ ltcWord .s525 0 = none ∧
    ltcWord .s525 goodWord = some ⟨111694, .nd525, .forward, false, 0⟩ ∧
    (suite.deck .d4).tracker.candidate = none ∧ (suite.deck .d4).tracker.base = none ∧
    tracking.ready ∧ tracking.decksAtRest ∧ (tracking.deck .d4).tracker.candidate = none ∧
    (tracking.deck .d4).tracker.base = some ⟨18000, .nd525, 900, .ltc⟩ ∧
    2 < (sdiff Kind.nd525.dayFields 223390 (displacePos .nd525 18000 (roundDiv (1000 * fieldDiff 902 900) 1000))).natAbs ∧
    jumping.ready ∧ (sdiff Kind.nd525.dayFields 223390 (223388 + fieldDiff 902 900)).natAbs ≤ 2 ∧
    following.ready ∧ (following.deck .d4).tracker.candidate = none ∧
    (sdiff Kind.nd525.dayFields 223390 (displacePos .nd525 223388 (roundDiv (1000 * fieldDiff 902 900) 1000))).natAbs ≤
      2 := by
  constructorm* _ ∧ _ <;> first | decide +kernel | (intro n; cases n <;> decide +kernel)

/-- Its next field, three fields after the last word; the same as a first field; and with a flywheel limit of 0. -/
def silent : State := tracking.onTimeline fun t => { t with F := 903 }

def silentFirst : State := silent.onTimeline fun t => { t with field := .first }

def noFlywheel (s : State) : State :=
  s.onDeck .d4 fun d => { d with settings := { d.settings with flywheelLimit := 0 } }

theorem test_witness_FlywheelIsEnteredAndLeft : silent.ready ∧ silent.decksAtRest ∧
    (silent.deck .d4).tracker.quality = .ltc ∧ (silent.deck .d4).tracker.lastWord = some 900 ∧
    3 ≤ fieldDiff silent.timeline.F 900 ∧ silent.timeline.field = .second ∧
    (silent.deck .d4).settings.flywheelLimit ≠ 0 ∧ fieldDiff tracking.timeline.F 900 < 3 ∧
    tracking.ready ∧ tracking.decksAtRest ∧
    (noFlywheel silent).ready ∧ (noFlywheel silent).decksAtRest ∧ ((noFlywheel silent).deck .d4).settings.flywheelLimit = 0 ∧
    silentFirst.ready ∧ silentFirst.linksBusy ∧ silentFirst.timeline.field = .first ∧
    (noFlywheel silentFirst).ready ∧ (noFlywheel silentFirst).linksBusy ∧
    ((silent.onTracker .d4 fun t => { t with quality := .flywheel }).deck .d4).tracker.quality = .flywheel ∧
    (∀ m, (silent.deck m).chase.state = .off) ∧ min 16 (0 + 1) ≤ (silent.deck .d4).settings.flywheelLimit ∧
    ((noFlywheel silent).deck .d4).settings.flywheelLimit < min 16 (0 + 1) ∧
    (silent.onTracker .d4 fun t => { t with limitDue := true }).ready ∧
    (silent.onTracker .d4 fun t => { t with limitDue := true }).linksBusy := by
  constructorm* _ ∧ _ <;> first | decide | (intro n; cases n <;> decide)

/-- Deck 5 chasing for the host, in state `st` with the given counters. -/
def chasing (st : ChaseState) (run : Nat) (due : Bool) : State :=
  suite.onChase .d5 fun c => { c with state := st, starter := some .host, unlockRun := run, lockDue := due }

/-- Deck 5 chasing deck 4 of `tracking` at speed `v`, offset 0; and chasing the timeline from frame 9000. -/
def slave (v : Int) : State :=
  ((tracking.onTracker .d4 fun t => { t with v := v }).onLink .d5 fun l => { l with state := .up }).onChase .d5 fun c =>
    { c with state := .closing, starter := some .host, master := some (.deck .d4), offset := some 0 }

def slaveOfTime : State :=
  (slave 0).onChase .d5 fun c =>
    { c with master := some .timeline, origin := some (9000, .nd525), startField := some 900 }

/-- Its master lost again: deck 4 has no quality, the chase is SEEKING with no error and the counted stamp `k`. -/
def lostAgain (k : Option FieldCount) : State :=
  ((slave 0).onTracker .d4 fun t => { t with quality := .none }).onChase .d5 fun c =>
    { c with state := .seeking, lastError := none, lastCounted := k }

theorem test_witness_ChaseSamplesFollowTheLaw : ((slave 1000).deck .d5).chase.state ≠ .off ∧
    ((slave 1000).deck .d5).chase.offset = some 0 ∧ ((slave 1000).deck .d5).link.state ≠ .absent ∧
    ((slave 1000).deck .d5).chase.master = some (.deck .d4) ∧ ((slave 1000).deck .d4).tracker.quality ≠ .none ∧
    ((slave 1000).deck .d4).tracker.base = some ⟨18000, .nd525, 900, .ltc⟩ ∧
    (18002 : Int) = (18000 + roundDiv (1000 * fieldDiff 902 900) 1000) % 5184000 ∧
    (18002 : Nat) = ((18002 : Int) + 2 * 0) % Kind.nd525.dayFields ∧
    (10 : Int) = sdiff Kind.nd525.dayFields 18012 18002 ∧ (10 : Int).natAbs ≤ 2 * (DeckSettings.reset 5).windThreshold ∧
    2 * (DeckSettings.reset 5).windThreshold < (700 : Int).natAbs ∧ 3000 < (4000 : Int).natAbs ∧
    (DeckSettings.reset 5).lockWindow < (10 : Int).natAbs ∧ (1 : Int).natAbs ≤ (DeckSettings.reset 5).lockWindow ∧
    (((slave 4000).onChase .d5 fun c => { c with state := .locked }).deck .d5).chase.starter = some .host ∧
    (((slave 4000).onChase .d5 fun c => { c with state := .locked }).deck .d5).chase.state = .locked ∧
    ((((slave 4000).onChase .d5 fun c => { c with state := .locked }).evaluateChase .d5
      ⟨18012, .nd525, 902, .ltc⟩).deck .d5).chase.state ≠ .locked ∧
    ((lostAgain (some 900)).deck .d5).chase.state ≠ .off ∧ ((lostAgain (some 900)).deck .d5).chase.offset = some 0 ∧
    ((lostAgain (some 900)).deck .d5).chase.master = some (.deck .d4) ∧
    ((lostAgain (some 900)).deck .d4).tracker.quality = .none ∧
    ((lostAgain (some 900)).deck .d5).chase.resumed = true ∧ ((lostAgain none).deck .d5).chase.resumed = false ∧
    ((slave 0).deck .d4).tracker.v = 0 ∧ (slaveOfTime.deck .d5).chase.origin = some (9000, .nd525) ∧
    (18002 : Int) = 2 * 9000 + fieldDiff 902 900 := by decide +kernel

/-- R100, row 1: WAIT with a HALT at the first sample of a chase; WAIT and nothing after R98 has moved WAIT to SEEKING. -/
theorem test_row_1_halts_once :
    (((lostAgain none).evaluateChase .d5 ⟨18012, .nd525, 902, .ltc⟩).deck .d5).arbiter.trim = some .halt ∧
    (((lostAgain (some 900)).evaluateChase .d5 ⟨18012, .nd525, 902, .ltc⟩).deck .d5).chase.state = .wait ∧
    (((lostAgain (some 900)).evaluateChase .d5 ⟨18012, .nd525, 902, .ltc⟩).deck .d5).arbiter.trim = none := by
  decide +kernel

theorem test_witness_ChaseLocksAndTrimBounds : (suite.deck .d5).chase.lockDue = false ∧
    (chasing .closing 0 true).resetHeld = false ∧ ((chasing .closing 0 true).deck .d5).chase.lockDue = true ∧
    ((chasing .closing 0 true).deck .d5).chase.starter = some .host ∧
    (chasing .locked 2 false).resetHeld = false ∧ ((chasing .locked 2 false).deck .d5).chase.unlockRun = 2 ∧
    (-3000 : Int) ≤ 1000 ∧ (1000 : Int) ≤ 3000 ∧ (1 : Int).natAbs ≤ (DeckSettings.reset 0).lockWindow := by decide

/-- The inputs as given, all low. -/
def inputs (i : InputSettings) : State := suite.onGpi fun g => { g with inputs := g.inputs.set .l3 i }

/-- A GPI event being cued, input 3 its start. -/
def cuedByGpi : State :=
  (withEngine (running .cued 900) fun e => { e with working := some { cutEvent with start := .gpi } }).onGpi fun g =>
    { g with inputs := g.inputs.set .l3 ⟨.rising, .start⟩ }

theorem test_witness_InputChangeActsByFunction : suite.ready ∧ suite.gpi.levels.get .l3 ≠ true ∧
    suite.decksAtRest ∧ suite.gpi.armed = true ∧ (∀ k, (suite.gpi.inputs.get k).function ≠ .chord) ∧
    (suite.gpi.inputs.get .l3).function = .none ∧ cuedByGpi.ready ∧ cuedByGpi.decksAtRest ∧
    (cuedByGpi.gpi.inputs.get .l3).function = .start ∧ (cuedByGpi.gpi.inputs.get .l3).edge = .rising ∧
    (∀ k, (cuedByGpi.gpi.inputs.get k).function ≠ .chord) ∧ cuedByGpi.engine.state = .cued := by
  constructorm* _ ∧ _ <;> first | decide | (intro n; cases n <;> decide)

/-- Input 3 the chord's one member, ARMED and low, with an event in RECORDING. -/
def chordRunning : State :=
  (running .recording 1400).onGpi fun g => { g with inputs := g.inputs.set .l3 ⟨.rising, .chord⟩ }

/-- The chord of inputs 3 and 4 SPENT, both high. -/
def spentChord : State :=
  (inputs ⟨.rising, .chord⟩).onGpi fun g =>
    { g with
      inputs := g.inputs.set .l4 ⟨.rising, .chord⟩
      levels := (g.levels.set .l3 true).set .l4 true
      armed := false }

theorem test_witness_AllStopHaltsEveryDeck : suite.ready ∧ suite.linksBusy ∧ suite.engine.state.running = false ∧
    (∀ n, (suite.deck n).arbiter.engineQueue.length < 4) ∧
    (inputs ⟨.rising, .chord⟩).ready ∧ (inputs ⟨.rising, .chord⟩).linksBusy ∧
    (inputs ⟨.rising, .chord⟩).engine.state.running = false ∧ (inputs ⟨.rising, .chord⟩).gpi.levels.get .l3 ≠ true ∧
    (inputs ⟨.rising, .chord⟩).gpi.armed = true ∧
    (∀ k, ((inputs ⟨.rising, .chord⟩).gpi.inputs.get k).function = .chord →
      ((inputs ⟨.rising, .chord⟩).gpi.levels.set .l3 true).get k =
        (((inputs ⟨.rising, .chord⟩).gpi.inputs.get k).edge != .falling)) ∧
    chordRunning.ready ∧ chordRunning.linksBusy ∧ chordRunning.engine.state.running = true ∧
    chordRunning.engine.claims = cutEvent.decks ∧ chordRunning.engine.claims.Nodup ∧
    (∀ n, (chordRunning.deck n).arbiter.engineQueue.length < 4) ∧ chordRunning.gpi.levels.get .l3 ≠ true ∧
    chordRunning.gpi.armed = true ∧ (∀ k, (chordRunning.gpi.inputs.get k).function = .chord →
      (chordRunning.gpi.levels.set .l3 true).get k = ((chordRunning.gpi.inputs.get k).edge != .falling)) ∧
    spentChord.ready ∧ spentChord.decksAtRest ∧ spentChord.gpi.levels.get .l3 ≠ false ∧ spentChord.gpi.armed = false ∧
    (spentChord.gpi.inputs.get .l3).function = .chord := by
  constructorm* _ ∧ _ <;> first | decide | (intro n; cases n <;> decide)

/-- Input 3 a CAPTURE on both edges, the log at 0x2000 with 8 entries, threshold `t`, the host's index at `host`. -/
def capturing (t : Nat) (read : Nat) (host : Byte) : State :=
  { ((inputs ⟨.both, .capture⟩).hostStore 0x2000 [host, 0]) with log := ⟨0x200, 8, t, false, 7, 40, read, true⟩ }

theorem test_witness_CaptureEdgeIsLogged : (capturing 0 3 3).ready ∧ (capturing 0 3 3).decksAtRest ∧
    (capturing 0 3 3).gpi.levels.get .l3 ≠ true ∧ (∀ k, ((capturing 0 3 3).gpi.inputs.get k).function ≠ .chord) ∧
    (7 + 1) % 8 ≠ 3 ∧ 16 * 0x200 + 16 + 16 * 8 ≤ (capturing 0 3 3).iface.limit ∧
    (capturing 4 3 3).ready ∧ 4 ≤ (0 + 8 - 3) % 8 ∧ (capturing 0 0 5).ready ∧ (capturing 0 0 5).decksAtRest ∧
    (7 + 1) % 8 = 0 ∧ halfAt ((capturing 0 0 5).mem.load 0x2000 2) 0 = 5 ∧ (capturing 0 0 0).ready ∧
    halfAt ((capturing 0 0 0).mem.load 0x2000 2) 0 = 0 ∧
    (inputs ⟨.both, .capture⟩).ready ∧ (inputs ⟨.both, .capture⟩).decksAtRest ∧ (inputs ⟨.both, .capture⟩).log.count = 0 := by
  constructorm* _ ∧ _ <;> first | decide | (intro n; cases n <;> decide)

/-- A trigger on line 5, an EVENT output, at field 1250. -/
def triggering : State :=
  { (withEngine (running .synced 1250) fun e => { e with triggers := [⟨.l5, 1250, 4, .planned⟩] }) with
    gpi := { suite.gpi with outputs := suite.gpi.outputs.set .l5 .event
                            pulses := suite.gpi.pulses.set .l6 (some 1250) } }

/-- Mark 2 on deck 4 at 00:05:00:00, doing everything, in the given mode and edge state; deck 4's last sample at 8990. -/
def marked (crossing matching : Bool) : State :=
  suite.onMarks fun u =>
    { entries := u.entries.set 2
        { Mark.disabled with
          enabled := true, deck := .d4, address := ⟨0, 5, 0, 0⟩, crossing := crossing, direction := .forward
          matching := matching, capture := true, pulse := true, notice := true, once := true, line := .l1 }
      previous := u.previous.set .d4 (some (8990, .nd525)) }

theorem test_witness_TriggersAndMarksAct : triggering.ready ∧ triggering.decksAtRest ∧
    triggering.noEarlierAct (.trigger 0) ∧ triggering.engine.state.rolled = true ∧
    triggering.gpi.outputs.get .l5 = .event ∧ triggering.gpi.pulses.get .l6 = some triggering.timeline.F ∧
    triggering.gpi.pulses.get .l5 ≠ some triggering.timeline.F ∧
    (marked false false).marks.entries.length = 16 ∧
    (∀ j : Fin 16, j ≠ 2 → ∀ k, (marked false false).marks.entries[j.val]? = some k → k.enabled = false ∨ k.deck ≠ .d4) ∧
    addrOf .nd525 9000 = ⟨0, 5, 0, 0⟩ ∧ sdiff Kind.nd525.day 9000 8990 = 10 ∧ 2 * (10 : Int).natAbs < Kind.nd525.day ∧
    1 ≤ ((frameOf .nd525 ⟨0, 5, 0, 0⟩ : Int) - 8990) % Kind.nd525.day ∧
    ((frameOf .nd525 ⟨0, 5, 0, 0⟩ : Int) - 8990) % Kind.nd525.day ≤ 10 := by
  constructorm* _ ∧ _ <;> first | decide | (intro n; cases n <;> decide)

/-! ## Witnesses: the engine -/

/-- The event `ev` about to roll at field 1000. -/
def rolling (ev : Event) : State :=
  withEngine (running .cued 1000) fun e =>
    { e with
      working := some ev, schedule := none, punches := ⟨none, none, none⟩, rollDue := true, startPending := true }

/-- An INSERT with a split edit and a preroll so short that its windows open at the roll; and a REHEARSE. -/
def splitEvent : Event := { cutEvent with insert := true, mask := 7, split := -4, preroll := 6, editDelay := 3 }

theorem test_witness_RollFormsTheSchedule : suite.ready ∧ suite.engine.rollDue = false ∧ (rolling cutEvent).ready ∧
    (rolling cutEvent).linksBusy ∧ (rolling cutEvent).slotHeld 3 ∧ (rolling cutEvent).engine.working = some cutEvent ∧
    (rolling cutEvent).engine.results.reached = some .cued ∧ (rolling cutEvent).engine.claims.Nodup ∧
    (∀ n, ((rolling cutEvent).deck n).arbiter.engineQueue.length < 4) ∧
    (rolling splitEvent).ready ∧ (rolling splitEvent).linksBusy ∧ splitEvent.perform = true ∧ splitEvent.insert = true ∧
    (rolling { cutEvent with perform := false }).ready ∧ (rolling { cutEvent with perform := false }).linksBusy := by
  constructorm* _ ∧ _ <;> first | decide | (intro n; cases n <;> decide)

/-- At F_S = 1240 with both decks locked, or only the recorder, and the given policy. -/
def checked (other : ChaseState) (p : SyncPolicy) : State :=
  { (((running .rolling 1240).onChase .d0 fun c => { c with state := .locked, starter := some .engine }).onChase .d1
    fun c => { c with state := other, starter := some .engine, lastError := some (-7) }) with
    suite := { suite.suite with syncPolicy := p } }

theorem test_witness_SyncCheckFollowsThePolicy : (checked .locked .abort).ready ∧ (checked .locked .abort).linksBusy ∧
    (checked .locked .abort).slotHeld 3 ∧ (checked .locked .abort).memoryOk ∧
    (checked .locked .abort).engine.results.reached = some .rolling ∧
    (checked .locked .abort).atField Schedule.fS = true ∧ (checked .locked .abort).noEarlierAct .sync ∧
    (checked .closing .abort).ready ∧ (checked .closing .abort).linksBusy ∧
    ((checked .closing .abort).deck .d1).chase.state ≠ .locked ∧ (checked .closing .abort).noEarlierAct .sync ∧
    (checked .closing .proceed).ready ∧ (checked .closing .proceed).linksBusy ∧
    (checked .closing .proceed).noEarlierAct .sync ∧ (checked .closing .proceed).suite.syncPolicy = .proceed := by
  constructorm* _ ∧ _ <;> first | decide | (intro n; cases n <;> decide)

theorem test_witness_PunchesOpenAndQueue : (running .synced 1286).ready ∧ (running .synced 1286).linksBusy ∧
    (running .synced 1286).engine.punches.get .video = some ⟨15, 1290, .planned, none⟩ ∧
    (running .synced 1286).noEarlierAct (.window .video) ∧ (1286 : FieldCount) = fieldAdd 1290 (-4) ∧
    (running .synced 1290).ready ∧ (running .synced 1290).linksBusy ∧
    (running .synced 1290).noEarlierAct (.punchIn .video) ∧
    ((running .synced 1290).deck .d0).arbiter.engineQueue.length < 4 ∧
    (running .recording 1690).ready ∧ (running .recording 1690).linksBusy ∧
    (running .recording 1690).engine.punches.get .out = some ⟨15, 1690, .planned, none⟩ ∧
    (running .recording 1690).noEarlierAct .punchOut := by
  constructorm* _ ∧ _ <;> first | decide | (intro n; cases n <;> decide)

/-- The punch `i` of the event in state `st` begun at 1291 and its answer `j` held; an audio punch is planned beside the
video's. -/
def answered (st : EngineState) (i : PunchId) (c : LinkCommand) (j : Reply) : State :=
  (withEngine (running st 1295) fun e =>
    { e with
      punches := PunchPlan.set { e.punches with audio := some ⟨6, 1288, .planned, none⟩ } i
        (some ⟨15, 1290, .begun, some 1291⟩) }).onLink .d0 fun l =>
    { l with state := .up, exchange := some ⟨.engine, c, 6, .awaiting, some 2, 2, none, true, some i, false⟩
             judged := some (.valid 6 j, 0) }

/-- The same, the audio punch having been answered. -/
def secondPunch : State :=
  (answered .recording .video (.punchIn 15) .taken).onEngine fun e =>
    { e with punches := { e.punches with audio := some ⟨6, 1288, .taken, some 1288⟩ } }

theorem test_witness_PunchAnswersMoveTheEvent : (answered .synced .video (.punchIn 15) .taken).ready ∧
    (answered .synced .video (.punchIn 15) .taken).memoryOk ∧ (answered .synced .video (.punchIn 15) .taken).slotHeld 3 ∧
    (answered .synced .video (.punchIn 15) .taken).engine.results.reached.isSome = true ∧
    (answered .synced .video (.punchIn 15) .taken).engine.punches.get .video = some ⟨15, 1290, .begun, some 1291⟩ ∧
    (answered .ending .video (.punchIn 15) .taken).ready ∧ (answered .aborting .video (.punchIn 15) .taken).ready ∧
    secondPunch.ready ∧ (secondPunch.engine.punches.get .audio).map Punch.status = some .taken ∧
    (answered .synced .video (.punchIn 15) (.refused .recordInhibit)).ready ∧
    (answered .postroll .out (.punchOut 15) .taken).ready ∧
    (answered .postroll .out (.punchOut 15) .taken).engine.schedule = some cutSchedule := by decide

/-- The video punch still queued at its planned field + 3. -/
def late : State :=
  (running .synced 1293).setPunch .video .queued

theorem test_witness_LatePunchIsAbandoned : late.ready ∧ late.linksBusy ∧ late.memoryOk ∧ late.slotHeld 3 ∧
    late.engine.punches.get .video = some ⟨15, 1290, .queued, none⟩ ∧ (1293 : FieldCount) = fieldAdd 1290 3 ∧
    late.engine.results.reached.isSome = true ∧ late.noEarlierAct (.abandon .video) ∧ late.engine.claims.Nodup := by
  constructorm* _ ∧ _ <;> first | decide | (intro n; cases n <;> decide)

/-- The event in REHEARSE at F_in. -/
def rehearsing : State :=
  withEngine (running .synced 1300) fun e =>
    { e with working := some { cutEvent with perform := false }, punches := ⟨none, none, none⟩ }

/-- The source's chase locked at F_out, a RUN in its trim slot. -/
def lockedAtOut : State :=
  (running .recording 1700).onDeck .d1 fun d =>
    { d with
      chase := { d.chase with state := .locked, starter := some .engine }
      arbiter := { d.arbiter with trim := some .run } }

theorem test_witness_RecordInOutAndEndFollowTheSchedule : rehearsing.ready ∧ rehearsing.linksBusy ∧
    rehearsing.slotHeld 3 ∧ rehearsing.atField Schedule.fIn = true ∧ rehearsing.noEarlierAct .rehearseIn ∧
    (running .recording 1700).ready ∧ (running .recording 1700).linksBusy ∧ (running .recording 1700).slotHeld 3 ∧
    (running .recording 1700).atField Schedule.fOut = true ∧ (running .recording 1700).noEarlierAct .recordOut ∧
    lockedAtOut.ready ∧ lockedAtOut.linksBusy ∧ lockedAtOut.atField Schedule.fOut = true ∧
    lockedAtOut.noEarlierAct .recordOut ∧ (lockedAtOut.deck .d1).chase.state ≠ .off ∧
    (running .postroll 1760).ready ∧ (running .postroll 1760).linksBusy ∧
    (running .postroll 1760).atField Schedule.fEnd = true ∧ (running .postroll 1760).noEarlierAct .endPostroll ∧
    (running .postroll 1760).engine.claims ≠ [] ∧
    (∀ n, ((running .postroll 1760).deck n).arbiter.engineQueue.length < 4) := by
  constructorm* _ ∧ _ <;> first | decide | (intro n; cases n <;> decide)

/-- An aborted event whose completion failed, a frame boundary later. -/
def retrying : State :=
  withEngine (running .aborting 1800) fun e =>
    { e with abortCode := some .hostAbort, completionFailed := true, retryDue := true }

/-- The event in ENDING, deck 0's HALT answered `j`, the decks `h` awaited. -/
def halted (h : List Deck) (j : Reply) : State :=
  (withEngine (running .ending 1800) fun e =>
    { e with haltsAwaited := h, punches := ⟨none, none, none⟩ }).onLink .d0 fun l =>
    { l with state := .up, exchange := some ⟨.engine, .halt, 6, .awaiting, some 2, 2, none, true, none, false⟩
             judged := some (.valid 6 j, 0) }

theorem test_witness_EventsComplete : suite.ready ∧ suite.engine.retryDue = false ∧ retrying.ready ∧
    retrying.linksBusy ∧ retrying.memoryOk ∧ retrying.slotHeld 3 ∧ retrying.engine.state = .aborting ∧
    retrying.engine.abortCode = some .hostAbort ∧
    (halted [.d0, .d1] .taken).ready ∧ (halted [.d0, .d1] .taken).engine.haltsAwaited.erase .d0 ≠ [] ∧
    (halted [.d0, .d1] (.refused .notNow)).ready ∧ (halted [.d0] .taken).ready ∧
    (halted [.d0] .taken).engine.haltsAwaited.erase .d0 = [] ∧ (halted [.d0] .taken).engine.punches.out = none ∧
    (halted [.d0] .taken).engine.endFault = none ∧ (halted [.d0] .taken).memoryOk ∧ (halted [.d0] .taken).slotHeld 3 ∧
    (halted [.d0] .taken).eventSlot 4 + 64 ≤ (halted [.d0] .taken).iface.limit ∧
    (halted [.d0] .taken).mem.read ((halted [.d0] .taken).eventSlot 4) ≠ 1 := by
  constructorm* _ ∧ _ <;> first | decide | (intro n; cases n <;> decide)

/-! ## Witnesses: what holds of every command, and contents -/

theorem test_witness_StepKeepsMemoryCanonical : suite.memoryOk ∧ suite.pending = [] := by decide

theorem test_witness_NothingIsWrittenAboveTheLimit : State.reset.iface.limit ≤ 0 ∧ suite.iface.limit ≤ 65536 := by decide

theorem test_witness_EveryCommandCompletesAndLosesNothing : Instr.attnTake ≠ .powerOn ∧
    twoCauses.iface.pending.get .log = true := by decide

theorem test_witness_AddressesAndFramesAgree : 2589407 < Kind.df525.day ∧
    (⟨23, 59, 59, 29⟩ : Addr).valid .df525 = true := by decide +kernel

/-- A dissolve of 15 frames at field 100 from input 1 to input 2. -/
def dissolve : GeneratorEvent := ⟨1, 2, true, .dissolve, 0, 30, .linear, 100⟩

theorem test_witness_TransitionsContentAndTallies : 0 < 15 ∧ 15 ≤ 2 * 15 ∧ fieldDiff 99 dissolve.fT < 0 ∧
    0 ≤ fieldDiff 115 dissolve.fT ∧ fieldDiff 115 dissolve.fT < dissolve.n ∧ (dissolve.n : Int) ≤ fieldDiff 130 dissolve.fT ∧
    { dissolve with transition := .wipe }.transition = .wipe ∧
    (suite.onGpi fun g => { g with outputs := (g.outputs.set .l0 .recordTally).set .l1 (.programTally .d2) }).gpi.outputs.get
      .l1 = .programTally .d2 := by decide +kernel

/-! ## The manual's worked figures -/

/-- Table 1-2: drop-frame numbers. -/
theorem test_drop_frame_numbers : frameOf .df525 ⟨0, 0, 59, 29⟩ = 1799 ∧ frameOf .df525 ⟨0, 1, 0, 2⟩ = 1800 ∧
    frameOf .df525 ⟨0, 10, 0, 0⟩ = 17982 ∧ frameOf .df525 ⟨1, 23, 45, 12⟩ = 150612 ∧
    frameOf .df525 ⟨23, 59, 59, 29⟩ = 2589407 := by decide +kernel

/-- Table 1-3: the inverse; and the non-drop kinds. -/
theorem test_drop_frame_addresses : addrOf .df525 1800 = ⟨0, 1, 0, 2⟩ ∧ addrOf .df525 107889 = ⟨0, 59, 59, 27⟩ ∧
    addrOf .df525 150612 = ⟨1, 23, 45, 12⟩ ∧ addrOf .nd525 1080000 = ⟨10, 0, 0, 0⟩ ∧
    addrOf .k625 2159999 = ⟨23, 59, 59, 24⟩ := by decide +kernel

/-- R5: 00:01:00;00 on tape is taken as 00:01:00;02. -/
theorem test_dropped_address_moves : normalise .df525 ⟨0, 1, 0, 0⟩ = some ⟨0, 1, 0, 2⟩ ∧
    normalise .df525 ⟨0, 1, 60, 0⟩ = none := by decide

/-- 1.4.1: differences across midnight, across the wrap of F, and at half a day. -/
theorem test_differences : sdiff Kind.df525.dayFields 10 5178813 = 13 ∧ fieldDiff 5 4294967290 = 11 ∧
    sdiff Kind.nd525.day 1296000 0 = 1296000 ∧ sdiff Kind.nd525.day 0 1296000 = 1296000 := by decide +kernel

/-- R9: 150 frames before 00:00:02:00. -/
theorem test_cue_wraps : displaceFrame .nd525 60 (-150) = 2591910 := by decide +kernel

/-- R36: HALT with tag 5, and RUN-VAR of 1100 with tag 0x12. -/
theorem test_command_frames : commandFrame 5 .halt = [0xC9, 0x05, 0x01, 0x00, 0xF9] ∧
    commandFrame 0x12 (.runVar 1100) = [0xC9, 0x12, 0x03, 0x02, 0x4C, 0x04, 0x98] := by decide

/-- Table 2-7: R3 arriving before R2 is taken marks R2 overrun. -/
theorem test_overrun : (Receiver.arrive ⟨.receiving, some ⟨2, false, false, false⟩, 0⟩ .odd 3 true true).holding =
    some ⟨2, false, false, true⟩ := by decide

/-- R21: 0x53 has four ones; sent with ODD parity its parity bit is 1, with EVEN 0; two stop bits follow. -/
theorem test_characters_on_the_line :
    PortSettings.character ⟨.r9600, .odd, true, true, true, true⟩ 0x53 =
      [false, true, true, false, false, true, false, true, false, true, true, true] ∧
    PortSettings.character ⟨.r9600, .even, false, true, true, true⟩ 0x53 =
      [false, true, true, false, false, true, false, true, false, false, true] ∧
    PortSettings.character ⟨.r9600, .none, false, true, true, true⟩ 0xC9 =
      [false, true, false, false, true, false, false, true, true, true] := by decide

/-- R27, R28: the first sample comes to stand lowest; with ODD an even count of ones is marked, and a
stop bit at space is marked. -/
theorem test_samples_make_the_byte :
    (Receiver.arrive ⟨.receiving, none, 0xFF⟩ .odd 0x53 false true) = ⟨.ready, some ⟨0x53, true, false, false⟩, 0x53⟩ ∧
    (Receiver.arrive ⟨.receiving, none, 0⟩ .none 0xC9 true false) = ⟨.settling, some ⟨0xC9, false, true, false⟩, 0xC9⟩ := by decide

/-- Table 2-5: the end of START moves TAG into shift; the end of CHECK sends the frame. -/
theorem test_halt_frame_on_the_port :
    (Transmitter.characterEnd ⟨.sending, some ⟨5, false⟩, some ⟨0xC9, false⟩, [1, 0, 0xF9]⟩) =
      (⟨.sending, none, some ⟨5, false⟩, [1, 0, 0xF9]⟩, false) ∧
    (Transmitter.characterEnd ⟨.sending, none, some ⟨0xF9, true⟩, []⟩) = (⟨.idle, none, none, []⟩, true) := by decide

/-- 5.5.1: a shuttling 625 deck is clamped to 50000; a deck at a third of play speed gives 429. -/
theorem test_speed_estimates :
    speedFrom [⟨30300, .k625, 7004, .ltc⟩, ⟨30240, .k625, 7003, .ltc⟩, ⟨30180, .k625, 7002, .ltc⟩,
      ⟨30120, .k625, 7001, .ltc⟩, ⟨30060, .k625, 7000, .ltc⟩] ⟨30300, .k625, 7004, .ltc⟩ 0 = 50000 ∧
    speedFrom [⟨12003, .k625, 507, .link⟩, ⟨12000, .k625, 500, .link⟩] ⟨12003, .k625, 507, .link⟩ 0 = 429 := by
  decide +kernel

/-- 6.5.1: the brief ideal (1100), the clamp (850, 1038) and across midnight (1040). -/
theorem test_trim_speeds : trimSpeed (.reset 0) 1000 (-10) = 1100 ∧
    trimSpeed { DeckSettings.reset 0 with gain := 200 } 1000 13 = 850 ∧
    trimSpeed { DeckSettings.reset 0 with gain := 200 } 1000 (-3) = 1038 ∧
    trimSpeed (.reset 0) 1000 (sdiff Kind.nd525.dayFields 5183998 2) = 1040 := by decide +kernel

/-- 6.5.1: the deck range, and the far test. -/
theorem test_deck_range_and_far :
    trimSpeed { DeckSettings.reset 0 with gain := 255, vmax := 500 } 2800 (-20) = 3000 ∧
    chaseRow (.reset 0) (-1000) 700 = .far := by decide +kernel

/-- Table 9-4: D = 15. -/
theorem test_transition_positions : transitionPosition .linear 30 1 = 34 ∧ transitionPosition .linear 30 15 = 512 ∧
    transitionPosition .linear 30 29 = 989 ∧ transitionPosition .sCurve 30 1 = 3 ∧
    transitionPosition .sCurve 30 10 = 265 ∧ transitionPosition .sCurve 30 29 = 1020 := by decide +kernel

/-- Table 11-5: DECK_DONE 2, EDIT_PROGRESS 3 and MARK 0 raised at FLOOR 1: EDIT_PROGRESS is read, then DECK_DONE, then
0xFF with MARK pending. -/
def presenting (c : PerCause Bool) : Interface :=
  { suite.iface with
    levels := ((((PerCause.all 0).set .deckDone 2).set .editProgress 3).set .log 2).set .editFault 6
    floor := 1
    pending := c }

theorem test_cause_presentation :
    (presenting ((((PerCause.all false).set .deckDone true).set .editProgress true).set .mark true)).causeValue = 0x32 ∧
    (presenting (((PerCause.all false).set .deckDone true).set .mark true)).causeValue = 0x20 ∧
    (presenting ((PerCause.all false).set .mark true)).causeValue = 0xFF ∧
    (presenting (((PerCause.all false).set .deckDone true).set .log true)).causeValue = 0x20 := by decide

/-- Table 8-8: an INSERT of V A1 A2 with split -4 and E 5, F_in 60732 and F_out 61132: audio at 60714, video at 60722,
PUNCH-OUT at 61122. -/
theorem test_punch_plan :
    punchPlan { cutEvent with insert := true, mask := 7, split := -4 } 60732 61132 =
      ⟨some ⟨1, 60722, .planned, none⟩, some ⟨6, 60714, .planned, none⟩, some ⟨15, 61122, .planned, none⟩⟩ := by
  decide

/-- Table 8-8: rolling at 60432 with preroll 150, duration 200, split -4, start offset 60, postroll 30. -/
theorem test_schedule :
    Event.schedule { cutEvent with insert := true, mask := 7, split := -4, startOffset := 60 } 30 60432 =
      ⟨60432, 60672, 60732, 60852, 61132, 61192⟩ := by decide

/-- 8.11: the recorder's cue is 01:59:55;00. -/
theorem test_cue_of_the_recorder :
    addrOf .df525 (displaceFrame .df525 (frameOf .df525 ⟨2, 0, 0, 0⟩) (-150)) = ⟨1, 59, 55, 0⟩ := by decide +kernel

end Sys2Proof.Tests
end

section
/-!
PROOFS. The end of a character (R24, R25, R42, R151): what it does to a transmitter, to a deck port with its exchange,
and to EP.
-/

namespace Sys2Proof.Machine

variable {s : State} {n : Deck} {t : Transmitter} {b h : TxByte} {e : Exchange}

/-! ## Updates of one deck -/

/-- Two updates of one deck in turn are one update. -/
theorem State.onDeck_onDeck (s : State) (n : Deck) (f g : DeckUnit → DeckUnit) :
    (s.onDeck n f).onDeck n g = s.onDeck n fun d => g (f d) := by
  cases n <;> rfl

/-- A deck link with an exchange outstanding is not free (R42). -/
theorem DeckUnit.free_of_exchange {d : DeckUnit} (he : d.link.exchange = some e) : d.free = false := by
  simp [DeckUnit.free, he]

/-- A change of one deck that leaves its list alone and its link not free leaves every link busy. -/
theorem State.linksBusy.onDeck (hs : s.linksBusy) {f : DeckUnit → DeckUnit} (hl : (f (s.deck n)).list = (s.deck n).list)
    (hf : (f (s.deck n)).free = false) : (s.onDeck n f).linksBusy := by
  refine hs.congr (fun m => ?_) (fun m => ?_)
  all_goals
    by_cases hm : m = n
    · subst hm
      simp [hl, hf, (hs m).2.2]
    · simp [State.onDeck_deck_ne s f hm]

/-! ## The transmitter -/

/-- A held byte moves to shift (R24). -/
theorem Transmitter.characterEnd_of_held (hb : t.shift = some b) (hh : t.holding = some h) :
    t.characterEnd = ({ t with shift := some h, holding := none }, false) := by
  simp only [Transmitter.characterEnd, hb, hh]

/-- With no held byte the port becomes IDLE, and the frame is sent if the byte was its final one (R24, R25). -/
theorem Transmitter.characterEnd_of_unheld (hb : t.shift = some b) (hh : t.holding = none) :
    t.characterEnd = ({ t with shift := none, state := .idle }, b.final) := by
  simp only [Transmitter.characterEnd, hb, hh]

/-! ## The row on a deck port -/

/-- CHARACTER_END of a ready part acts on the state as it stands. -/
theorem exec_characterEnd_of_ready (hs : s.ready) (p : PortId) :
    exec (.characterEnd p) s = .next (s.endCharacter p) :=
  command_of_ready hs fun s => s.endCharacter p

/-- A character end that sends no frame changes the deck's transmitter alone. -/
theorem endCharacter_deck_of_unsent (ht : (s.deck n).tx.characterEnd = (t, false)) :
    s.endCharacter (.deck n) = s.onTx n fun _ => t := by
  simp [State.endCharacter, ht]

/-- A character end that sends the frame tells the deck link, and the decks are settled (R25). -/
theorem endCharacter_deck_of_sent (ht : (s.deck n).tx.characterEnd = (t, true)) :
    s.endCharacter (.deck n) = ((s.onTx n fun _ => t).deckFrameSent n).settleDecks := by
  simp [State.endCharacter, ht]

/-- The exchange `e` of a deck awaiting its reply, the reply timer loaded (R42). -/
def DeckUnit.await (d : DeckUnit) (e : Exchange) : DeckUnit :=
  { d with link := { d.link with exchange := some { e with phase := .awaiting, timer := some d.settings.replyTimeout } } }

/-- A frame-sent with no seek pending supersedes nothing: the exchange awaits its reply (R42, R51). -/
theorem deckFrameSent_of_noSeek (he : (s.deck n).link.exchange = some e) (hk : (s.deck n).link.seek = none) :
    s.deckFrameSent n = s.onDeck n fun d => d.await e := by
  simp [State.deckFrameSent, he, hk, DeckUnit.await]

/-- The final byte of a frame sent with every link busy: the port is IDLE and the exchange awaits its reply. -/
theorem endCharacter_deck_of_final (hs : s.linksBusy) (ht : (s.deck n).tx.characterEnd = (t, true))
    (he : (s.deck n).link.exchange = some e) (hk : (s.deck n).link.seek = none) :
    s.endCharacter (.deck n) = s.onDeck n fun d => { d with tx := t }.await e := by
  have hsent : (s.onTx n fun _ => t).deckFrameSent n = s.onDeck n fun d => { d with tx := t }.await e :=
    (deckFrameSent_of_noSeek (by simpa using he) (by simpa using hk)).trans (State.onDeck_onDeck s n _ _)
  have hbusy : (s.onDeck n fun d => { d with tx := t }.await e).linksBusy :=
    hs.onDeck rfl (DeckUnit.free_of_exchange rfl)
  rw [endCharacter_deck_of_sent ht, hsent, settleDecks_of_busy hbusy]

/-! ## The row on EP -/

/-- A character end on EP changes EP's transmitter, and the generator if it sends the frame (R151). -/
theorem endCharacter_ep {sent : Bool} (ht : s.ep.tx.characterEnd = (t, sent)) :
    s.endCharacter .ep = { s with
      ep := { s.ep with tx := t }
      generator := if sent = true then s.generator.frameSent else s.generator } := by
  cases sent <;> simp [State.endCharacter, ht, State.onGenerator]

/-! ## The statement -/

/-- Settles O26: the transmitter's move by whether a byte is held, then the frame-sent of the port it stands on. -/
theorem characterEndMovesTheTransmitter : Obligations.CharacterEndMovesTheTransmitter := by
  refine ⟨fun s n b hs hb => ⟨fun h hh => ?held, fun hh hf => ?unfinished, fun e hh hf hl he hk => ?sent⟩,
    fun s b hs hb => ⟨fun h hh => ?heldEp, fun hh => ?lastEp⟩⟩
  all_goals rw [exec_characterEnd_of_ready hs]
  case held =>
    rw [endCharacter_deck_of_unsent (Transmitter.characterEnd_of_held hb hh)]
    rfl
  case unfinished =>
    rw [endCharacter_deck_of_unsent (hf ▸ Transmitter.characterEnd_of_unheld hb hh)]
    rfl
  case sent =>
    rw [endCharacter_deck_of_final hl (hf ▸ Transmitter.characterEnd_of_unheld hb hh) he hk]
    rfl
  case heldEp => rw [endCharacter_ep (Transmitter.characterEnd_of_held hb hh)]; rfl
  case lastEp => rw [endCharacter_ep (Transmitter.characterEnd_of_unheld hb hh)]; rfl

end Sys2Proof.Machine
end

section
/-!
PROOFS. The take (R115 to R118): a write of 6 deferred, ignored or finding nothing, and the refusal of an invalid event.
-/

namespace Sys2Proof.Machine

variable {s t : State}

/-! ## Changes of the engine that no arbiter sees -/

theorem EngineState.idle_or_held_of_atRest {st : EngineState} (h : st.atRest = true) : st = .idle ∨ st = .held := by
  cases st with
  | idle => exact .inl rfl
  | held => exact .inr rfl
  | _ => cases h

/-- At rest the engine lets no PUNCH-IN be sent (R134). -/
theorem EngineState.not_punching_of_atRest {st : EngineState} (h : st.atRest = true) :
    (st == .synced || st == .recording) = false := by
  obtain rfl | rfl := idle_or_held_of_atRest h <;> rfl

theorem EngineState.not_aborting_of_atRest {st : EngineState} (h : st.atRest = true) : (st != .aborting) = true := by
  obtain rfl | rfl := idle_or_held_of_atRest h <;> rfl

/-- IDLE and HELD bar the same punches (R134). -/
theorem punchBarred_of_atRest (hs : s.engine.state.atRest = true) (ht : t.engine.state.atRest = true)
    (r : EngineRequest) : t.punchBarred r = s.punchBarred r := by
  simp only [State.punchBarred, EngineState.not_punching_of_atRest hs, EngineState.not_punching_of_atRest ht,
    Bool.not_false, Bool.true_or]

/-- A change of the engine that keeps its claims, its event and its punches, and at most moves it between IDLE and HELD,
leaves the decks at rest. -/
theorem State.decksAtRest.onEngine (h : s.decksAtRest) {f : Engine → Engine}
    (hc : (f s.engine).claims = s.engine.claims) (hw : (f s.engine).working = s.engine.working)
    (hp : (f s.engine).punches = s.engine.punches)
    (hst : (f s.engine).state = s.engine.state ∨ s.engine.state.atRest = true ∧ (f s.engine).state.atRest = true) :
    (s.onEngine f).decksAtRest := by
  intro n
  have hbarred : ∀ r, (s.onEngine f).punchBarred r = s.punchBarred r := by
    obtain hst | ⟨hs, ht⟩ := hst
    · exact punchBarred_congr hst hp rfl
    · exact punchBarred_of_atRest hs ht
  have hab : ((f s.engine).state != .aborting) = (s.engine.state != .aborting) := by
    obtain hst | ⟨hs, ht⟩ := hst
    · rw [hst]
    · rw [EngineState.not_aborting_of_atRest hs, EngineState.not_aborting_of_atRest ht]
  have hchoice : (s.onEngine f).choice n = s.choice n :=
    choice_congr rfl (by simp only [State.claimed, State.onEngine_engine, hc])
      (by simp only [State.punchWindow, State.recorder, State.onEngine_engine, hw, hp, hab]) hbarred
  simp only [State.deckAtRest, State.onEngine_deck, hchoice]
  exact h n

/-! ## The refusal (R118) -/

@[simp] theorem length_refusalBytes (field : Nat) (f : FieldCount) : (refusalBytes field f).length = 34 := by
  simp [refusalBytes, halfOfField]

/-- Suite memory after the refusal of the event `r` in the slot at `a`, its result bytes written before its state. -/
def Memory.refused (m : Memory) (a : Nat) (r : List Byte) (field : Nat) (f : FieldCount) : Memory :=
  ((m.store (a + 30) (refusalBytes field f)).store (a + 2) (half (halfAt r 2))).store a [4]

/-- With its slot below the limit an event is refused with all its writes made (R118). -/
theorem refuseEvent_of_limit {a : Nat} (h : a + 64 ≤ s.iface.limit) (r : List Byte) (field : Nat) :
    s.refuseEvent a r field =
      ({ s with mem := s.mem.refused a r field s.F }.raise .editFault).onEngine fun e =>
        { e with state := .held, nextEvent := e.nextEvent + 1 } := by
  have hw : ∀ w ∈ [(a + 30, refusalBytes field s.F), (a + 2, half (halfAt r 2)), (a, [4])],
      w.1 + w.2.length ≤ s.iface.limit := by
    simp only [List.forall_mem_cons, length_refusalBytes, length_half, List.length_singleton]
    refine ⟨by omega, by omega, by omega, by simp⟩
  simp only [State.refuseEvent, writeAll_of_limit hw]
  rfl

/-! ## The take (R116) -/

/-- The first byte read of a slot is POSTED exactly when the slot is. -/
theorem byteAt_load_one (m : Memory) (a : Nat) : byteAt (m.load a 1) 0 = 1 ↔ m.read a = 1 := by
  rw [← BitVec.toNat_inj]
  rfl

/-- A take that finds its slot not POSTED changes nothing (R116). -/
theorem take_of_unposted (hl : s.eventSlot s.engine.nextEvent + 1 ≤ s.iface.limit)
    (hm : s.mem.read (s.eventSlot s.engine.nextEvent) ≠ 1) : s.take = s := by
  have hst := mt (byteAt_load_one _ _).mp hm
  simp [State.take, readMem_of_limit hl, hst]

/-- A take of a POSTED event that fails a check refuses it (R118). -/
theorem take_of_invalid {field : Nat} (hl : s.eventSlot s.engine.nextEvent + 64 ≤ s.iface.limit)
    (hm : s.mem.read (s.eventSlot s.engine.nextEvent) = 1)
    (hc : s.checkEvent (s.mem.load (s.eventSlot s.engine.nextEvent) 64) = .error field) :
    s.take = s.refuseEvent (s.eventSlot s.engine.nextEvent) (s.mem.load (s.eventSlot s.engine.nextEvent) 64) field := by
  have hl1 : s.eventSlot s.engine.nextEvent + 1 ≤ s.iface.limit := by omega
  have hst := (byteAt_load_one _ _).mpr hm
  simp [State.take, readMem_of_limit hl1, readMem_of_limit hl, hst, hc]

/-! ## A write of 6 (R115, R183) -/

/-- The part about to take: bit 6 cleared, and the engine in IDLE, released from HELD if it stood there (R115). -/
def State.released (s : State) : State := (s.setAttention 6 false).onEngine fun e => { e with state := .idle }

/-- The checks of an event do not look at the engine's state or at the attention bits. -/
theorem checkEvent_released (s : State) (r : List Byte) : s.released.checkEvent r = s.checkEvent r := rfl

/-- With no event running, a write of 6 acted on releases the engine and takes. -/
theorem attendTake_of_rest (h : s.engine.state.atRest = true) : s.attendTake = s.released.take := by
  simp [State.attendTake, State.released, h]

/-- While an event runs, a write of 6 acted on only clears its bit. -/
theorem attendTake_of_running (h : s.engine.state.atRest = false) : s.attendTake = s.setAttention 6 false := by
  simp [State.attendTake, h]

/-- Before the first acceptance a write of 6 is deferred, its bit set. -/
theorem attendSix_of_unconfigured (h : s.iface.configured = false) :
    s.attendSix = (s.setAttention 6 true).onEngine fun e => { e with deferred := true } := by
  simp [State.attendSix, State.setAttention, h]

/-- After it, outside a take, a write of 6 is acted on at once. -/
theorem attendSix_of_configured (hc : s.iface.configured = true) (ht : s.engine.takeInProgress = false) :
    s.attendSix = s.attendTake := by
  have hset : (s.setAttention 6 true).iface.configured = true := hc
  have hclear : (s.setAttention 6 true).attendTake = s.attendTake := by
    simp only [State.attendTake, setAttention_clear]
  simp [State.attendSix, hset, ht, hclear]

/-- ATTN_TAKE on a ready part that it leaves with its decks at rest does what the write of 6 does, and no more. -/
theorem exec_attnTake_of_rest (hs : s.ready) (he : s.attendSix = t) (ht : t.decksAtRest) :
    exec .attnTake s = .next t := by
  have hexec : exec .attnTake s = .next s.attendSix.settleDecks :=
    registerWrite_of_ready hs fun s => s.attendSix.settleDecks
  rw [hexec, he, settleDecks_of_rest ht]

/-! ## The statement -/

/-- Settles O11: each case by what the write of 6 leaves, in which no deck's command list or arbiter finds anything to
do. -/
theorem takeDeferredIgnoredOrRefused : Obligations.TakeDeferredIgnoredOrRefused := by
  refine ⟨fun s hs hd => ⟨fun hc => ?deferred, fun hc ht ha hl hm => ?unposted, fun hc ht ha => ?ignored⟩,
    fun s field hs hd hc ht ha hl hm he => ?refused⟩
  case deferred =>
    have hrest : (s.setAttention 6 true).decksAtRest := hd.congr rfl rfl rfl
    exact exec_attnTake_of_rest hs (attendSix_of_unconfigured hc) (hrest.onEngine rfl rfl rfl (.inl rfl))
  case unposted =>
    have hrest : (s.setAttention 6 false).decksAtRest := hd.congr rfl rfl rfl
    have htake : s.released.take = s.released := take_of_unposted hl hm
    exact exec_attnTake_of_rest hs
      (((attendSix_of_configured hc ht).trans (attendTake_of_rest ha)).trans htake)
      (hrest.onEngine rfl rfl rfl (.inr ⟨ha, rfl⟩))
  case ignored =>
    exact exec_attnTake_of_rest hs ((attendSix_of_configured hc ht).trans (attendTake_of_running ha))
      (hd.congr rfl rfl rfl)
  case refused =>
    have hrefuse := take_of_invalid (s := s.released) hl hm ((checkEvent_released s _).trans he)
    have htake := hrefuse.trans (refuseEvent_of_limit (s := s.released) hl _ field)
    refine exec_attnTake_of_rest hs
      (((attendSix_of_configured hc ht).trans (attendTake_of_rest ha)).trans htake) ?_
    refine State.decksAtRest.onEngine ?_ rfl rfl rfl (.inr ⟨ha, rfl⟩)
    exact hd.congr rfl rfl rfl

end Sys2Proof.Machine
end

section
/-!
PROOFS. The choice among the causes (R184, R185): what one pass over them in number order leaves chosen, and what a read
of CAUSE then does.
-/

namespace Sys2Proof.Machine

variable {i : Interface} {s : State} {best : Option Cause} {b c d : Cause}

/-! ## The causes in number order (Table 11-4) -/

theorem Cause.mem_list (c : Cause) : c ∈ Cause.list := by cases c <;> decide

theorem Cause.pairwise_num_lt_list : Cause.list.Pairwise (·.num < ·.num) := by decide

/-! ## One comparison -/

theorem Interface.presentable_iff :
    i.presentable c = true ↔ i.pending.get c = true ∧ i.floor < i.levels.get c := by
  simp [Interface.presentable]

theorem better_of_not_presentable (hc : i.presentable c = false) : i.better best c = best := by
  simp [Interface.better, hc]

theorem better_none (hc : i.presentable c = true) : i.better none c = some c := by
  simp [Interface.better, hc]

/-- A cause of higher level displaces the one chosen. -/
theorem better_of_level_lt (hc : i.presentable c = true) (h : i.levels.get b < i.levels.get c) :
    i.better (some b) c = some c := by
  simp [Interface.better, hc, h]

/-- A cause of no higher level leaves the one chosen. -/
theorem better_of_level_le (h : i.levels.get c ≤ i.levels.get b) : i.better (some b) c = some b := by
  simp [Interface.better, BitVec.not_lt.mpr h]

/-- Each comparison keeps what was chosen or chooses the presentable cause it looks at. -/
theorem better_cases (i : Interface) (best : Option Cause) (c : Cause) :
    i.better best c = best ∨ (i.presentable c = true ∧ i.better best c = some c) := by
  cases hc : i.presentable c with
  | false => exact .inl (better_of_not_presentable hc)
  | true =>
    cases best with
    | none => exact .inr ⟨rfl, better_none hc⟩
    | some b =>
      by_cases h : i.levels.get b < i.levels.get c
      · exact .inr ⟨rfl, better_of_level_lt hc h⟩
      · exact .inl (better_of_level_le (BitVec.not_lt.mp h))

/-! ## A pass over several causes -/

/-- A pass keeps what was chosen before it or chooses a presentable cause of its own. -/
theorem foldl_better_cases (i : Interface) (best : Option Cause) (l : List Cause) :
    l.foldl i.better best = best ∨ ∃ c ∈ l, i.presentable c = true ∧ l.foldl i.better best = some c := by
  induction l generalizing best with
  | nil => exact .inl rfl
  | cons d l ih =>
    rw [List.foldl_cons]
    obtain hkeep | ⟨c, hc, hp, hfold⟩ := ih (i.better best d)
    · rw [hkeep]
      exact (better_cases i best d).imp_right fun ⟨hp, hd⟩ => ⟨d, List.mem_cons_self, hp, hd⟩
    · exact .inr ⟨c, List.mem_cons_of_mem d hc, hp, hfold⟩

/-- A cause that no presentable one of the pass exceeds in level stays chosen. -/
theorem foldl_better_of_level_le {l : List Cause}
    (h : ∀ d ∈ l, i.presentable d = true → i.levels.get d ≤ i.levels.get c) :
    l.foldl i.better (some c) = some c := by
  induction l with
  | nil => rfl
  | cons d l ih =>
    obtain ⟨hd, hl⟩ := List.forall_mem_cons.mp h
    have hkeep : i.better (some c) d = some c := by
      cases hp : i.presentable d with
      | false => exact better_of_not_presentable hp
      | true => exact better_of_level_le (hd hp)
    rw [List.foldl_cons, hkeep, ih hl]

/-! ## The cause taken -/

theorem top_eq_none (h : ∀ c, i.presentable c = false) : i.top = none := by
  obtain hnone | ⟨c, -, hc, -⟩ := foldl_better_cases i none Cause.list
  · exact hnone
  · simp [h c] at hc

/-- The pass has chosen nothing, or a cause of lower level, when it comes to the cause that goes before every other
presentable one; and none after it displaces it. -/
theorem top_eq_some (hc : i.presentable c = true)
    (h : ∀ d, i.presentable d = true → d ≠ c →
      i.levels.get d < i.levels.get c ∨ (i.levels.get d = i.levels.get c ∧ c.num < d.num)) :
    i.top = some c := by
  obtain ⟨before, after, hsplit⟩ := List.append_of_mem c.mem_list
  have hsorted := Cause.pairwise_num_lt_list
  rw [hsplit, List.pairwise_append, List.pairwise_cons] at hsorted
  obtain ⟨-, ⟨hafter, -⟩, hbefore⟩ := hsorted
  have hreach : i.better (before.foldl i.better none) c = some c := by
    obtain hnone | ⟨d, hd, hp, hsome⟩ := foldl_better_cases i none before
    · rw [hnone, better_none hc]
    · have hnum : d.num < c.num := hbefore d hd c List.mem_cons_self
      have hlevel : i.levels.get d < i.levels.get c :=
        (h d hp (by rintro rfl; omega)).resolve_right fun ⟨_, hlt⟩ => by omega
      rw [hsome, better_of_level_lt hc hlevel]
  have hkeep : after.foldl i.better (some c) = some c := by
    refine foldl_better_of_level_le fun d hd hp => ?_
    have hnum : c.num < d.num := hafter d hd
    obtain hlt | ⟨heq, -⟩ := h d hp (by rintro rfl; omega)
    · exact BitVec.le_of_lt hlt
    · exact BitVec.le_of_eq heq
  rw [Interface.top, hsplit, List.foldl_append, List.foldl_cons, hreach, hkeep]

/-! ## The read of CAUSE (R185) -/

theorem readCause_of_top_none (h : s.iface.top = none) : s.readCause = { s with causeRead := 0xFF } := by
  simp [State.readCause, Interface.causeValue, h]

theorem readCause_of_top_some (h : s.iface.top = some c) :
    s.readCause =
      { s with
        causeRead := byte (c.num + 16 * (s.iface.levels.get c).toNat)
        iface := { s.iface with pending := s.iface.pending.set c false } } := by
  simp [State.readCause, Interface.causeValue, State.onIface, h]

/-- A read of CAUSE on a ready part is the read alone. -/
theorem exec_causeRead_of_ready (hs : s.ready) : exec .causeRead s = .next s.readCause :=
  command_of_ready hs State.readCause

/-- Settles O5: a read does what the cause chosen by the pass over all causes says, and the pass chooses the presentable
cause that goes before every other. -/
theorem causeReadTakesHighestLevel : Obligations.CauseReadTakesHighestLevel := by
  refine fun s hs => ⟨fun hnone => ?nothing, fun c hpend hlevel hfirst => ?taken⟩
  case nothing =>
    have htop : s.iface.top = none :=
      top_eq_none fun c => Bool.eq_false_iff.mpr fun hc => hnone c (Interface.presentable_iff.mp hc)
    rw [exec_causeRead_of_ready hs, readCause_of_top_none htop]
  case taken =>
    have htop : s.iface.top = some c :=
      top_eq_some (Interface.presentable_iff.mpr ⟨hpend, hlevel⟩) fun d hd hne =>
        have ⟨hp, hl⟩ := Interface.presentable_iff.mp hd
        hfirst d hp hl hne
    rw [exec_causeRead_of_ready hs, readCause_of_top_some htop]
    rfl

end Sys2Proof.Machine
end

section
/-!
PROOFS. What every command keeps: suite memory in its form and untouched above the limit (R182), the queue of commands,
and, unless the command is a reset, a read of CAUSE or a clear, every pending cause and the device capture (R184, R191).
-/

namespace Sys2Proof.Machine

variable {s t u : State}

/-! ## Rows of the part's own acts -/

theorem Kept.engineRow (h : Kept s t) (a : Act) : Kept s (t.engineRow a) :=
  ((h.foldl (fun b _ hu => hu.actIfDue b) _).then ((Calm.refl _).row a)).ite h

theorem Calm.replyRow (h : Calm s t) (n : Deck) (p : Reply → Bool) : Calm s (t.replyRow n p) := by
  unfold State.replyRow
  dsimp only
  split
  · exact (h.row _).ite h
  · exact h

theorem Calm.garbledRow (h : Calm s t) (n : Deck) : Calm s (t.garbledRow n) := (h.row _).ite h

/-! ## Ports -/

theorem Kept.placeByte (h : Kept s t) (p : PortId) : Kept s (t.placeByte p) := by
  cases p with
  | deck n => exact h.of_same rfl rfl rfl rfl rfl
  | ep => exact h.of_same rfl rfl rfl rfl rfl

theorem Kept.endCharacter (h : Kept s t) (p : PortId) : Kept s (t.endCharacter p) := by
  cases p with
  | deck n =>
    have hx : Kept s (t.onTx n fun _ => (t.deck n).tx.characterEnd.1) := h.onDeck n _
    exact (hx.then ((Calm.refl _).deckFrameSent n).settleDecks).ite hx
  | ep =>
    have hx : Kept s { t with ep := { t.ep with tx := t.ep.tx.characterEnd.1 } } := h.of_same rfl rfl rfl rfl rfl
    exact (hx.then ((Calm.refl _).onGenerator _)).ite hx

/-! ## The timeline -/

theorem Kept.timerExpiry (h : Kept s t) : Kept s t.timerExpiry := by
  unfold State.timerExpiry
  dsimp only
  split
  · exact (h.advanceField _ _ _).then ((Calm.refl _).raise _)
  all_goals exact h.advanceField _ _ _

theorem Kept.pulse (h : Kept s t) (id : FieldId) : Kept s (t.pulse id) := by
  unfold State.pulse
  dsimp only
  split
  · exact (h.advanceField _ _ _).ite h
  · exact ((h.advanceField _ _ _).then ((Calm.refl _).raise _)).ite h
  · exact h.onTimeline _
  · exact h.onTimeline _
  · exact h

/-! ## Attention groups, all-stop and GPI inputs -/

theorem Calm.attendSix (h : Calm s t) : Calm s t.attendSix :=
  ((h.setAttention _ _).onEngine _).ite (((h.setAttention _ _).onEngine _).ite (h.setAttention _ _).attendTake)

theorem Calm.attendMarks (h : Calm s t) (g : Nat) {f : State → State} (hf : ∀ u, Calm s u → Calm s (f u)) :
    Calm s (t.attendMarks g f) := hf _ (h.setAttention _ _)

theorem Calm.attendMarkGroup (h : Calm s t) (g : Nat) {f : State → State} (hf : ∀ u, Calm s u → Calm s (f u)) :
    Calm s (t.attendMarkGroup g f) := (h.attendMarks g hf).ite (h.setAttention _ _)

theorem Calm.allStop (h : Calm s t) : Calm s t.allStop := by
  have hend : Calm s ((t.abort .allStop).eachDeck fun n s => s.endChase n) :=
    (h.abort _).eachDeck fun n _ hu => hu.endChase n
  refine (hend.eachDeck fun n u hu => ?_).raise _
  exact (hu.offerEngine _ _).ite hu

theorem Calm.edge (h : Calm s t) (l : Line) (high : Bool) : Calm s (t.edge l high) := by
  unfold State.edge
  split
  · exact h
  · exact h.startRequest _
  · exact h.appendLog _
  · exact h

theorem Kept.inputChange (h : Kept s t) (l : Line) (high : Bool) : Kept s (t.inputChange l high) := by
  unfold State.inputChange
  extract_lets level moved
  have hlevel : Kept s level := h.onGpi _
  clear_value level
  have hmoved : Kept s moved := (hlevel.then ((Calm.refl _).edge _ _)).ite hlevel
  clear_value moved
  split
  · exact h
  · split
    · exact (hmoved.onGpi _).then (Calm.refl _).allStop
    · exact hmoved.onGpi _

/-! ## The load of a configuration -/

/-- A change of settings of the interface that are neither flags nor captures. -/
theorem Kept.onIface (h : Kept s t) {f : Interface → Interface}
    (hf : ∀ i, (f i).topmem = i.topmem ∧ (f i).pending = i.pending ∧ (f i).device = i.device) :
    Kept s (t.onIface f) := by
  obtain ⟨htop, hpend, hdev⟩ := hf t.iface
  refine ⟨htop.trans h.topmem, h.queue, h.held, h.latch, h.wf, h.above, fun c hc => ?_, ?_⟩
  · rw [State.onIface_iface, hpend]
    exact h.causes c hc
  · rw [State.onIface_iface, hdev]
    exact h.device

theorem Kept.changeTransmit (h : Kept s t) (n : Deck) (on : Bool) : Kept s (t.changeTransmit n on) := by
  unfold State.changeTransmit
  extract_lets v
  have hv : Kept s v := h.onDeck n _
  clear_value v
  exact (hv.then ((Calm.refl _).enterProbing n)).ite (hv.then ((Calm.refl _).enterAbsent n))

theorem Kept.restartPort (h : Kept s t) (n : Deck) (p : PortSettings) : Kept s (t.restartPort n p) := by
  unfold State.restartPort
  extract_lets v
  have hv : Kept s v := h.onDeck n _
  clear_value v
  exact (hv.then ((Calm.refl _).enterProbing n)).ite (hv.then ((Calm.refl _).enterAbsent n))

theorem Kept.configurePort (h : Kept s t) (n : Deck) (p : PortSettings) : Kept s (t.configurePort n p) := by
  unfold State.configurePort
  extract_lets old port rx
  have hport : Kept s port := h.onDeck n _
  clear_value port
  have hrx : Kept s rx := hport.ite (hport.onDeck n _)
  clear_value rx
  exact (h.restartPort n p).ite (hrx.ite (hrx.changeTransmit n p.txEnable))

theorem Kept.configureEffects (h : Kept s t) (p : PortSettings) : Kept s (t.configureEffects p) := by
  unfold State.configureEffects
  extract_lets old
  split
  · exact h
  · split <;> exact h.of_same rfl rfl rfl rfl rfl

theorem Kept.configureLog (h : Kept s t) (d r : List Byte) : Kept s (t.configureLog d r) := by
  unfold State.configureLog
  extract_lets old v
  have hv : Kept s v := h.onLog _
  clear_value v
  exact hv.ite (hv.then ((Calm.refl _).writeMem _ _))

theorem Calm.changeStandard (h : Calm s t) : Calm s t.changeStandard := by
  unfold State.changeStandard
  extract_lets ended reset
  have hended : Calm s ended := h.eachDeck fun n _ hu => hu.endChase n
  clear_value ended
  have hreset : Calm s reset := hended.eachDeck fun n _ hu => hu.onTracker n _
  clear_value reset
  exact (hreset.eachDeck fun n _ hu => hu.onLink n _).onMarks _

theorem Kept.takeSettings (h : Kept s t) (d r : List Byte) : Kept s (t.takeSettings d r) := by
  unfold State.takeSettings
  extract_lets std timed suited decks ports effects polls standard logged
  have hsuited : Kept s suited := h.of_same rfl rfl rfl rfl rfl
  clear_value suited
  have hdecks : Kept s decks := hsuited.eachDeck fun n _ hu => hu.onDeck n _
  clear_value decks
  have hports : Kept s ports := hdecks.eachDeck fun n _ hu => hu.configurePort n _
  clear_value ports
  have hpolls : Kept s polls := (hports.configureEffects _).eachDeck fun n _ hu => hu.onDeck n _
  clear_value polls
  have hstandard : Kept s standard := hpolls.ite (hpolls.then (Calm.refl _).changeStandard)
  clear_value standard
  exact ((hstandard.onGpi _).configureLog d r).onIface fun _ => ⟨rfl, rfl, rfl⟩

theorem Calm.sweepAll (h : Calm s t) (swept : Bool × Bool) (xs : List SweepSlot) : Calm s (t.sweepAll swept xs).2 := by
  induction xs generalizing t swept with
  | nil => exact h
  | cons x xs ih =>
    unfold State.sweepAll
    split
    · next e => exact h.of_readMem e
    · next e =>
      split
      · split
        · next e' => exact (h.of_readMem e).of_writeAll e'
        · next e' => exact ih ((h.of_readMem e).of_writeAll e') _
      · exact ih (h.of_readMem e) _

theorem Calm.sweep (h : Calm s t) : Calm s t.sweep := by
  unfold State.sweep
  have hall := h.sweepAll (false, false) (sweepSlots t.iface.bases)
  generalize t.sweepAll (false, false) (sweepSlots t.iface.bases) = r at hall ⊢
  obtain ⟨swept, v⟩ := r
  have hcommand : Calm s (if swept.1 = true then v.raise .deckFault else v) := (Calm.raise hall _).ite hall
  exact (hcommand.raise _).ite hcommand

theorem Calm.deferredScan (h : Calm s t) (n : Deck) : Calm s (t.deferredScan n) := ((h.onList n _).service n).ite h

theorem Calm.deferredGroups (h : Calm s t) : Calm s t.deferredGroups := by
  unfold State.deferredGroups
  extract_lets scanned taken loaded
  have hscanned : Calm s scanned := h.eachDeck fun n _ hu => hu.deferredScan n
  clear_value scanned
  have htaken : Calm s taken := (hscanned.onEngine _).attendTake.ite hscanned
  clear_value taken
  have hloaded : Calm s loaded := (htaken.attendMarks 9 fun _ hu => hu.loadMarks).ite htaken
  clear_value loaded
  exact (hloaded.attendMarks 12 fun _ hu => hu.evaluateProbe).ite hloaded

theorem Calm.writeResult (h : Calm s t) (base : Nat) (c : FaultCode) (o : Nat) : Calm s (t.writeResult base c o) :=
  h.writeAll _

theorem Kept.acceptConfig (h : Kept s t) (d r : List Byte) (base : Nat) : Kept s (t.acceptConfig d r base) := by
  unfold State.acceptConfig
  extract_lets first written configured
  have hwritten : Kept s written := (h.takeSettings d r).then ((Calm.refl _).writeResult base .accepted 0)
  clear_value written
  have hconfigured : Kept s configured := hwritten.onIface fun _ => ⟨rfl, rfl, rfl⟩
  clear_value configured
  exact ((hconfigured.then (Calm.refl _).sweep.deferredGroups).ite hconfigured).then ((Calm.refl _).raise _)

theorem Calm.refuseConfig (h : Calm s t) (base : Nat) (c : FaultCode) (o : Nat) : Calm s (t.refuseConfig base c o) :=
  (h.writeResult base c o).raise _

theorem Kept.of_readMem (h : Kept s t) {a n : Nat} {r : Option (List Byte)} (e : t.readMem a n = (r, u)) : Kept s u :=
  h.then ((Calm.refl t).of_readMem e)

theorem Kept.loadConfig (h : Kept s t) : Kept s t.loadConfig := by
  unfold State.loadConfig
  split
  · next e => exact h.of_readMem e
  · next e =>
    dsimp only
    split
    · next e' => exact (h.of_readMem e).of_readMem e'
    · next e' =>
      have hread := (h.of_readMem e).of_readMem e'
      split
      · exact hread.then ((Calm.refl _).refuseConfig _ _ _)
      · split
        · exact hread.then ((Calm.refl _).refuseConfig _ _ _)
        · exact hread.acceptConfig _ _ _

/-! ## Commands -/

/-- The commands that change by their meaning what every other command keeps: the resets and the release of the line,
the write of TOPMEM, the read of CAUSE, the clear of the device capture. -/
def singular : Instr → Bool
  | .powerOn | .resetLine | .resetLineRelease | .restart | .topmemWrite _ | .causeRead | .clearDeviceFault => true
  | _ => false

/-- A command completes in a state that keeps what `s` has. -/
abbrev Completes (s : State) (o : Host.Outcome State Fault Refusal) : Prop := ∃ t, o = .next t ∧ Kept s t

/-- A command completes as its row does, when what the row leaves also follows from what comes before it. -/
theorem command_completes_in {R : State → State → Prop} {f : State → State} (hR : ∀ {t u}, Kept s t → R t u → R s u)
    (hf : ∀ u, R u (f u)) : ∃ t, command f s = .next t ∧ R s t :=
  ⟨_, rfl, hR (Kept.refl s).settle (hf _)⟩

theorem registerWrite_completes_in {R : State → State → Prop} {f : State → State}
    (hR : ∀ {t u}, Kept s t → R t u → R s u) (hrefl : R s s) (hf : ∀ u, R u (f u)) :
    ∃ t, registerWrite f s = .next t ∧ R s t := by
  unfold registerWrite
  split
  · exact ⟨s, rfl, hrefl⟩
  · exact command_completes_in hR hf

theorem directRow_completes {f : State → State} (hf : ∀ u, Kept u (f u)) : Completes s (directRow f s) :=
  ⟨_, rfl, hf s⟩

theorem command_completes {f : State → State} (hf : ∀ u, Kept u (f u)) : Completes s (command f s) :=
  command_completes_in Kept.trans hf

theorem registerWrite_completes {f : State → State} (hf : ∀ u, Kept u (f u)) : Completes s (registerWrite f s) :=
  registerWrite_completes_in Kept.trans (Kept.refl s) hf

/-- A command whose row is calm. -/
theorem command_completes_of_calm {f : State → State} (hf : ∀ u, Calm u (f u)) : Completes s (command f s) :=
  command_completes fun u => (hf u).toKept

theorem registerWrite_completes_of_calm {f : State → State} (hf : ∀ u, Calm u (f u)) :
    Completes s (registerWrite f s) :=
  registerWrite_completes fun u => (hf u).toKept

/-- The row of an engine act completes. -/
theorem engineRow_completes (a : Act) : Completes s (command (fun s => s.engineRow a) s) :=
  command_completes fun u => (Kept.refl u).engineRow a

theorem row_completes (a : Act) : Completes s (command (fun s => s.row a) s) :=
  command_completes_of_calm fun u => (Calm.refl u).row a

theorem replyRow_completes (n : Deck) (p : Reply → Bool) : Completes s (command (fun s => s.replyRow n p) s) :=
  command_completes_of_calm fun u => (Calm.refl u).replyRow n p

/-- Every command that is not singular completes and keeps what the part has. -/
theorem exec_completes (c : Instr) (hc : singular c = false) (s : State) : Completes s (exec c s) := by
  cases c with
  | powerOn | resetLine | resetLineRelease | restart | topmemWrite | causeRead | clearDeviceFault => cases hc
  | allStop => exact registerWrite_completes_of_calm fun u => (Calm.refl u).allStop.settleDecks
  | floorWrite v => exact registerWrite_completes fun u => (Kept.refl u).onIface fun _ => ⟨rfl, rfl, rfl⟩
  | registerWriteNoEffect => exact registerWrite_completes fun u => Kept.refl u
  | attnScan n => exact registerWrite_completes_of_calm fun u => (((Calm.refl u).setAttention _ _).onList n _).settleDecks
  | attnTake => exact registerWrite_completes_of_calm fun u => (Calm.refl u).attendSix.settleDecks
  | attnStart => exact registerWrite_completes_of_calm fun u => ((Calm.refl u).setAttention _ _).startRequest _
  | attnAbort => exact registerWrite_completes_of_calm fun u => (((Calm.refl u).setAttention _ _).abort _).settleDecks
  | attnMarkLoad => exact registerWrite_completes_of_calm fun u => (Calm.refl u).attendMarkGroup 9 fun _ h => h.loadMarks
  | attnConfigLoad =>
    exact registerWrite_completes fun u =>
      ((Kept.refl u).then ((Calm.refl u).setAttention _ _)).loadConfig.then (Calm.refl _).settleDecks
  | attnLogReread => exact registerWrite_completes_of_calm fun u => ((Calm.refl u).setAttention _ _).rereadLog
  | attnProbe =>
    exact registerWrite_completes_of_calm fun u => (Calm.refl u).attendMarkGroup 12 fun _ h => h.evaluateProbe
  | fieldTimerExpiry => exact command_completes fun u => (Kept.refl u).timerExpiry
  | referencePulse id => exact command_completes fun u => (Kept.refl u).pulse id
  | referenceLock =>
    unfold exec execReferenceLock
    exact directRow_completes fun u => (Kept.refl u).immediates.lockReference.ite (Kept.refl u)
  | referenceLost =>
    unfold exec execReferenceLost
    exact directRow_completes fun u => ((Kept.refl u).loseReference.then (Calm.refl _).settleDecks).ite (Kept.refl u)
  | txBytePlace p => exact command_completes fun u => (Kept.refl u).placeByte p
  | characterEnd p => exact command_completes fun u => (Kept.refl u).endCharacter p
  | receiverSettled n => exact command_completes_of_calm fun u => (Calm.refl u).onRx n _
  | byteArrival n => exact command_completes fun u => (Kept.refl u).onDeck n _
  | lineFallToSpace n => exact command_completes_of_calm fun u => (Calm.refl u).onRx n _
  | falseStart n => exact command_completes_of_calm fun u => (Calm.refl u).onRx n _
  | byteTake n =>
    exact command_completes fun u => ((Kept.refl u).actIfDue _).then ((Calm.refl _).takeByte n)
  | replyTaken n => exact replyRow_completes n _
  | replyRefused n => exact replyRow_completes n _
  | replyHoldOn n => exact replyRow_completes n _
  | replyState n => exact replyRow_completes n _
  | replyPosition n => exact replyRow_completes n _
  | garbledFrame n => exact command_completes_of_calm fun u => (Calm.refl u).garbledRow n
  | replyTimerExpiry n => exact row_completes (.reply n)
  | seekTimerExpiry n => exact row_completes (.seek n)
  | pollTimerExpiry n => exact row_completes (.poll n)
  | ltcGap n => exact row_completes (.gap n)
  | flywheelLimit n => exact row_completes (.limit n)
  | completionRetry => exact row_completes .retry
  | linkEntersDown n =>
    unfold exec execLinkEntersDown
    exact directRow_completes fun u => ((Calm.refl u).enterDown n).settleDecks.toKept.ite (Kept.refl u)
  | wordArrival n w =>
    unfold exec execWordArrival
    refine command_completes_of_calm fun u => ?_
    cases ltcWord u.standard w with
    | none => exact Calm.refl u
    | some x => exact ((Calm.refl u).takeWord n x).settleDecks
  | chaseLock n =>
    unfold exec execChaseLock
    exact directRow_completes fun u => ((Calm.refl u).lockChase n).toKept.ite (Kept.refl u)
  | chaseUnlock n =>
    unfold exec execChaseUnlock
    exact directRow_completes fun u => ((Calm.refl u).unlockChase n).toKept.ite (Kept.refl u)
  | roll => exact engineRow_completes .roll
  | syncCheck => exact engineRow_completes .sync
  | trigger i => exact engineRow_completes (.trigger i)
  | punchWindowOpen p => exact engineRow_completes (.window p)
  | punchInQueued p => exact engineRow_completes (.punchIn p)
  | punchAbandoned p => exact engineRow_completes (.abandon p)
  | rehearseRecordIn => exact engineRow_completes .rehearseIn
  | punchOutQueued => exact engineRow_completes .punchOut
  | recordOut => exact engineRow_completes .recordOut
  | endOfPostroll => exact engineRow_completes .endPostroll
  | gpiInputChange l high =>
    unfold exec execGpiInputChange
    exact command_completes fun u => ((Kept.refl u).inputChange l high).then (Calm.refl _).settleDecks
  | pulseEnd l =>
    unfold exec execPulseEnd
    exact command_completes_of_calm fun u => ((Calm.refl u).run (.pulse l)).ite (Calm.refl u)

/-! ## The singular commands -/

/-- What every command keeps, the singular ones included: the queue, the form of suite memory, and each byte at or above
both the old limit and the new one. -/
structure Sound (s t : State) : Prop where
  queue : t.pending = s.pending
  wf : s.mem.wf = true → t.mem.wf = true
  above : ∀ a, s.iface.limit ≤ a → t.iface.limit ≤ a → t.mem.read a = s.mem.read a

theorem Kept.sound (h : Kept s t) : Sound s t := ⟨h.queue, h.wf, fun a ha _ => h.above a ha⟩

/-- A change that leaves the queue and suite memory alone, whatever it does to the interface. -/
theorem Sound.of_same (hq : t.pending = s.pending) (hm : t.mem = s.mem) : Sound s t :=
  ⟨hq, fun h => hm ▸ h, fun a _ _ => by rw [hm]⟩

/-- What was kept before a change that is sound. -/
theorem Kept.trans_sound (h : Kept s t) (k : Sound t u) : Sound s u :=
  ⟨k.queue.trans h.queue, fun w => k.wf (h.wf w),
    fun a hs hu => (k.above a (h.limit ▸ hs) hu).trans (h.above a hs)⟩

/-- A change of the interface alone, and after it writes below the limit then in force. -/
theorem Sound.of_same_then (hq : t.pending = s.pending) (hm : t.mem = s.mem) (k : Kept t u) : Sound s u :=
  ⟨k.queue.trans hq, fun w => k.wf (hm ▸ w), fun a _ hu => by rw [k.above a (k.limit ▸ hu), hm]⟩

theorem kept_writeStartUp (s : State) : Kept s s.writeStartUp := by
  unfold State.writeStartUp
  split
  next v hv =>
    have hwritten : Kept s v := ((Calm.refl s).of_writeAll hv).toKept
    have hdue : Kept s (v.onIface fun i => { i with startUpDue := false }) := hwritten.onIface fun _ => ⟨rfl, rfl, rfl⟩
    exact hdue.then (Calm.refl _).writeDevice

theorem command_sound {f : State → State} (hf : ∀ u, Sound u (f u)) : ∃ t, command f s = .next t ∧ Sound s t :=
  command_completes_in Kept.trans_sound hf

theorem registerWrite_sound {f : State → State} (hf : ∀ u, Sound u (f u)) :
    ∃ t, registerWrite f s = .next t ∧ Sound s t :=
  registerWrite_completes_in Kept.trans_sound (Kept.refl s).sound hf

theorem sound_restart (s : State) : Sound s s.restart := by
  unfold State.restart
  extract_lets v
  split
  · exact Sound.of_same rfl rfl
  · exact Sound.of_same_then (t := v) rfl rfl (kept_writeStartUp v)

theorem sound_writeTopmem (s : State) (v : Half) : Sound s (s.writeTopmem v) := by
  unfold State.writeTopmem
  extract_lets old u
  have hu : u.pending = s.pending ∧ u.mem = s.mem := ⟨rfl, rfl⟩
  clear_value u
  obtain ⟨hq, hm⟩ := hu
  split
  · exact Sound.of_same hq hm
  · split
    · exact Sound.of_same_then hq hm (kept_writeStartUp u)
    · split
      · exact Sound.of_same_then hq hm (Calm.refl u).writeDevice.toKept
      · exact Sound.of_same hq hm

theorem sound_clearDevice (s : State) : Sound s s.clearDevice :=
  Sound.of_same_then (t := s.onIface fun i => { i with device := .empty }) rfl rfl (Calm.refl _).writeDevice.toKept

theorem sound_readCause (s : State) : Sound s s.readCause := by
  unfold State.readCause
  split <;> exact Sound.of_same rfl rfl

/-- Every command completes in a state that is sound. -/
theorem exec_sound (c : Instr) (s : State) : ∃ t, exec c s = .next t ∧ Sound s t := by
  by_cases hc : singular c = false
  · obtain ⟨t, ht, hk⟩ := exec_completes c hc s
    exact ⟨t, ht, hk.sound⟩
  · cases c with
    | powerOn => exact ⟨_, rfl, .of_same rfl rfl⟩
    | resetLine => exact ⟨_, rfl, .of_same rfl rfl⟩
    | resetLineRelease => exact ⟨_, rfl, .of_same rfl rfl⟩
    | restart => exact registerWrite_sound sound_restart
    | topmemWrite v => exact registerWrite_sound fun u => sound_writeTopmem u v
    | causeRead => exact command_sound sound_readCause
    | clearDeviceFault => exact registerWrite_sound sound_clearDevice
    | _ => exact absurd rfl hc

/-! ## Causes and the device capture -/

/-- Between `s` and `t` no pending cause is lost when `causes`, and no device fault when `device`. -/
structure LosesNothing (causes device : Prop) (s t : State) : Prop where
  queue : t.pending = s.pending
  pending : causes → ∀ k, s.iface.pending.get k = true → t.iface.pending.get k = true
  capture : device → s.iface.device.severity ≤ t.iface.device.severity

variable {causes device : Prop}

theorem Kept.losesNothing (h : Kept s t) : LosesNothing causes device s t :=
  ⟨h.queue, fun _ => h.causes, fun _ => h.device⟩

theorem Kept.trans_losesNothing (h : Kept s t) (k : LosesNothing causes device t u) : LosesNothing causes device s u :=
  ⟨k.queue.trans h.queue, fun hc c hp => k.pending hc c (h.causes c hp), fun hd => h.device.trans (k.capture hd)⟩

/-- A change of the interface that moves neither the flags nor the capture, and after it one that keeps them. -/
theorem LosesNothing.of_same_then (hq : t.pending = s.pending) (hp : t.iface.pending = s.iface.pending)
    (hd : t.iface.device = s.iface.device) (k : Kept t u) : LosesNothing causes device s u :=
  ⟨k.queue.trans hq, fun _ c hc => k.causes c (hp ▸ hc), fun _ => hd ▸ k.device⟩

theorem writeTopmem_losesNothing (s : State) (v : Half) : LosesNothing causes device s (s.writeTopmem v) := by
  unfold State.writeTopmem
  extract_lets old u
  have hu : Kept u (if u.iface.topmem = 0 then u else if u.iface.startUpDue = true then u.writeStartUp
      else if old = 0 then u.writeDevice else u) :=
    (Kept.refl u).ite ((kept_writeStartUp u).ite ((Calm.refl u).writeDevice.toKept.ite (Kept.refl u)))
  exact .of_same_then (t := u) rfl rfl rfl hu

theorem clearDevice_losesNothing (s : State) : LosesNothing causes False s s.clearDevice :=
  have hwritten := (Calm.refl (s.onIface fun i => { i with device := .empty })).writeDevice
  ⟨hwritten.queue, fun _ => hwritten.causes, False.elim⟩

theorem readCause_losesNothing (s : State) : LosesNothing False device s s.readCause := by
  unfold State.readCause
  split <;> exact ⟨rfl, False.elim, fun _ => le_rfl⟩

/-! ## The statements -/

/-- Settles O56: a step on an empty queue changes nothing, and every command keeps the canonical form. -/
theorem stepKeepsMemoryCanonical : Obligations.StepKeepsMemoryCanonical := by
  intro s t hm hstep
  unfold step at hstep
  split at hstep
  · obtain rfl : s = t := by simpa using hstep
    exact hm
  · next c rest _ =>
    obtain ⟨u, hu, hsound⟩ := exec_sound c { s with pending := rest }
    obtain rfl : u = t := by simpa [hu] using hstep
    exact hsound.wf hm

/-- Settles O57: every command is sound, so that nothing at or above both limits is written. -/
theorem nothingIsWrittenAboveTheLimit : Obligations.NothingIsWrittenAboveTheLimit := by
  intro c s t a hexec hs ht
  obtain ⟨u, hu, hsound⟩ := exec_sound c s
  obtain rfl : u = t := by simpa [hu] using hexec
  exact hsound.above a hs ht

/-- Every command completes; what it may lose besides a reset is the cause that a read of CAUSE takes and the capture
that the host clears. -/
theorem exec_losesNothing (c : Instr) (s : State) : ∃ t, exec c s = .next t ∧
    LosesNothing (c ≠ .powerOn ∧ c ≠ .resetLine ∧ c ≠ .restart ∧ c ≠ .causeRead)
      (c ≠ .powerOn ∧ c ≠ .resetLine ∧ c ≠ .restart ∧ c ≠ .clearDeviceFault) s t := by
  by_cases hc : singular c = false
  · obtain ⟨t, ht, hk⟩ := exec_completes c hc s
    exact ⟨t, ht, hk.losesNothing⟩
  · cases c with
    | powerOn | resetLine | restart =>
      obtain ⟨t, ht, hsound⟩ := exec_sound _ s
      exact ⟨t, ht, hsound.queue, by simp, by simp⟩
    | resetLineRelease => exact ⟨_, rfl, rfl, fun _ _ h => h, fun _ => le_rfl⟩
    | topmemWrite v =>
      exact registerWrite_completes_in Kept.trans_losesNothing (Kept.refl s).losesNothing
        fun u => writeTopmem_losesNothing u v
    | causeRead =>
      have hread : ∃ t, exec .causeRead s = .next t ∧ LosesNothing False True s t :=
        command_completes_in (f := State.readCause) Kept.trans_losesNothing readCause_losesNothing
      simpa using hread
    | clearDeviceFault =>
      have hclear : ∃ t, exec .clearDeviceFault s = .next t ∧ LosesNothing True False s t :=
        registerWrite_completes_in (f := State.clearDevice) Kept.trans_losesNothing (Kept.refl s).losesNothing
          clearDevice_losesNothing
      simpa using hclear
    | _ => exact absurd rfl hc

/-- Settles O58. -/
theorem everyCommandCompletesAndLosesNothing : Obligations.EveryCommandCompletesAndLosesNothing := by
  intro c s
  obtain ⟨t, ht, hkeep⟩ := exec_losesNothing c s
  exact ⟨t, ht, hkeep.queue, fun h₁ h₂ h₃ =>
    ⟨fun h => hkeep.pending ⟨h₁, h₂, h₃, h⟩, fun h => hkeep.capture ⟨h₁, h₂, h₃, h⟩⟩⟩

end Sys2Proof.Machine
end

section
/-!
PROOFS. Suite memory read in runs of bytes after stores, and what the resets and the writes of the register window leave
(R19, R35, R56, R75, R92, R109, R124, R147, R162, R180 to R187, R193, R194).
-/

namespace Sys2Proof.Machine

variable {s t : State} {m : Memory}

/-! ## Runs of bytes after stores -/

theorem Memory.load_congr {m' : Memory} {a n : Nat} (h : ∀ b, a ≤ b → b < a + n → m'.read b = m.read b) :
    m'.load a n = m.load a n := by
  simp only [Memory.load]
  refine List.map_congr_left fun i hi => h _ (by omega) ?_
  have := List.mem_range.mp hi
  omega

/-- Bytes stored are the bytes loaded. -/
theorem Memory.load_store_self (hm : m.wf = true) (a : Nat) (bs : List Byte) :
    (m.store a bs).load a bs.length = bs := by
  refine List.ext_getElem (by simp) fun i hi hb => ?_
  simp only [Memory.load, List.getElem_map, List.getElem_range]
  exact Memory.read_store_inside a bs hm hb

theorem Memory.load_store_eq (hm : m.wf = true) {a n : Nat} {bs : List Byte} (hn : bs.length = n) :
    (m.store a bs).load a n = bs := hn ▸ Memory.load_store_self hm a bs

/-- A store leaves a run of bytes beside it alone. -/
theorem Memory.load_store_beside (m : Memory) {a n b : Nat} {bs : List Byte} (h : a + n ≤ b ∨ b + bs.length ≤ a) :
    (m.store b bs).load a n = m.load a n :=
  Memory.load_congr fun c _ _ => Memory.read_store_outside m b bs (by omega)

theorem Memory.wf_storeAll (hm : m.wf = true) (ws : List (Nat × List Byte)) : (m.storeAll ws).wf = true := by
  induction ws generalizing m with
  | nil => exact hm
  | cons w ws ih => exact ih (Memory.wf_store w.1 w.2 hm)

theorem Memory.read_storeAll_outside (m : Memory) {b : Nat} {ws : List (Nat × List Byte)}
    (h : ∀ w ∈ ws, b < w.1 ∨ w.1 + w.2.length ≤ b) : (m.storeAll ws).read b = m.read b := by
  induction ws generalizing m with
  | nil => rfl
  | cons w ws ih =>
    obtain ⟨hw, hws⟩ := List.forall_mem_cons.mp h
    exact (ih _ hws).trans (Memory.read_store_outside m w.1 w.2 hw)

theorem Memory.load_add (m : Memory) (a n k : Nat) : m.load a (n + k) = m.load a n ++ m.load (a + n) k := by
  simp only [Memory.load, List.range_add, List.map_append, List.map_map]
  congr 2
  funext i
  simp [Nat.add_assoc]

/-! ## The directory after its writers -/

/-- The writes that copy a device capture into the directory, in their order (R187). -/
def Capture.writes (c : Capture) : List (Nat × List Byte) :=
  [(0x31, [byte c.code.num]), (0x32, halfSat c.offset), (0x34, wordOfField c.F), (0x30, [byte c.severity])]

/-- The writes of the start-up record, in their order (R193). -/
def startUpWrites (c : ResetCause) : List (Nat × List Byte) := [(0x20, [byte c.code]), (0x21, [1]), (0x22, [1])]

theorem Memory.read_capture_outside (m : Memory) (c : Capture) {b : Nat} (h : b < 0x30 ∨ 0x38 ≤ b) :
    (m.storeAll c.writes).read b = m.read b := by
  refine m.read_storeAll_outside ?_
  simp only [Capture.writes, List.forall_mem_cons, length_halfSat, length_wordOfField, List.length_singleton]
  refine ⟨by omega, by omega, by omega, by omega, by simp⟩

theorem Memory.read_startUp_outside (m : Memory) (c : ResetCause) {b : Nat} (h : b < 0x20 ∨ 0x23 ≤ b) :
    (m.storeAll (startUpWrites c)).read b = m.read b := by
  refine m.read_storeAll_outside ?_
  simp only [startUpWrites, List.forall_mem_cons, List.length_singleton]
  refine ⟨by omega, by omega, by omega, by simp⟩

theorem Memory.load_capture (hm : m.wf = true) (c : Capture) : (m.storeAll c.writes).load 0x30 8 = c.directory :=
  Memory.load_device hm c

theorem Memory.load_startUp (hm : m.wf = true) (c : ResetCause) :
    (m.storeAll (startUpWrites c)).load 0x20 3 = [byte c.code, 1, 1] := by
  have hm₁ := Memory.wf_store 0x20 [byte c.code] hm
  have hm₂ := Memory.wf_store 0x21 [1] hm₁
  simp only [startUpWrites, Memory.storeAll_cons, Memory.storeAll_nil]
  have hcode : (((m.store 0x20 [byte c.code]).store 0x21 [1]).store 0x22 [1]).load 0x20 1 = [byte c.code] := by
    rw [Memory.load_store_beside _ (by simp), Memory.load_store_beside _ (by simp), Memory.load_store_eq hm (n := 1) rfl]
  have hrevision : (((m.store 0x20 [byte c.code]).store 0x21 [1]).store 0x22 [1]).load 0x21 1 = [1] := by
    rw [Memory.load_store_beside _ (by simp), Memory.load_store_eq hm₁ (n := 1) rfl]
  have hready := Memory.load_store_eq hm₂ (a := 0x22) (n := 1) (bs := [1]) rfl
  rw [Memory.load_add _ _ 2 1, Memory.load_add _ _ 1 1, hcode, hrevision, hready]
  rfl

/-- The start-up record and then the capture, as a write of TOPMEM or a restart leaves them (R193). -/
def Memory.started (m : Memory) (i : Interface) : Memory :=
  (m.storeAll (startUpWrites i.resetCause)).storeAll i.device.writes

theorem writeStartUp_started (h : s.iface.topmem.val ≠ 0) :
    s.writeStartUp = { s with mem := s.mem.started s.iface, iface := { s.iface with startUpDue := false } } :=
  writeStartUp_of_open h

theorem Memory.load_started_startUp (hm : m.wf = true) (i : Interface) :
    (m.started i).load 0x20 3 = [byte i.resetCause.code, 1, 1] := by
  rw [← Memory.load_startUp hm i.resetCause]
  exact Memory.load_congr fun b _ hb => Memory.read_capture_outside _ _ (by omega)

theorem Memory.load_started_capture (hm : m.wf = true) (i : Interface) :
    (m.started i).load 0x30 8 = i.device.directory :=
  Memory.load_capture (Memory.wf_storeAll hm _) _

theorem Memory.read_started_outside (m : Memory) (i : Interface) {b : Nat}
    (h : b < 0x20 ∨ (0x23 ≤ b ∧ b < 0x30) ∨ 0x38 ≤ b) : (m.started i).read b = m.read b :=
  (Memory.read_capture_outside _ _ (by omega)).trans (Memory.read_startUp_outside _ _ (by omega))

/-! ## The resets -/

/-- Every block but the interface and suite memory stands at its values after a reset. -/
structure BlocksReset (t : State) : Prop where
  configured : t.iface.configured = false
  timeline : t.timeline = .reset
  suite : t.suite = .reset
  decks : t.decks = State.reset.decks
  engine : t.engine = .reset
  generator : t.generator = .reset
  ep : t.ep = .reset
  marks : t.marks = .reset
  gpi : ∃ levels, t.gpi = .reset levels
  log : t.log = .reset

theorem blocksReset_resetBlocks (s : State) (c : ResetCause) (top : Fin 257) (held : Bool) :
    BlocksReset (s.resetBlocks c top held) :=
  ⟨rfl, rfl, rfl, rfl, rfl, rfl, rfl, rfl, ⟨s.gpi.levels, rfl⟩, rfl⟩

theorem restart_of_closed (h : s.iface.topmem = 0) : s.restart = s.resetBlocks .restart s.iface.topmem false :=
  if_pos h

/-- A restart with TOPMEM not 0 writes the start-up record at once (R193). -/
theorem restart_of_open (h : s.iface.topmem ≠ 0) :
    s.restart = { s.resetBlocks .restart s.iface.topmem false with
      mem := s.mem.started (.reset .restart s.iface.topmem)
      iface := { Interface.reset .restart s.iface.topmem with startUpDue := false } } := by
  have hopen : (s.resetBlocks .restart s.iface.topmem false).iface.topmem.val ≠ 0 :=
    fun hz => h (Fin.ext hz)
  exact (if_neg h).trans (writeStartUp_started hopen)

theorem blocksReset_restart (s : State) : BlocksReset s.restart := by
  have hblocks := blocksReset_resetBlocks s .restart s.iface.topmem false
  by_cases h : s.iface.topmem = 0
  · rwa [restart_of_closed h]
  · rw [restart_of_open h]
    exact { hblocks with configured := rfl }

/-- The resets of R194, a restart while the line is not held. -/
theorem exec_reset {c : Instr} (hc : c = .powerOn ∨ c = .resetLine ∨ (c = .restart ∧ s.resetHeld = false)) :
    ∃ t, exec c s = .next t ∧ BlocksReset t := by
  obtain rfl | rfl | ⟨rfl, hheld⟩ := hc
  · exact ⟨_, rfl, blocksReset_resetBlocks s _ _ _⟩
  · exact ⟨_, rfl, blocksReset_resetBlocks s _ _ _⟩
  · refine ⟨s.settle.restart, ?_, blocksReset_restart _⟩
    show registerWrite State.restart s = _
    simp [registerWrite, hheld, command]

/-- Deck `n` after a reset (R35, R56, R75, R92, R109, R162). -/
theorem BlocksReset.deck (h : BlocksReset t) (n : Deck) : t.deck n = .reset n.num := by
  rw [State.deck, h.decks]
  cases n <;> rfl

/-- Settles O1. -/
theorem stepTakesTheFront : Obligations.StepTakesTheFront := by
  refine ⟨fun s c rest h => ?front, fun s h => ?idle⟩ <;> simp [step, h]

/-- Settles O55. -/
theorem resetMemoryIsCanonical : Obligations.ResetMemoryIsCanonical := rfl

/-- Settles O2: each block read off its values after a reset. -/
theorem resetLeavesTimelinePortsAndUnits : Obligations.ResetLeavesTimelinePortsAndUnits := by
  refine ⟨fun s c hc => ?ports, fun s c hc => ?units⟩ <;> obtain ⟨t, ht, h⟩ := exec_reset hc
  case ports =>
    refine ⟨t, ht, h.timeline, fun n => ?_, h.ep⟩
    rw [h.deck n]
    exact ⟨rfl, rfl, rfl⟩
  case units =>
    obtain ⟨levels, hgpi⟩ := h.gpi
    refine ⟨t, ht, h.engine, h.generator, fun n => ⟨?_, by rw [h.deck n]; rfl⟩, by rw [h.suite]; rfl,
      by rw [h.marks]; rfl, by rw [h.marks]; simp [MarkUnit.reset, Mark.disabled],
      fun n => by rw [h.marks]; exact Six.get_all _ n, fun l => ?_, by rw [hgpi]; rfl, by rw [hgpi]; rfl, h.log⟩
    · simp only [State.programTally, h.generator]
      rfl
    · rw [State.outputActive, hgpi]
      cases l <;> exact ⟨rfl, rfl, rfl, rfl⟩

/-- Settles O3. -/
theorem resetLeavesDecks : Obligations.ResetLeavesDecks := by
  intro s c hc
  obtain ⟨t, ht, h⟩ := exec_reset hc
  refine ⟨t, ht, fun n => ?_⟩
  have hwindow : t.punchWindow n = false := by simp only [State.punchWindow, State.recorder, h.engine]; rfl
  rw [h.deck n]
  exact ⟨rfl, rfl, rfl, hwindow, h.configured, rfl, rfl, rfl⟩

/-! ## The interface after a reset (R194) -/

theorem interface_reset_causes (c : ResetCause) (top : Fin 257) (k : Cause) :
    (Interface.reset c top).pending.get k = false ∧ (Interface.reset c top).levels.get k = 0 := by
  cases k <;> exact ⟨rfl, rfl⟩

/-- A capture cleared is written as zeros. -/
theorem directory_empty : Capture.empty.directory = [0, 0, 0, 0, 0, 0, 0, 0] := rfl

/-- While the line is held with TOPMEM 0 no command changes suite memory (R182, R194). -/
theorem mem_of_closed {c : Instr} (hh : s.resetHeld = true) (ht : s.iface.topmem = 0) (hexec : exec c s = .next t)
    (a : Nat) : t.mem.read a = s.mem.read a := by
  obtain ⟨u, hu, hsound⟩ := exec_sound c s
  obtain rfl : u = t := by simpa [hu] using hexec
  have hzero : s.iface.limit = 0 := by simp [Interface.limit, ht]
  have htop : u.iface.topmem = 0 := by
    by_cases hc : singular c = false
    · obtain ⟨v, hv, hkept⟩ := exec_completes c hc s
      obtain rfl : v = u := by simpa [hv] using hexec
      exact hkept.topmem.trans ht
    · cases c with
      | powerOn | resetLine => injection hexec with h; subst h; rfl
      | resetLineRelease => injection hexec with h; subst h; exact ht
      | restart | topmemWrite | clearDeviceFault =>
        have hnext := (registerWrite_of_held hh _).symm.trans hexec
        injection hnext with h
        exact h ▸ ht
      | causeRead =>
        obtain ⟨v, hv, htop⟩ : ∃ v, exec .causeRead s = .next v ∧ v.iface.topmem = s.iface.topmem :=
          command_completes_in (f := State.readCause) (R := fun s t => t.iface.topmem = s.iface.topmem)
            (fun h k => k.trans h.topmem) fun u => by unfold State.readCause; split <;> rfl
        obtain rfl : v = u := by simpa [hv] using hexec
        exact htop.trans ht
      | _ => exact absurd rfl hc
  exact hsound.above a (by omega) (by simp [Interface.limit, htop])

/-! ## The field count at a field advance (R10) -/

theorem Calm.F_eq (h : Calm s t) : t.F = s.F := congrArg (fun x : Standing => x.timeline.F) h.standing

theorem loseReference_F (s : State) : s.loseReference.F = s.F := by
  unfold State.loseReference
  extract_lets v
  have hv : v.F = s.F := by
    have h := ((Calm.refl (s.onTimeline fun t => { t with refState := .lost })).raise .reference).offerDevice 4
      .referenceLost 0
    exact h.F_eq
  clear_value v
  split
  · exact ((Calm.refl v).abort _).F_eq.trans hv
  · exact hv

theorem immediates_F (s : State) : s.immediates.F = s.F := by
  unfold State.immediates
  extract_lets v
  have hcalm : Calm s v := (Calm.refl s).eachDeck fun n _ hu => hu.immediateDeck n
  clear_value v
  have hv : v.F = s.F := hcalm.F_eq
  split
  · refine (Calm.refl _).settleDecks.F_eq.trans ?_
    split
    · exact (loseReference_F v).trans hv
    · exact hv
  · rfl

theorem actIfDue_F (s : State) (a : Act) : (s.actIfDue a).F = s.F := by
  unfold State.actIfDue
  split
  · exact (immediates_F _).trans ((Calm.refl s).run a).settleDecks.F_eq
  · rfl

theorem catchUp_F (s : State) : s.catchUp.F = s.F := by
  unfold State.catchUp
  induction fieldActs generalizing s with
  | nil => rfl
  | cons a l ih => exact (ih _).trans (actIfDue_F s a)

theorem fieldFrameTick_timeline (s : State) : s.fieldFrameTick.timeline = s.timeline := by
  unfold State.fieldFrameTick
  extract_lets v
  split <;> rfl

theorem fieldTick_F (s : State) : s.fieldTick.F = s.F := by
  unfold State.fieldTick
  extract_lets v
  have hv : v.F = s.F :=
    (congrArg Timeline.F (fieldFrameTick_timeline _)).trans (Calm.refl s).tickTimers.F_eq
  clear_value v
  split
  · exact (Calm.refl v).frameBoundary.F_eq.trans hv
  · exact hv

theorem advance_F (s : State) (id : FieldId) (st : RefState) (n : Nat) : (s.advance id st n).F = s.F + 1 :=
  fieldTick_F (s.onTimeline fun t => t.advance id st n)

/-- A field advance counts one field. -/
theorem advanceField_F (s : State) (id : FieldId) (st : RefState) (n : Nat) :
    (s.advanceField id st n).F = s.F + 1 := by
  rw [State.advanceField, (Calm.refl _).settleDecks.F_eq, advance_F, catchUp_F]

@[simp] theorem raise_F (s : State) (c : Cause) : (s.raise c).F = s.F := rfl

theorem timerExpiry_F (s : State) : s.timerExpiry.F = s.F + 1 := by
  unfold State.timerExpiry
  extract_lets v
  split
  · rw [raise_F]
    exact advanceField_F s _ _ _
  all_goals exact advanceField_F s _ _ _

/-- Settles O4. -/
theorem resetLeavesInterfaceAndHeldLine : Obligations.ResetLeavesInterfaceAndHeldLine := by
  intro s
  refine ⟨⟨_, rfl, rfl, rfl, rfl, rfl, rfl, rfl, rfl, rfl, rfl, rfl, rfl, rfl, interface_reset_causes _ _⟩,
    ⟨_, rfl, rfl, rfl, rfl, rfl, rfl, rfl, rfl, rfl, rfl, rfl, rfl, rfl, interface_reset_causes _ _⟩,
    fun hs hm => ⟨s.restart, registerWrite_of_ready hs _, ?restart⟩, rfl, fun hh => ⟨?writes,
      fun v => registerWrite_of_held hh _, fun v => registerWrite_of_held hh _, fun r v => registerWrite_of_held hh _,
      fun n => registerWrite_of_held hh _, fun ht c t a hexec => mem_of_closed hh ht hexec a, fun hi hl => ?acts⟩⟩
  case restart =>
    by_cases ht : s.iface.topmem = 0
    · rw [restart_of_closed ht]
      exact ⟨rfl, rfl, rfl, rfl, rfl, rfl, rfl, rfl, rfl, rfl, interface_reset_causes _ _, fun _ => ⟨rfl, rfl⟩,
        fun h => absurd ht h⟩
    · have hstart : (s.mem.started (.reset .restart s.iface.topmem)).load 0x20 3 = [3, 1, 1] :=
        Memory.load_started_startUp hm _
      have hcapture : (s.mem.started (.reset .restart s.iface.topmem)).load 0x30 8 = [0, 0, 0, 0, 0, 0, 0, 0] :=
        (Memory.load_started_capture hm _).trans directory_empty
      rw [restart_of_open ht]
      exact ⟨rfl, rfl, rfl, rfl, rfl, rfl, rfl, rfl, rfl, rfl, interface_reset_causes .restart s.iface.topmem, fun h => absurd h ht,
        fun _ => ⟨rfl, hstart, hcapture,
          fun a ha => Memory.read_started_outside s.mem (.reset .restart s.iface.topmem) ha⟩⟩
  case writes =>
    simp only [List.forall_mem_cons]
    exact ⟨registerWrite_of_held hh _, registerWrite_of_held hh _, registerWrite_of_held hh _,
      registerWrite_of_held hh _, registerWrite_of_held hh _, registerWrite_of_held hh _, registerWrite_of_held hh _,
      registerWrite_of_held hh _, registerWrite_of_held hh _, registerWrite_of_held hh _, by simp⟩
  case acts =>
    have hsettle : s.settle = s := by simp [State.settle, immediates_of_none hi, hl]
    refine ⟨fun hnone => ?_, s.timerExpiry, ?_, timerExpiry_F s, ?_⟩
    · have htop : s.iface.top = none :=
        top_eq_none fun c => Bool.eq_false_iff.mpr fun hc => hnone c (Interface.presentable_iff.mp hc)
      show command State.readCause s = _
      rw [command, hsettle, readCause_of_top_none htop]
    · show command State.timerExpiry s = _
      rw [command, hsettle]
    · exact (Kept.refl s).timerExpiry.held.trans hh

/-! ## The register window -/

/-- The line stands asserted exactly while some cause is presentable (R184). -/
theorem line_iff (i : Interface) : i.line = true ↔ ∃ c, i.pending.get c = true ∧ i.floor < i.levels.get c := by
  simp only [Interface.line, List.any_eq_true, Interface.presentable_iff]
  exact ⟨fun ⟨c, _, h⟩ => ⟨c, h⟩, fun ⟨c, h⟩ => ⟨c, c.mem_list, h⟩⟩

theorem floorOf_eq (v : Byte) : floorOf v = BitVec.ofNat 3 (min 7 v.toNat) := by
  unfold floorOf
  split
  · next h => rw [Nat.min_eq_left (by omega)]; rfl
  · next h => rw [Nat.min_eq_right (by omega)]

/-- Settles O6. -/
theorem lineFloorAndDisregardedWrites : Obligations.LineFloorAndDisregardedWrites := by
  refine ⟨line_iff, fun s v hs => ?floor, fun s r v hs _ => registerWrite_of_ready hs _⟩
  case floor =>
    rw [← floorOf_eq]
    exact registerWrite_of_ready hs _

/-- A written TOPMEM value as held: above 256 as 256 (R193). -/
theorem topmemOf_val (v : Half) : (topmemOf v).val = min v.toNat 256 := by
  unfold topmemOf
  split
  · simp only; omega
  · show 256 = _
    omega

theorem topmemOf_eq_zero (v : Half) : topmemOf v = 0 ↔ v = 0 := by
  rw [← Fin.val_eq_val, topmemOf_val, ← BitVec.toNat_inj]
  show min v.toNat 256 = 0 ↔ v.toNat = 0
  omega

/-- The interface once a value is written to TOPMEM. -/
def Interface.opened (i : Interface) (v : Half) : Interface := { i with topmem := topmemOf v }

/-- A write of TOPMEM that makes it 0, or from a non-zero value with no start-up record due, writes nothing. -/
theorem writeTopmem_silent {v : Half} (h : v = 0 ∨ (s.iface.startUpDue = false ∧ s.iface.topmem ≠ 0)) :
    s.writeTopmem v = { s with iface := s.iface.opened v } := by
  unfold State.writeTopmem
  extract_lets old u
  by_cases hv : topmemOf v = 0
  · exact if_pos hv
  · obtain ⟨hdue, hold⟩ := h.resolve_left (mt (topmemOf_eq_zero v).mpr hv)
    have hu : ¬ u.iface.topmem = 0 := hv
    have hud : ¬ u.iface.startUpDue = true := by simpa [u] using hdue
    rw [if_neg hu, if_neg hud, if_neg hold]
    rfl

/-- A write of TOPMEM that makes it non-zero with a start-up record due writes the record. -/
theorem writeTopmem_startUp {v : Half} (hv : v ≠ 0) (hd : s.iface.startUpDue = true) :
    s.writeTopmem v =
      { s with mem := s.mem.started s.iface, iface := { s.iface.opened v with startUpDue := false } } := by
  unfold State.writeTopmem
  extract_lets old u
  have hu : ¬ u.iface.topmem = 0 := mt (topmemOf_eq_zero v).mp hv
  have hud : u.iface.startUpDue = true := hd
  rw [if_neg hu, if_pos hud, writeStartUp_started fun h => hu (Fin.ext h)]
  rfl

/-- A write of TOPMEM from 0 with no start-up record due writes the capture. -/
theorem writeTopmem_capture {v : Half} (hv : v ≠ 0) (hd : s.iface.startUpDue = false) (hold : s.iface.topmem = 0) :
    s.writeTopmem v = { s with mem := s.mem.storeAll s.iface.device.writes, iface := s.iface.opened v } := by
  unfold State.writeTopmem
  extract_lets old u
  have hu : ¬ u.iface.topmem = 0 := mt (topmemOf_eq_zero v).mp hv
  have hud : ¬ u.iface.startUpDue = true := by simpa [u] using hd
  rw [if_neg hu, if_neg hud, if_pos hold, writeDevice_of_open fun h => hu (Fin.ext h)]
  rfl

/-- Settles O7. -/
theorem topmemWriteMakesTheRecord : Obligations.TopmemWriteMakesTheRecord := by
  intro s v hs hm
  refine ⟨s.writeTopmem v, registerWrite_of_ready hs fun s => s.writeTopmem v, ?held, fun h => ?silent,
    fun hv hd => ?startUp, fun hv hd hold => ?capture⟩
  case silent => rw [writeTopmem_silent h]; rfl
  case startUp =>
    rw [writeTopmem_startUp hv hd]
    exact ⟨rfl, Memory.load_started_startUp hm _, Memory.load_started_capture hm _,
      fun a ha => Memory.read_started_outside _ _ ha⟩
  case capture =>
    rw [writeTopmem_capture hv hd hold]
    exact ⟨rfl, Memory.load_capture hm _, fun b hb => Memory.read_capture_outside _ _ hb⟩
  case held =>
    rw [← topmemOf_val]
    by_cases hv : v = 0
    · rw [writeTopmem_silent (.inl hv)]; rfl
    cases hd : s.iface.startUpDue with
    | true => rw [writeTopmem_startUp hv hd]; rfl
    | false =>
      by_cases hold : s.iface.topmem = 0
      · rw [writeTopmem_capture hv hd hold]; rfl
      · rw [writeTopmem_silent (.inr ⟨hd, hold⟩)]; rfl

/-- Settles O8. -/
theorem clearDeviceFaultClearsTheCapture : Obligations.ClearDeviceFaultClearsTheCapture := by
  intro s hs hm
  refine ⟨s.clearDevice, registerWrite_of_ready hs _, ?_⟩
  by_cases ht : s.iface.topmem = 0
  · have hclosed : s.clearDevice = s.onIface fun i => { i with device := .empty } :=
      writeDevice_of_closed (congrArg Fin.val ht)
    rw [hclosed]
    exact ⟨rfl, fun _ => rfl, fun h => absurd ht h⟩
  · have hopen : s.clearDevice = { s with
        mem := s.mem.storeAll Capture.empty.writes, iface := { s.iface with device := .empty } } :=
      writeDevice_of_open fun h => ht (Fin.ext h)
    rw [hopen]
    exact ⟨rfl, fun h => absurd h ht, fun _ =>
      ⟨(Memory.load_capture hm _).trans directory_empty, fun b hb => Memory.read_capture_outside s.mem .empty hb⟩⟩

end Sys2Proof.Machine
end

section
/-!
PROOFS. The settling of the decks when one deck alone has something to do, and the scan of a command ring (R59 to R63).
-/

namespace Sys2Proof.Machine

variable {s t : State} {n m : Deck}

/-! ## Updates of one deck -/

/-- Updates of a deck that agree on what the deck holds are the same update. -/
theorem State.onDeck_congr {f g : DeckUnit → DeckUnit} (h : f (s.deck n) = g (s.deck n)) :
    s.onDeck n f = s.onDeck n g := by
  simp only [State.onDeck, show s.decks.get n = s.deck n from rfl, h]

theorem State.onDeck_self {f : DeckUnit → DeckUnit} (h : f (s.deck n) = s.deck n) : s.onDeck n f = s := by
  simp only [State.onDeck, show s.decks.get n = s.deck n from rfl, h]
  simp only [State.deck, Six.set_get]

theorem State.onList_congr {f g : CommandList → CommandList} (h : f (s.deck n).list = g (s.deck n).list) :
    s.onList n f = s.onList n g := State.onDeck_congr (by rw [h])

theorem State.onList_self {f : CommandList → CommandList} (h : f (s.deck n).list = (s.deck n).list) :
    s.onList n f = s := State.onDeck_self (by rw [h])

theorem State.onList_onList (s : State) (n : Deck) (f g : CommandList → CommandList) :
    (s.onList n f).onList n g = s.onList n fun l => g (f l) := State.onDeck_onDeck s n _ _

/-! ## Settling one deck -/

/-- Nothing is to be scanned or examined in deck `n`'s command list. -/
abbrev State.listAtRest (s : State) (n : Deck) : Prop := (s.deck n).list.rescan = false ∧ (s.deck n).list.examine = false

theorem State.decksAtRest.list (h : s.decksAtRest) (n : Deck) : s.listAtRest n := ⟨(h n).1, (h n).2.1⟩

theorem State.linksBusy.list (h : s.linksBusy) (n : Deck) : s.listAtRest n := ⟨(h n).1, (h n).2.1⟩

theorem serviceRounds_of_rest (h : s.listAtRest n) (fuel : Nat) : s.serviceRounds n fuel = s := by
  cases fuel with
  | zero => rfl
  | succ fuel => simp [State.serviceRounds, h.1, h.2]

theorem service_of_listAtRest (h : s.listAtRest n) : s.service n = s := by
  simp [State.service, serviceRounds_of_rest h]

/-- Acts done one after another, none of which changes anything. -/
theorem foldl_of_none {α β : Type} {f : β → α → β} {t : β} {l : List α} (h : ∀ m ∈ l, f t m = t) : l.foldl f t = t := by
  induction l with
  | nil => rfl
  | cons m l ih =>
    obtain ⟨hm, hl⟩ := List.forall_mem_cons.mp h
    rw [List.foldl_cons, hm, ih hl]

/-- Of acts done one after another, the one that changes something. -/
theorem foldl_of_one {α β : Type} {f : β → α → β} {n : α} {s t : β} {l : List α} (hl : l.Nodup) (hn : n ∈ l)
    (hf : f s n = t) (hs : ∀ m, m ≠ n → f s m = s) (ht : ∀ m, m ≠ n → f t m = t) : l.foldl f s = t := by
  induction l with
  | nil => cases hn
  | cons m l ih =>
    obtain ⟨hm, hl⟩ := List.nodup_cons.mp hl
    by_cases h : m = n
    · subst h
      rw [List.foldl_cons, hf]
      exact foldl_of_none fun k hk => ht k fun e => hm (e ▸ hk)
    · rw [List.foldl_cons, hs m h]
      exact ih hl ((List.mem_cons.mp hn).resolve_left (Ne.symm h))

theorem Deck.nodup_list : Deck.list.Nodup := by decide

theorem Deck.mem_list (n : Deck) : n ∈ Deck.list := by cases n <;> decide

theorem eachDeck_eq_foldl (f : Deck → State → State) (s : State) :
    s.eachDeck f = Deck.list.foldl (fun s n => f n s) s := rfl

/-- An act done for each deck that changes something for one deck alone. -/
theorem eachDeck_of_one {f : Deck → State → State} (hn : f n s = t) (hs : ∀ m, m ≠ n → f m s = s)
    (ht : ∀ m, m ≠ n → f m t = t) : s.eachDeck f = t :=
  foldl_of_one (f := fun s n => f n s) Deck.nodup_list (Deck.mem_list n) hn hs ht

theorem eachDeck_of_none {f : Deck → State → State} (h : ∀ n, f n s = s) : s.eachDeck f = s :=
  foldl_of_none (f := fun s n => f n s) (l := Deck.list) fun n _ => h n

/-- The settling of the decks when one deck's command list alone has something to do, and no arbiter after it. -/
theorem settleDecks_of_service (hn : s.service n = t) (hs : ∀ m, m ≠ n → s.listAtRest m) (ht : t.decksAtRest) :
    s.settleDecks = t := by
  have hservice : (s.eachDeck fun n s => s.service n) = t :=
    eachDeck_of_one hn (fun m hm => service_of_listAtRest (hs m hm)) fun m _ => service_of_rest (ht m)
  have harbiter : (t.eachDeck fun n s => s.arbitrate n 32) = t :=
    eachDeck_of_none fun n => arbitrate_of_rest (ht n) 32
  rw [State.settleDecks, hservice, harbiter]

/-- A round that makes a scan and leaves the list at rest is the last. -/
theorem serviceRounds_of_scan (hr : (s.deck n).list.rescan = true) (ht : (s.scan n).listAtRest n) (fuel : Nat) :
    s.serviceRounds n (fuel + 1) = s.scan n := by
  simp [State.serviceRounds, hr, serviceRounds_of_rest ht]

theorem service_of_scan (hd : (s.deck n).link.downDue = false) (hr : (s.deck n).list.rescan = true)
    (ht : (s.scan n).listAtRest n) : s.service n = s.scan n := by
  rw [State.service, hd, if_neg Bool.false_ne_true]
  exact serviceRounds_of_scan hr ht 63

/-- A round that examines the head and leaves the list at rest is the last. -/
theorem serviceRounds_of_examine (hr : (s.deck n).list.rescan = false) (he : (s.deck n).list.examine = true)
    (ht : (s.examineHead n).listAtRest n) (fuel : Nat) : s.serviceRounds n (fuel + 1) = s.examineHead n := by
  simp [State.serviceRounds, hr, he, serviceRounds_of_rest ht]

theorem service_of_examine (hd : (s.deck n).link.downDue = false) (hr : (s.deck n).list.rescan = false)
    (he : (s.deck n).list.examine = true) (ht : (s.examineHead n).listAtRest n) : s.service n = s.examineHead n := by
  rw [State.service, hd, if_neg Bool.false_ne_true]
  exact serviceRounds_of_examine hr he ht 63

/-- A scan that makes a head, and the examination of that head. -/
theorem service_of_scan_examine (hd : (s.deck n).link.downDue = false) (hr : (s.deck n).list.rescan = true)
    (hscan : s.scan n = t) (hr' : (t.deck n).list.rescan = false) (he : (t.deck n).list.examine = true)
    (ht : (t.examineHead n).listAtRest n) : s.service n = t.examineHead n := by
  have hrounds : s.serviceRounds n 64 = (s.scan n).serviceRounds n 63 := by rw [State.serviceRounds]; simp [hr]
  rw [State.service, hd, if_neg Bool.false_ne_true, hrounds, hscan]
  exact serviceRounds_of_examine hr' he ht 62

/-- What decides, besides the engine and F, whether a deck's list and arbiter rest. -/
def DeckUnit.work (d : DeckUnit) : List HeldRecord × Bool × Bool × Link × Transmitter × Arbiter :=
  (d.list.queue, d.list.rescan, d.list.examine, d.link, d.tx, d.arbiter)

theorem deckAtRest_congr (h : s.deckAtRest n) (hw : (t.deck n).work = (s.deck n).work) (hg : t.engine = s.engine)
    (hF : t.timeline.F = s.timeline.F) : t.deckAtRest n := by
  simp only [DeckUnit.work, Prod.mk.injEq] at hw
  obtain ⟨hq, hr, he, hl, hx, ha⟩ := hw
  have hsource : (t.deck n).list.source = (s.deck n).list.source := by
    unfold CommandList.source CommandList.blocked CommandList.head
    rw [hq]
  have hfree : (t.deck n).free = (s.deck n).free := by simp only [DeckUnit.free, hl, hx]
  have hchoice : t.choice n = s.choice n := by
    have hbarred := punchBarred_congr (s := s) (t := t) (by rw [hg]) (by rw [hg]) hF
    unfold State.choice State.claimed State.punchWindow State.recorder
    simp only [hsource, hl, ha, hg, hbarred]
  rw [State.deckAtRest, hr, he, hfree, hchoice]
  exact h

/-- A change of one deck that gives its list and its arbiter nothing to do. -/
theorem State.decksAtRest.onDeck (h : s.decksAtRest) {f : DeckUnit → DeckUnit}
    (hf : ∀ d, (f d).work = d.work) : (s.onDeck n f).decksAtRest := by
  refine fun m => deckAtRest_congr (h m) ?_ rfl rfl
  rw [State.onDeck_deck]
  split
  · exact hf _
  · rfl

/-! ## One slot of a scan (R60) -/

/-- A scan that finds its slot not POSTED, or the queue full, ends (R60). -/
theorem scanSlots_of_end {fuel : Nat} (hl : s.ringSlot n (s.deck n).list.nextSlot + 1 ≤ s.iface.limit)
    (h : s.mem.read (s.ringSlot n (s.deck n).list.nextSlot) ≠ 1 ∨ 4 ≤ (s.deck n).list.queue.length) :
    s.scanSlots n (fuel + 1) = s := by
  have hend : byteAt (s.mem.load (s.ringSlot n (s.deck n).list.nextSlot) 1) 0 ≠ 1 ∨
      4 ≤ (s.deck n).list.queue.length := h.imp_left (mt (byteAt_load_one _ _).mp)
  simp [State.scanSlots, readMem_of_limit hl, hend]

/-- A scan that finds its slot POSTED and room in the queue takes the slot, and goes on if every access was made. -/
theorem scanSlots_of_posted {fuel : Nat} (hl : s.ringSlot n (s.deck n).list.nextSlot + 1 ≤ s.iface.limit)
    (hm : s.mem.read (s.ringSlot n (s.deck n).list.nextSlot) = 1) (hq : (s.deck n).list.queue.length < 4)
    (ht : s.takeSlot n (s.ringSlot n (s.deck n).list.nextSlot) = (true, t)) :
    s.scanSlots n (fuel + 1) = t.scanSlots n fuel := by
  have hgo : ¬ (byteAt (s.mem.load (s.ringSlot n (s.deck n).list.nextSlot) 1) 0 ≠ 1 ∨
      4 ≤ (s.deck n).list.queue.length) := by
    rw [not_or, not_not, not_le]
    exact ⟨(byteAt_load_one _ _).mpr hm, hq⟩
  simp [State.scanSlots, readMem_of_limit hl, hgo, ht]

/-- The result bytes of a record refused in a scan (R60, R61). -/
def refusedBytes (field : Nat) (f : FieldCount) : List Byte := [0, 0, 1, byte field] ++ halfOfField f

@[simp] theorem length_refusedBytes (field : Nat) (f : FieldCount) : (refusedBytes field f).length = 6 := rfl

/-- An invalid record below the limit is refused with all its writes made (R60). -/
theorem refuseRecord_of_limit {a field : Nat} (hl : a + 16 ≤ s.iface.limit) :
    s.refuseRecord n a field = (true,
      ((({ s with mem := (s.mem.store (a + 4) (refusedBytes field s.F)).store a [4] }).offerDeck n 2 .badCommand
        a).raise .deckFault).onList n fun l => { l with nextSlot := l.nextSlot + 1 }) := by
  have hw : ∀ w ∈ [(a + 4, refusedBytes field s.F), (a, ([4] : List Byte))], w.1 + w.2.length ≤ s.iface.limit := by
    simp only [List.forall_mem_cons, length_refusedBytes, List.length_singleton]
    refine ⟨by omega, by omega, by simp⟩
  have hbytes : (⟨false, 0, 0, .badCommand, field⟩ : HostResult).bytes s.F = refusedBytes field s.F := rfl
  simp only [State.refuseRecord, hbytes, writeAll_of_limit hw]
  rfl

theorem takeSlot_of_invalid {a field : Nat} (hl : a + 16 ≤ s.iface.limit)
    (hp : parseRecord s.standard n (s.mem.load a 16) = .error field) :
    s.takeSlot n a = s.refuseRecord n a field := by
  simp [State.takeSlot, readMem_of_limit hl, hp]

/-- A valid record below the limit is marked TAKEN and joins the queue (R60). -/
theorem takeSlot_of_valid {a : Nat} {c : HostCommand} (hl : a + 16 ≤ s.iface.limit)
    (hp : parseRecord s.standard n (s.mem.load a 16) = .ok c) :
    s.takeSlot n a = (true, ({ s with mem := s.mem.store a [2] }).onList n fun l =>
      l.join ⟨a, BitVec.ofNat 16 (halfAt (s.mem.load a 16) 2), c, .waiting⟩) := by
  have hw : a + ([2] : List Byte).length ≤ s.iface.limit := by simp only [List.length_singleton]; omega
  simp only [State.takeSlot, readMem_of_limit hl, hp, writeMem_of_limit hw]

/-- A slot of a ring and the slot after it share no byte. -/
theorem ringSlot_beside (s : State) (n : Deck) (i : Fin 16) :
    s.ringSlot n (i + 1) + 16 ≤ s.ringSlot n i ∨ s.ringSlot n i + 16 ≤ s.ringSlot n (i + 1) := by
  have hne : (i + 1).val ≠ i.val := by
    rw [Fin.val_add]
    have := i.isLt
    simp only [Fin.val_one]
    omega
  simp only [State.ringSlot]
  omega

/-! ## A write of a deck's group (R59) -/

theorem exec_attnScan_of_ready (hs : s.ready) (n : Deck) : exec (.attnScan n) s = .next (s.attendScan n).settleDecks :=
  registerWrite_of_ready hs fun s => (s.attendScan n).settleDecks

/-- The start of a scan noted by a write of the group and taken up again is gone. -/
theorem onList_rescan (hr : (s.deck n).list.rescan = false) :
    (s.onList n fun l => { l with rescan := true }).onList n (fun l => { l with rescan := false }) = s := by
  rw [State.onList_onList]
  exact State.onList_self (by rw [← hr])

/-- Before the first acceptance the scan that a write of the group starts is deferred (R59). -/
theorem scan_attended_of_unconfigured (hr : (s.deck n).list.rescan = false) (hc : s.iface.configured = false) :
    (s.attendScan n).scan n = (s.setAttention n.num true).onList n fun l => { l with deferred := true } := by
  unfold State.scan
  extract_lets v
  have hv : v = s.setAttention n.num true := onList_rescan (s := s.setAttention n.num true) hr
  have hc' : ¬ v.iface.configured = true := by
    rw [hv]
    simpa [State.setAttention] using hc
  rw [if_neg hc', hv]

/-- After it the attention bit is cleared and the ring read (R59). -/
theorem scan_attended_of_configured (hr : (s.deck n).list.rescan = false) (hc : s.iface.configured = true) :
    (s.attendScan n).scan n = (s.setAttention n.num false).scanSlots n 17 := by
  unfold State.scan
  extract_lets v
  have hv : v = s.setAttention n.num true := onList_rescan (s := s.setAttention n.num true) hr
  have hc' : v.iface.configured = true := by
    rw [hv]
    exact hc
  rw [if_pos hc', hv, setAttention_clear]

/-- A write of the group of a ready part, by what the service of the list then leaves. -/
theorem exec_attnScan_of_service (hs : s.ready) (hd : ∀ m, s.listAtRest m)
    (hservice : ((s.attendScan n).deck n).link.downDue = false → ((s.attendScan n).deck n).list.rescan = true →
      (s.attendScan n).service n = t) (ht : t.decksAtRest) : exec (.attnScan n) s = .next t := by
  have hother : ∀ m, m ≠ n → (s.attendScan n).listAtRest m := fun m hm => by
    rw [State.listAtRest, State.attendScan, State.onList, State.onDeck_deck_ne _ _ hm]
    exact hd m
  have hrescan : ((s.attendScan n).deck n).list.rescan = true := by simp [State.attendScan]
  have hdown : ((s.attendScan n).deck n).link.downDue = false := by
    simpa [State.attendScan] using hs.downDue n
  rw [exec_attnScan_of_ready hs, settleDecks_of_service (hservice hdown hrescan) hother ht]

/-- A write of the group whose scan leaves the list and the arbiters at rest. -/
theorem exec_attnScan_of_scan (hs : s.ready) (hd : ∀ m, s.listAtRest m) (hscan : (s.attendScan n).scan n = t)
    (ht : t.decksAtRest) : exec (.attnScan n) s = .next t :=
  exec_attnScan_of_service hs hd (fun hdown hrescan => (service_of_scan hdown hrescan (hscan ▸ ht.list n)).trans hscan) ht

/-- Settles O9. -/
theorem scanDeferredEmptyOrRefusing : Obligations.ScanDeferredEmptyOrRefusing := by
  refine ⟨fun s n hs hd => ⟨fun hc => ?deferred, fun hc hl hend => ?ended⟩,
    fun s n field hs hd hc hq hl hm hm' hp => ?refused⟩
  case deferred =>
    have hset : (s.setAttention n.num true).decksAtRest := hd.congr rfl rfl rfl
    exact exec_attnScan_of_scan hs hd.list (scan_attended_of_unconfigured (hd n).1 hc) (hset.onDeck fun _ => rfl)
  case ended =>
    refine exec_attnScan_of_scan hs hd.list ?_ (hd.congr rfl rfl rfl)
    rw [scan_attended_of_configured (hd n).1 hc]
    exact scanSlots_of_end hl (hend.imp_right fun h => h.ge)
  case refused =>
    have htake := (takeSlot_of_invalid (s := s.setAttention n.num false) (hl _) hp).trans
      (refuseRecord_of_limit (s := s.setAttention n.num false) (hl _))
    have hslot : s.ringSlot n (s.deck n).list.nextSlot + 1 ≤ s.iface.limit := by have := hl (s.deck n).list.nextSlot; omega
    have hfirst := scanSlots_of_posted (s := s.setAttention n.num false) (fuel := 16) hslot hm hq htake
    refine exec_attnScan_of_scan hs hd.list ?_ ?_
    · rw [scan_attended_of_configured (hd n).1 hc, hfirst]
      have hbeside := ringSlot_beside s n (s.deck n).list.nextSlot
      have hnext := hl ((s.deck n).list.nextSlot + 1)
      refine scanSlots_of_end ?_ (.inl ?_)
      · simp only [State.onList_deck_self, State.raise_deck, State.offerDeck_deck_self]
        exact (by omega : s.ringSlot n ((s.deck n).list.nextSlot + 1) + 1 ≤ s.iface.limit)
      · simp only [State.onList_deck_self, State.raise_deck, State.offerDeck_deck_self]
        show Memory.read (Memory.store (Memory.store s.mem _ _) _ _) (s.ringSlot n ((s.deck n).list.nextSlot + 1)) ≠ 1
        rw [Memory.read_store_outside, Memory.read_store_outside]
        · exact hm'
        all_goals simp; omega
    · have hoffer : (s.offerDeck n 2 .badCommand (s.ringSlot n (s.deck n).list.nextSlot)).decksAtRest :=
        hd.onDeck fun _ => rfl
      refine State.decksAtRest.onDeck ?_ fun _ => rfl
      exact hoffer.congr rfl rfl rfl

/-- A valid record that joins an empty queue stands alone in it, to be examined. -/
theorem join_empty {l : CommandList} (h : HeldRecord) (hq : l.queue = []) :
    l.join h = { l with queue := [h], nextSlot := l.nextSlot + 1, examine := true } := by
  simp [CommandList.join, CommandList.head, hq]

/-- A change of one deck's list that leaves it at rest leaves every link busy. -/
theorem State.linksBusy.onList (h : s.linksBusy) {f : CommandList → CommandList}
    (hr : (f (s.deck n).list).rescan = false) (he : (f (s.deck n).list).examine = false) :
    (s.onList n f).linksBusy := by
  intro m
  by_cases hm : m = n
  · subst hm
    rw [State.onList_deck_self]
    exact ⟨hr, he, (h m).2.2⟩
  · rw [State.onList_deck_ne _ _ hm]
    exact h m

/-- A scan that has taken its first slot and ends at the second. -/
theorem scan_attended_of_valid (hb : s.listAtRest n) (hc : s.iface.configured = true) (hq : (s.deck n).list.queue = [])
    (hl : ∀ i, s.ringSlot n i + 16 ≤ s.iface.limit) {a : Nat} (ha : a = s.ringSlot n (s.deck n).list.nextSlot)
    (hm : s.mem.read a = 1) (hm' : s.mem.read (s.ringSlot n ((s.deck n).list.nextSlot + 1)) ≠ 1) {c : HostCommand}
    (hp : parseRecord s.standard n (s.mem.load a 16) = .ok c) :
    (s.attendScan n).scan n = (({ s with mem := s.mem.store a [2] }).setAttention n.num false).onList n fun l =>
      { l with
        queue := [⟨a, BitVec.ofNat 16 (halfAt (s.mem.load a 16) 2), c, .waiting⟩], nextSlot := l.nextSlot + 1
        examine := true } := by
  subst ha
  have hslot : s.ringSlot n (s.deck n).list.nextSlot + 1 ≤ s.iface.limit := by
    have := hl (s.deck n).list.nextSlot
    omega
  have hroom : (s.deck n).list.queue.length < 4 := by simp [hq]
  have hbeside := ringSlot_beside s n (s.deck n).list.nextSlot
  have hnext := hl ((s.deck n).list.nextSlot + 1)
  have htake := takeSlot_of_valid (s := s.setAttention n.num false) (hl _) hp
  have hfirst := scanSlots_of_posted (s := s.setAttention n.num false) (fuel := 16) hslot hm hroom htake
  rw [scan_attended_of_configured hb.1 hc, hfirst, scanSlots_of_end]
  · exact State.onList_congr (join_empty _ hq)
  · simp only [State.onList_deck_self]
    exact (by omega : s.ringSlot n ((s.deck n).list.nextSlot + 1) + 1 ≤ s.iface.limit)
  · refine .inl ?_
    simp only [State.onList_deck_self]
    show Memory.read (Memory.store s.mem _ _) (s.ringSlot n ((s.deck n).list.nextSlot + 1)) ≠ 1
    rw [Memory.read_store_outside]
    · exact hm'
    · simp only [List.length_singleton]
      omega

/-! ## The examination of a motion command (R63, R67) -/

theorem endChase_of_off (h : (s.deck n).chase.state = .off) : s.endChase n = s := if_pos h

/-- A motion command at the head of an unclaimed deck (Table 4-4). -/
theorem examineHead_of_motion {h : HeldRecord} {c : LinkCommand} (hh : (s.deck n).list.head = some h)
    (hb : (s.deck n).list.blocked = false) (hc : h.command = .motion c) (hn : s.claimed n = false) :
    s.examineHead n = (s.onList n fun l => { l with examine := false }).examineMotion n h c := by
  have hn' : ¬ State.claimed (s.onList n fun l => { l with examine := false }) n = true := by
    simpa [State.claimed] using hn
  have hh' : ({ (s.deck n).list with examine := false } : CommandList).head = some h := hh
  have hb' : ({ (s.deck n).list with examine := false } : CommandList).blocked = false := hb
  unfold State.examineHead
  simp only [State.onList_deck_self, hh', hb', hc]
  cases c <;> simp only [if_neg hn']

/-- A motion command that may be sent waits for the arbiter, and ends the deck's chase (R67). -/
theorem examineMotion_of_sendable (h : HeldRecord) {c : LinkCommand}
    (hp : (s.deck n).settings.role = .recorder ∨ ∀ m, c ≠ .punchIn m)
    (hl : (s.deck n).link.state = .probing ∨ (s.deck n).link.state = .up) :
    s.examineMotion n h c = s.endChase n := by
  have hdown : ¬ ((s.deck n).link.state = .absent ∨ (s.deck n).link.state = .down) := by
    obtain hl | hl := hl <;> simp [hl]
  unfold State.examineMotion
  extract_lets d punchIn
  have hin : ¬ (punchIn = true ∧ d.settings.role ≠ .recorder) := by
    rintro ⟨hpunch, hrole⟩
    obtain hp | hp := hp
    · exact hrole hp
    · cases c with
      | punchIn m => exact hp m rfl
      | _ => simp [punchIn] at hpunch
  rw [if_neg hin, if_neg hdown]

/-- The head of an unclaimed deck that may be sent, with no chase to end, is left for the arbiter. -/
theorem examineHead_of_sendable {h : HeldRecord} {c : LinkCommand} (hh : (s.deck n).list.head = some h)
    (hb : (s.deck n).list.blocked = false) (hc : h.command = .motion c) (hn : s.claimed n = false)
    (hp : (s.deck n).settings.role = .recorder ∨ ∀ m, c ≠ .punchIn m)
    (hl : (s.deck n).link.state = .probing ∨ (s.deck n).link.state = .up) (ho : (s.deck n).chase.state = .off) :
    s.examineHead n = s.onList n fun l => { l with examine := false } := by
  rw [examineHead_of_motion hh hb hc hn, examineMotion_of_sendable h, endChase_of_off]
  · simpa using ho
  · simpa using hp
  · simpa using hl

/-- Settles O10: the scan takes the slot and ends at the next; the head it makes then waits for the arbiter. -/
theorem scanTakesAValidRecord : Obligations.ScanTakesAValidRecord := by
  intro s n c hs hb hc hq hclaim hchase hlink hpunch hl hm hm' hp
  have hscan := scan_attended_of_valid (hb.list n) hc hq hl rfl hm hm' hp
  have hbusy : (({ s with mem := s.mem.store (s.ringSlot n (s.deck n).list.nextSlot) [2] }).setAttention n.num
      false).linksBusy := hb.congr (fun _ => ⟨rfl, rfl⟩) fun _ => rfl
  generalize hw : ({ s with mem := s.mem.store (s.ringSlot n (s.deck n).list.nextSlot) [2] }).setAttention n.num
    false = w at hscan hbusy ⊢
  have hwn : w.deck n = s.deck n := by rw [← hw]; rfl
  have hwc : w.claimed n = false := by rw [← hw]; exact hclaim
  refine exec_attnScan_of_service hs hb.list (fun hdown hrescan => ?service) (hbusy.onList ?rescan ?examine).atRest
  case rescan => rw [hwn]; exact (hb n).1
  case examine => rw [hwn]; exact (hb n).2.1
  case service =>
    have hhead := examineHead_of_sendable (s := (s.attendScan n).scan n) (n := n) (c := c)
      (h := ⟨s.ringSlot n (s.deck n).list.nextSlot, _, .motion c, .waiting⟩)
      (by rw [hscan]; simp [CommandList.head]; rfl) (by rw [hscan]; simp [CommandList.blocked, HoldStatus.blocks]) rfl
      (by rw [hscan]; exact hwc) (.inr hpunch) (by rw [hscan]; simpa [hwn] using hlink)
      (by rw [hscan]; simpa [hwn] using hchase)
    rw [hscan] at hhead
    refine (service_of_scan_examine hdown hrescan hscan ?_ ?_ ?_).trans (hhead.trans ?_)
    · simpa [hwn] using (hb n).1
    · simp
    · rw [hhead]
      simpa [State.listAtRest, hwn] using (hb n).1
    · rw [State.onList_onList]
      refine State.onList_congr ?_
      simp [hwn, (hb n).2.1]

end Sys2Proof.Machine
end

section
/-!
PROOFS. What an abort does to the engine, the decks and the generator, said once (R143, R144).
-/

namespace Sys2Proof.Machine

variable {s t u : State} {n m : Deck}

/-! ## Changes beside the decks, suite memory and the interface -/

/-- Nothing but the decks, suite memory and the interface differs. -/
structure Aside (s t : State) : Prop where
  timeline : t.timeline = s.timeline
  suite : t.suite = s.suite
  engine : t.engine = s.engine
  generator : t.generator = s.generator
  ep : t.ep = s.ep
  marks : t.marks = s.marks
  gpi : t.gpi = s.gpi
  log : t.log = s.log

theorem Aside.refl (s : State) : Aside s s := ⟨rfl, rfl, rfl, rfl, rfl, rfl, rfl, rfl⟩

theorem Aside.trans (h : Aside s t) (k : Aside t u) : Aside s u :=
  ⟨k.timeline.trans h.timeline, k.suite.trans h.suite, k.engine.trans h.engine, k.generator.trans h.generator,
    k.ep.trans h.ep, k.marks.trans h.marks, k.gpi.trans h.gpi, k.log.trans h.log⟩

theorem Aside.F (h : Aside s t) : t.F = s.F := congrArg Timeline.F h.timeline

theorem Aside.ite {c : Prop} [Decidable c] (h : Aside s t) (k : Aside s u) : Aside s (if c then t else u) := by
  split <;> assumption

theorem Aside.foldl {α : Type} (h : Aside s t) {f : State → α → State} (hf : ∀ x u, Aside s u → Aside s (f u x))
    (l : List α) : Aside s (l.foldl f t) := by
  induction l generalizing t with
  | nil => exact h
  | cons x l ih => exact ih (hf x t h)

theorem Aside.onDeck (h : Aside s t) (n : Deck) (f : DeckUnit → DeckUnit) : Aside s (t.onDeck n f) :=
  h.trans ⟨rfl, rfl, rfl, rfl, rfl, rfl, rfl, rfl⟩

theorem Aside.onLink (h : Aside s t) (n : Deck) (f : Link → Link) : Aside s (t.onLink n f) := h.onDeck n _

theorem Aside.onArbiter (h : Aside s t) (n : Deck) (f : Arbiter → Arbiter) : Aside s (t.onArbiter n f) :=
  h.onDeck n _

theorem Aside.onIface (h : Aside s t) (f : Interface → Interface) : Aside s (t.onIface f) :=
  h.trans ⟨rfl, rfl, rfl, rfl, rfl, rfl, rfl, rfl⟩

theorem Aside.raise (h : Aside s t) (c : Cause) : Aside s (t.raise c) := h.onIface _

theorem Aside.setMem (h : Aside s t) (x : Memory) : Aside s { t with mem := x } :=
  h.trans ⟨rfl, rfl, rfl, rfl, rfl, rfl, rfl, rfl⟩

theorem Aside.writeDevice (h : Aside s t) : Aside s t.writeDevice := h.ite (h.setMem _)

theorem Aside.offerDevice (h : Aside s t) (v : Nat) (c : FaultCode) (o : Nat) : Aside s (t.offerDevice v c o) :=
  (h.onIface _).writeDevice.ite h

theorem Aside.limitFault (h : Aside s t) (a : Nat) : Aside s (t.limitFault a) := (h.offerDevice _ _ _).raise _

theorem Aside.readMem (h : Aside s t) (a k : Nat) : Aside s (t.readMem a k).2 := by
  unfold State.readMem
  split
  · exact h
  · exact h.limitFault a

theorem Aside.writeMem (h : Aside s t) (a : Nat) (bs : List Byte) : Aside s (t.writeMem a bs).2 := by
  unfold State.writeMem
  split
  · exact h.setMem _
  · exact h.limitFault a

theorem Aside.writeAll (h : Aside s t) (ws : List (Nat × List Byte)) : Aside s (t.writeAll ws).2 := by
  induction ws generalizing t with
  | nil => exact h
  | cons w ws ih =>
    obtain ⟨a, bs⟩ := w
    have hw := h.writeMem a bs
    unfold State.writeAll
    split
    · next e => exact ih (by rwa [e] at hw)
    · next e => rwa [e] at hw

theorem Aside.moveChase (h : Aside s t) (n : Deck) (f : Chase → Chase) : Aside s (t.moveChase n f) :=
  ((h.onDeck n _).raise _).ite (h.onDeck n _)

theorem Aside.endChase (h : Aside s t) (n : Deck) : Aside s (t.endChase n) :=
  h.ite (((h.moveChase n _).onLink n _).onArbiter n _)

theorem Aside.offerEngine (h : Aside s t) (n : Deck) (r : EngineRequest) : Aside s (t.offerEngine n r).2 := by
  unfold State.offerEngine
  split
  · exact h.onArbiter n fun a => { a with engineQueue := a.engineQueue ++ [r] }
  · exact h.onDeck n fun d => { d with capture := d.capture.offer 2 .queueFull 0 t.F }

/-! ## What no access to suite memory changes in the decks -/

@[simp] theorem writeDevice_deck (s : State) (n : Deck) : s.writeDevice.deck n = s.deck n := by
  unfold State.writeDevice
  extract_lets
  split <;> rfl

@[simp] theorem offerDevice_deck (s : State) (v : Nat) (c : FaultCode) (o : Nat) (n : Deck) :
    (s.offerDevice v c o).deck n = s.deck n := by
  unfold State.offerDevice
  split
  · exact writeDevice_deck _ n
  · rfl

@[simp] theorem limitFault_deck (s : State) (a : Nat) (n : Deck) : (s.limitFault a).deck n = s.deck n :=
  offerDevice_deck s _ _ _ n

@[simp] theorem writeMem_deck (s : State) (a : Nat) (bs : List Byte) (n : Deck) :
    (s.writeMem a bs).2.deck n = s.deck n := by
  unfold State.writeMem
  split
  · rfl
  · exact limitFault_deck s a n

@[simp] theorem writeAll_deck (s : State) (ws : List (Nat × List Byte)) (n : Deck) :
    (s.writeAll ws).2.deck n = s.deck n := by
  induction ws generalizing s with
  | nil => rfl
  | cons w ws ih =>
    obtain ⟨a, bs⟩ := w
    have hw := writeMem_deck s a bs n
    unfold State.writeAll
    split
    · next e => rw [ih]; rwa [e] at hw
    · next e => rwa [e] at hw

/-! ## Acts done for several decks -/

/-- Acts done one after another, each changing its own deck alone: every deck of the list is changed once. -/
theorem foldl_deck {P : State → Prop} {f : State → Deck → State} {g : Deck → DeckUnit → DeckUnit}
    (hP : ∀ u k, P u → P (f u k))
    (hf : ∀ u k j, P u → (f u k).deck j = if j = k then g k (u.deck k) else u.deck j) {l : List Deck} (hl : l.Nodup)
    (hs : P s) (m : Deck) : (l.foldl f s).deck m = if m ∈ l then g m (s.deck m) else s.deck m := by
  induction l generalizing s with
  | nil => rfl
  | cons k l ih =>
    obtain ⟨hk, hl⟩ := List.nodup_cons.mp hl
    rw [List.foldl_cons, ih hl (hP s k hs), hf s k m hs]
    by_cases hm : m = k
    · subst hm
      simp [hk]
    · simp [hm]

/-- An act done for each deck, that changes its own deck alone. -/
theorem eachDeck_deck {P : State → Prop} {f : Deck → State → State} {g : Deck → DeckUnit → DeckUnit}
    (hP : ∀ u k, P u → P (f k u))
    (hf : ∀ u k j, P u → (f k u).deck j = if j = k then g k (u.deck k) else u.deck j) (hs : P s) (m : Deck) :
    (s.eachDeck f).deck m = g m (s.deck m) := by
  rw [eachDeck_eq_foldl, foldl_deck (f := fun s n => f n s) hP hf Deck.nodup_list hs, if_pos (Deck.mem_list m)]

/-! ## One deck at an abort -/

/-- The deck with its engine queue emptied. -/
def DeckUnit.queueEmptied (d : DeckUnit) : DeckUnit := { d with arbiter := { d.arbiter with engineQueue := [] } }

/-- The deck once a request has been offered to its engine queue at `f` (R70). -/
def DeckUnit.offered (r : EngineRequest) (f : FieldCount) (d : DeckUnit) : DeckUnit :=
  if d.arbiter.engineQueue.length < 4 then
    { d with arbiter := { d.arbiter with engineQueue := d.arbiter.engineQueue ++ [r] } }
  else { d with capture := d.capture.offer 2 .queueFull 0 f }

/-- The deck once its chase has ended (R107). -/
def DeckUnit.chaseEnded (d : DeckUnit) : DeckUnit :=
  if d.chase.state = .off then d
  else
    { d with
      chase :=
        { d.chase with
          state := .off, seek := none, lastSpeed := none, lockCount := 0, unlockRun := 0, lockDue := false }
      link := d.link.dropChase
      arbiter := { d.arbiter with trim := none } }

theorem emptyEngineQueue_deck (s : State) (n m : Deck) :
    (s.emptyEngineQueue n).deck m = if m = n then (s.deck n).queueEmptied else s.deck m := by
  by_cases h : m = n
  · subst h; simp [State.emptyEngineQueue, DeckUnit.queueEmptied]
  · simp [State.emptyEngineQueue, State.onArbiter_deck_ne _ _ h, h]

theorem offerEngine_deck (s : State) (n m : Deck) (r : EngineRequest) :
    (s.offerEngine n r).2.deck m = if m = n then (s.deck n).offered r s.F else s.deck m := by
  unfold State.offerEngine DeckUnit.offered
  by_cases h : m = n
  · subst h; split <;> simp
  · rw [if_neg h]
    split
    · exact State.onArbiter_deck_ne _ _ h
    · exact State.onDeck_deck_ne _ _ h

theorem moveChase_deck (s : State) (n m : Deck) (f : Chase → Chase) :
    (s.moveChase n f).deck m = if m = n then { s.deck n with chase := f (s.deck n).chase } else s.deck m := by
  unfold State.moveChase
  extract_lets old v
  have hv : v.deck m = if m = n then { s.deck n with chase := f (s.deck n).chase } else s.deck m := by
    by_cases h : m = n
    · subst h; simp [v]
    · simp [v, State.onChase_deck_ne _ _ h, h]
  clear_value v
  split
  · exact hv
  · exact hv

theorem endChase_deck (s : State) (n m : Deck) :
    (s.endChase n).deck m = if m = n then (s.deck n).chaseEnded else s.deck m := by
  unfold State.endChase DeckUnit.chaseEnded
  by_cases hoff : (s.deck n).chase.state = .off
  · by_cases h : m = n
    · subst h; simp [hoff]
    · simp [hoff, h]
  · rw [if_neg hoff, if_neg hoff]
    by_cases h : m = n
    · subst h; simp [State.emptyTrim, moveChase_deck]
    · simp [State.emptyTrim, State.onArbiter_deck_ne _ _ h, State.onLink_deck_ne _ _ h, moveChase_deck, h]

/-! ## The punches at an abort -/

/-- No deck's blocks and nothing of the part but suite memory and the interface differ. -/
structure Beside (s t : State) : Prop extends Aside s t where
  decks : ∀ n, t.deck n = s.deck n

theorem Beside.refl (s : State) : Beside s s := ⟨.refl s, fun _ => rfl⟩

theorem Beside.trans (h : Beside s t) (k : Beside t u) : Beside s u :=
  ⟨h.toAside.trans k.toAside, fun n => (k.decks n).trans (h.decks n)⟩

theorem Beside.foldl {α : Type} (h : Beside s t) {f : State → α → State} (hf : ∀ u x, Beside u (f u x))
    (l : List α) : Beside s (l.foldl f t) := by
  induction l generalizing t with
  | nil => exact h
  | cons x l ih => exact ih (h.trans (hf t x))

theorem Beside.writeAll (s : State) (ws : List (Nat × List Byte)) : Beside s (s.writeAll ws).2 :=
  ⟨(Aside.refl s).writeAll ws, writeAll_deck s ws⟩

theorem Beside.writeAbandoned (s : State) (i : PunchId) : Beside s (s.writeAbandoned i) := by
  unfold State.writeAbandoned
  split
  · exact .refl s
  · exact .writeAll s _

theorem Beside.abandonPunches (s : State) :
    Beside (s.onEngine fun e => { e with punches := e.punches.abandonOpen }) s.abandonPunches := by
  refine (Beside.refl _).foldl (fun u i => ?_) _
  split
  · exact .writeAbandoned u i
  · exact .refl u

theorem PunchPlan.open_abandonOpen (p : PunchPlan) : p.abandonOpen.open = p.open := by
  have drop (x : Option Punch) :
      (x.map fun x : Punch => if x.inWindow then { x with status := .abandoned } else x).any Punch.sent =
        x.any Punch.sent := by
    cases x with
    | none => rfl
    | some x => by_cases h : x.inWindow <;> simp [h, Punch.sent]
  simp only [PunchPlan.open, PunchPlan.abandonOpen, drop]

/-! ## The abort -/

/-- The engine once the event is aborted with `code` at field `f` (R144). -/
def Engine.aborted (e : Engine) (code : FaultCode) (f : FieldCount) : Engine :=
  { e with
    state := .aborting
    abortCode := some code
    rollDue := false
    punches :=
      if e.working.isSome && e.punches.open then { e.punches.abandonOpen with out := some ⟨15, f, .queued, none⟩ }
      else e.punches.abandonOpen
    haltsAwaited := e.claims
    triggers := e.triggers.map fun t => if t.status = .planned then { t with status := .cancelled } else t }

/-- What an abort leaves in the engine queue of a claimed deck (R144 steps 1, 3 and 4). -/
def State.abortQueue (s : State) (n : Deck) : List EngineRequest :=
  if s.recorder = some n ∧ s.engine.punches.open = true then
    [⟨.punchOut 15, true, some .out⟩, ⟨.halt, true, none⟩]
  else [⟨.halt, true, none⟩]

/-- A claimed deck once the event is aborted, `queue` in its engine queue. -/
def DeckUnit.aborted (queue : List EngineRequest) (d : DeckUnit) : DeckUnit :=
  DeckUnit.chaseEnded { d with arbiter := { d.arbiter with engineQueue := queue } }

/-- What an abort does outside suite memory and the interface. -/
structure Aborted (s : State) (code : FaultCode) (t : State) : Prop where
  engine : t.engine = s.engine.aborted code s.F
  generator : t.generator = s.generator.freeze
  marks : t.marks = s.marks
  gpi : t.gpi = s.gpi
  log : t.log = s.log
  claimed : ∀ n ∈ s.engine.claims, t.deck n = (s.deck n).aborted (s.abortQueue n)
  unclaimed : ∀ n, n ∉ s.engine.claims → t.deck n = s.deck n

theorem eachClaimed_deck {f : State → Deck → State} {g : Deck → DeckUnit → DeckUnit}
    (hP : ∀ u k, Aside u (f u k)) (hn : s.engine.claims.Nodup)
    (hf : ∀ u k j, Aside s u → (f u k).deck j = if j = k then g k (u.deck k) else u.deck j) (m : Deck) :
    (s.eachClaimed f).deck m = if m ∈ s.engine.claims then g m (s.deck m) else s.deck m :=
  foldl_deck (P := Aside s) (fun u k h => h.trans (hP u k)) hf hn (.refl s) m

theorem Aside.eachClaimed {f : State → Deck → State} (hP : ∀ u k, Aside u (f u k)) (s : State) :
    Aside s (s.eachClaimed f) := (Aside.refl s).foldl (fun x u h => h.trans (hP u x)) _

/-- The punch plan with the abort's own PUNCH-OUT, when it makes one. -/
def Engine.punchedOut (e : Engine) (f : FieldCount) : PunchPlan :=
  if e.working.isSome && e.punches.open then { e.punches with out := some ⟨15, f, .queued, none⟩ } else e.punches

theorem Engine.punchedOut_of_open {e : Engine} {ev : Event} (hw : e.working = some ev)
    (ho : e.punches.open = true) (f : FieldCount) :
    e.punchedOut f = { e.punches with out := some ⟨15, f, .queued, none⟩ } := by
  simp [Engine.punchedOut, hw, ho]

theorem Engine.punchedOut_of_shut {e : Engine} (h : e.working = none ∨ e.punches.open = false) (f : FieldCount) :
    e.punchedOut f = e.punches := by
  rcases h with h | h <;> simp [Engine.punchedOut, h]

theorem Aside.of_engine {f : Engine → Engine} (h : f s.engine = s.engine) : Aside (s.onEngine f) s :=
  ⟨rfl, rfl, h.symm, rfl, rfl, rfl, rfl, rfl⟩

theorem Aside.onEngine (h : Aside s t) {f g : Engine → Engine} (hf : f s.engine = g s.engine) :
    Aside (s.onEngine f) (t.onEngine g) :=
  ⟨h.timeline, h.suite, by rw [State.onEngine_engine, State.onEngine_engine, h.engine, hf], h.generator, h.ep,
    h.marks, h.gpi, h.log⟩

theorem Aside.abortPunchOut (s : State) :
    Aside (s.onEngine fun e => { e with punches := e.punchedOut s.F }) s.abortPunchOut := by
  unfold State.abortPunchOut State.recorder
  cases hw : s.engine.working with
  | none => exact .of_engine (by rw [Engine.punchedOut_of_shut (.inl hw)])
  | some ev =>
    simp only [Option.map_some]
    split
    · next ho =>
      exact ((Aside.refl s).offerEngine ev.recorder ⟨.punchOut 15, true, some .out⟩).onEngine
        (by rw [Engine.punchedOut_of_open hw ho])
    · next ho => exact .of_engine (by rw [Engine.punchedOut_of_shut (.inr (by simpa using ho))])

theorem abortPunchOut_deck (s : State) (m : Deck)
    (hq : s.recorder = some m → (s.deck m).arbiter.engineQueue = []) :
    s.abortPunchOut.deck m =
      if s.recorder = some m ∧ s.engine.punches.open = true then
        { s.deck m with
          arbiter := { (s.deck m).arbiter with engineQueue := [⟨.punchOut 15, true, some .out⟩] } }
      else s.deck m := by
  unfold State.abortPunchOut
  cases hr : s.recorder with
  | none => simp
  | some r =>
    by_cases ho : s.engine.punches.open = true
    · simp only [ho, if_true, State.onEngine_deck, offerEngine_deck]
      by_cases h : m = r
      · subst h; simp [DeckUnit.offered, hq hr]
      · simp [h, Ne.symm h]
    · simp [ho]

/-- A punch-out and a halt offered to an emptied queue, and the chase ended. -/
theorem DeckUnit.aborted_eq (d : DeckUnit) (q : List EngineRequest) (f : FieldCount) (hq : q.length < 4) :
    (DeckUnit.offered ⟨.halt, true, none⟩ f { d with arbiter := { d.arbiter with engineQueue := q } }).chaseEnded =
      d.aborted (q ++ [⟨.halt, true, none⟩]) := by
  simp [DeckUnit.offered, DeckUnit.aborted, hq]

/-- What an abort's own PUNCH-OUT leaves in a queue it found empty. -/
def State.punchOutQueue (s : State) (n : Deck) : List EngineRequest :=
  if s.recorder = some n ∧ s.engine.punches.open = true then [⟨.punchOut 15, true, some .out⟩] else []

theorem abortQueue_eq (s : State) (n : Deck) : s.punchOutQueue n ++ [⟨.halt, true, none⟩] = s.abortQueue n := by
  unfold State.punchOutQueue State.abortQueue
  split <;> rfl

theorem length_punchOutQueue (s : State) (n : Deck) : (s.punchOutQueue n).length < 4 := by
  unfold State.punchOutQueue
  split <;> decide

/-- Steps 1 to 3 of an abort (R144). -/
def State.abortPunches (s : State) (code : FaultCode) : State :=
  let s := s.onEngine fun e => { e with state := .aborting, abortCode := some code, rollDue := false }
  ((s.eachClaimed fun s d => s.emptyEngineQueue d).abandonPunches).abortPunchOut

theorem abortPunches_aside (s : State) (code : FaultCode) :
    Aside (s.onEngine fun e =>
      { e with
        state := .aborting, abortCode := some code, rollDue := false
        punches := { e with punches := e.punches.abandonOpen }.punchedOut s.F }) (s.abortPunches code) := by
  unfold State.abortPunches
  extract_lets a
  have hb : Aside a (a.eachClaimed fun s d => s.emptyEngineQueue d) :=
    .eachClaimed (fun u k => (Aside.refl u).onArbiter k _) a
  have hc := (hb.onEngine rfl).trans (Beside.abandonPunches _).toAside
  have hd := (hc.onEngine rfl).trans (Aside.abortPunchOut _)
  rw [hc.F] at hd
  exact hd

theorem abortPunches_deck (s : State) (code : FaultCode) (hn : s.engine.claims.Nodup) (m : Deck)
    (hrec : s.recorder = some m → m ∈ s.engine.claims) :
    (s.abortPunches code).deck m =
      if m ∈ s.engine.claims then
        { s.deck m with arbiter := { (s.deck m).arbiter with engineQueue := s.punchOutQueue m } }
      else s.deck m := by
  unfold State.abortPunches
  extract_lets a
  have hb : Aside a (a.eachClaimed fun s d => s.emptyEngineQueue d) :=
    .eachClaimed (fun u k => (Aside.refl u).onArbiter k _) a
  have hbd (m : Deck) : (a.eachClaimed fun s d => s.emptyEngineQueue d).deck m =
      if m ∈ s.engine.claims then (s.deck m).queueEmptied else s.deck m :=
    eachClaimed_deck (s := a) (f := fun s n => s.emptyEngineQueue n) (g := fun _ => DeckUnit.queueEmptied)
      (fun u k => (Aside.refl u).onArbiter k _) hn (fun u k j _ => emptyEngineQueue_deck u k j) m
  generalize a.eachClaimed (fun s d => s.emptyEngineQueue d) = b at hb hbd ⊢
  have hc := Beside.abandonPunches b
  have hcd (m : Deck) := (hc.decks m).trans (hbd m)
  have hce : b.abandonPunches.engine = { a.engine with punches := a.engine.punches.abandonOpen } := by
    rw [hc.engine, State.onEngine_engine, hb.engine]
  generalize b.abandonPunches = c at hcd hce
  have hcr : c.recorder = s.recorder := by simp only [State.recorder, hce]; rfl
  have hco : c.engine.punches.open = s.engine.punches.open := by rw [hce]; exact PunchPlan.open_abandonOpen _
  rw [abortPunchOut_deck c m, hcr, hco, hcd]
  · by_cases hm : m ∈ s.engine.claims
    · simp only [hm, if_true, DeckUnit.queueEmptied, State.punchOutQueue]
      split <;> rfl
    · have : s.recorder ≠ some m := fun h => hm (hrec h)
      simp [hm, this]
  · intro h
    simp [hcd, hrec (hcr ▸ h), DeckUnit.queueEmptied]

theorem abort_aside (code : FaultCode) (hr : s.engine.state.running = true) :
    Aside { s with engine := s.engine.aborted code s.F, generator := s.generator.freeze } (s.abort code) := by
  unfold State.abort
  rw [if_pos hr]
  extract_lets a b c d e f g h
  have hd := abortPunches_aside s code
  change Aside _ d at hd
  clear_value d
  have he : Aside d e := .eachClaimed (fun u k => (Aside.refl u).offerEngine k _) d
  clear_value e
  have hg : Aside f g := .eachClaimed (fun u k => (Aside.refl u).endChase k) f
  clear_value g
  have hge : h.engine = { d.engine with haltsAwaited := d.engine.claims } :=
    hg.engine.trans (congrArg (fun e : Engine => { e with haltsAwaited := e.claims }) he.engine)
  refine ⟨hg.timeline.trans (he.timeline.trans hd.timeline), hg.suite.trans (he.suite.trans hd.suite), ?_,
    congrArg Generator.freeze (hg.generator.trans (he.generator.trans hd.generator)), hg.ep.trans (he.ep.trans hd.ep),
    hg.marks.trans (he.marks.trans hd.marks), hg.gpi.trans (he.gpi.trans hd.gpi), hg.log.trans (he.log.trans hd.log)⟩
  rw [State.onEngine_engine, hge, hd.engine]
  simp only [State.onEngine_engine, Engine.punchedOut, PunchPlan.open_abandonOpen]
  rfl

theorem abort_deck (code : FaultCode) (hr : s.engine.state.running = true) (hn : s.engine.claims.Nodup) (m : Deck)
    (hrec : s.recorder = some m → m ∈ s.engine.claims) :
    (s.abort code).deck m =
      if m ∈ s.engine.claims then (s.deck m).aborted (s.abortQueue m) else s.deck m := by
  unfold State.abort
  rw [if_pos hr]
  extract_lets a b c d e f g h
  have hd := abortPunches_aside s code
  have hdd := abortPunches_deck s code hn m hrec
  change Aside _ d at hd
  change d.deck m = _ at hdd
  clear_value d
  have hdc : d.engine.claims = s.engine.claims := by rw [hd.engine]; rfl
  have he : Aside d e := .eachClaimed (fun u k => (Aside.refl u).offerEngine k _) d
  have hed (m : Deck) : e.deck m = if m ∈ d.engine.claims then _ else d.deck m :=
    eachClaimed_deck (g := fun _ => DeckUnit.offered ⟨.halt, true, none⟩ d.F)
      (fun u k => (Aside.refl u).offerEngine k _) (hdc ▸ hn)
      (fun u k j h => (offerEngine_deck u k j _).trans (by rw [h.F])) m
  clear_value e
  have hfc : f.engine.claims = s.engine.claims := (congrArg Engine.claims he.engine).trans hdc
  have hgd (m : Deck) : g.deck m = if m ∈ f.engine.claims then _ else f.deck m :=
    eachClaimed_deck (g := fun _ => DeckUnit.chaseEnded) (fun u k => (Aside.refl u).endChase k) (hfc ▸ hn)
      (fun u k j _ => endChase_deck u k j) m
  clear_value g
  refine (hgd m).trans ?_
  have hfm : f.deck m = _ := hed m
  rw [hfc, hfm, hdc, hdd]
  split
  · rw [DeckUnit.aborted_eq _ _ _ (length_punchOutQueue s m), abortQueue_eq]
  · rfl

theorem abort_aborted (code : FaultCode) (hr : s.engine.state.running = true) (hn : s.engine.claims.Nodup)
    (hrec : ∀ r, s.recorder = some r → r ∈ s.engine.claims) : Aborted s code (s.abort code) := by
  have ha := abort_aside code hr
  have hd (m : Deck) := abort_deck code hr hn m (hrec m)
  exact ⟨ha.engine, ha.generator, ha.marks, ha.gpi, ha.log, fun n hm => (hd n).trans (if_pos hm),
    fun n hm => (hd n).trans (if_neg hm)⟩

/-! ## What an abort leaves of a deck -/

section
variable (d : DeckUnit) (q : List EngineRequest)

theorem DeckUnit.chaseEnded_chase : d.chaseEnded.chase.state = .off := by
  unfold DeckUnit.chaseEnded
  split
  · assumption
  · rfl

@[simp] theorem DeckUnit.chaseEnded_tx : d.chaseEnded.tx = d.tx := by unfold DeckUnit.chaseEnded; split <;> rfl
@[simp] theorem DeckUnit.chaseEnded_rx : d.chaseEnded.rx = d.rx := by unfold DeckUnit.chaseEnded; split <;> rfl
@[simp] theorem DeckUnit.chaseEnded_list : d.chaseEnded.list = d.list := by unfold DeckUnit.chaseEnded; split <;> rfl
@[simp] theorem DeckUnit.chaseEnded_tracker : d.chaseEnded.tracker = d.tracker := by
  unfold DeckUnit.chaseEnded; split <;> rfl
@[simp] theorem DeckUnit.chaseEnded_statusWritten : d.chaseEnded.statusWritten = d.statusWritten := by
  unfold DeckUnit.chaseEnded; split <;> rfl
@[simp] theorem DeckUnit.chaseEnded_capture : d.chaseEnded.capture = d.capture := by
  unfold DeckUnit.chaseEnded; split <;> rfl
@[simp] theorem DeckUnit.chaseEnded_queue : d.chaseEnded.arbiter.engineQueue = d.arbiter.engineQueue := by
  unfold DeckUnit.chaseEnded; split <;> rfl
@[simp] theorem DeckUnit.chaseEnded_linkState : d.chaseEnded.link.state = d.link.state := by
  unfold DeckUnit.chaseEnded; split <;> rfl
@[simp] theorem DeckUnit.chaseEnded_free : d.chaseEnded.free = d.free := by
  unfold DeckUnit.chaseEnded
  split
  · rfl
  · simp [DeckUnit.free, Link.dropChase]

@[simp] theorem DeckUnit.aborted_tx : (d.aborted q).tx = d.tx := by simp [DeckUnit.aborted]
@[simp] theorem DeckUnit.aborted_rx : (d.aborted q).rx = d.rx := by simp [DeckUnit.aborted]
@[simp] theorem DeckUnit.aborted_list : (d.aborted q).list = d.list := by simp [DeckUnit.aborted]
@[simp] theorem DeckUnit.aborted_tracker : (d.aborted q).tracker = d.tracker := by simp [DeckUnit.aborted]
@[simp] theorem DeckUnit.aborted_statusWritten : (d.aborted q).statusWritten = d.statusWritten := by
  simp [DeckUnit.aborted]
@[simp] theorem DeckUnit.aborted_queue : (d.aborted q).arbiter.engineQueue = q := by simp [DeckUnit.aborted]
@[simp] theorem DeckUnit.aborted_linkState : (d.aborted q).link.state = d.link.state := by simp [DeckUnit.aborted]
@[simp] theorem DeckUnit.aborted_free : (d.aborted q).free = d.free := DeckUnit.chaseEnded_free _
theorem DeckUnit.aborted_chase : (d.aborted q).chase.state = .off := DeckUnit.chaseEnded_chase _

end

theorem Aborted.deck {code : FaultCode} (h : Aborted s code t) (m : Deck) :
    t.deck m = if m ∈ s.engine.claims then (s.deck m).aborted (s.abortQueue m) else s.deck m := by
  split
  · exact h.claimed m ‹_›
  · exact h.unclaimed m ‹_›

theorem Aborted.sidesKept {code : FaultCode} (h : Aborted s code t) (n : Deck) : s.sidesKept t n := by
  unfold State.sidesKept
  rw [h.deck]
  split <;> simp

theorem Aborted.unitsKept {code : FaultCode} (h : Aborted s code t) : s.unitsKept t := ⟨h.marks, h.log, h.gpi⟩

/-! ## What no abort changes in a deck -/

/-- No deck's ports, command list, tracker or status record, and no link's readiness, differ. -/
def Quiet (s t : State) : Prop := ∀ n, s.sidesKept t n ∧ (t.deck n).free = (s.deck n).free

theorem Quiet.refl (s : State) : Quiet s s := fun _ => ⟨⟨rfl, rfl, rfl, rfl, rfl⟩, rfl⟩

theorem State.sidesKept.trans (h : s.sidesKept t n) (k : t.sidesKept u n) : s.sidesKept u n := by
  obtain ⟨h₁, h₂, h₃, h₄, h₅⟩ := h
  obtain ⟨k₁, k₂, k₃, k₄, k₅⟩ := k
  exact ⟨k₁.trans h₁, k₂.trans h₂, k₃.trans h₃, k₄.trans h₄, k₅.trans h₅⟩

theorem Quiet.trans (h : Quiet s t) (k : Quiet t u) : Quiet s u :=
  fun n => ⟨(h n).1.trans (k n).1, (k n).2.trans (h n).2⟩

theorem Quiet.foldl {α : Type} {f : State → α → State} (hf : ∀ u x, Quiet u (f u x)) (l : List α) (s : State) :
    Quiet s (l.foldl f s) := by
  induction l generalizing s with
  | nil => exact .refl s
  | cons x l ih => exact (hf s x).trans (ih _)

theorem Quiet.eachClaimed {f : State → Deck → State} (hf : ∀ u k, Quiet u (f u k)) (s : State) :
    Quiet s (s.eachClaimed f) := Quiet.foldl hf _ s

theorem Quiet.of_decks (h : ∀ n, t.deck n = s.deck n) : Quiet s t := fun n => by
  rw [State.sidesKept, h n]
  exact ⟨⟨rfl, rfl, rfl, rfl, rfl⟩, rfl⟩

theorem Quiet.linksBusy (h : Quiet s t) (hb : s.linksBusy) : t.linksBusy := by
  refine hb.congr (fun n => ?_) fun n => (h n).2
  rw [(h n).1.2.2.1]
  exact ⟨rfl, rfl⟩

theorem emptyEngineQueue_quiet (s : State) (k : Deck) : Quiet s (s.emptyEngineQueue k) := fun n => by
  rw [State.sidesKept, emptyEngineQueue_deck]
  split
  · next h => subst h; exact ⟨⟨rfl, rfl, rfl, rfl, rfl⟩, rfl⟩
  · exact ⟨⟨rfl, rfl, rfl, rfl, rfl⟩, rfl⟩

theorem offerEngine_quiet (s : State) (k : Deck) (r : EngineRequest) : Quiet s (s.offerEngine k r).2 := fun n => by
  rw [State.sidesKept, offerEngine_deck]
  split
  · next h => subst h; unfold DeckUnit.offered; split <;> exact ⟨⟨rfl, rfl, rfl, rfl, rfl⟩, rfl⟩
  · exact ⟨⟨rfl, rfl, rfl, rfl, rfl⟩, rfl⟩

theorem endChase_quiet (s : State) (k : Deck) : Quiet s (s.endChase k) := fun n => by
  rw [State.sidesKept, endChase_deck]
  split
  · next h => subst h; simp
  · exact ⟨⟨rfl, rfl, rfl, rfl, rfl⟩, rfl⟩

theorem abortPunchOut_quiet (s : State) : Quiet s s.abortPunchOut := by
  unfold State.abortPunchOut
  split
  · exact .refl s
  · split
    · exact offerEngine_quiet s _ _
    · exact .refl s

theorem abort_quiet (s : State) (code : FaultCode) : Quiet s (s.abort code) := by
  unfold State.abort
  split
  · extract_lets a b c d e f g h
    have ha : Quiet s a := .refl s
    have hb : Quiet a b := .eachClaimed emptyEngineQueue_quiet a
    clear_value b
    have hc : Quiet b c := .of_decks (Beside.abandonPunches b).decks
    clear_value c
    have hd : Quiet c d := abortPunchOut_quiet c
    clear_value d
    have he : Quiet d e := .eachClaimed (fun u k => offerEngine_quiet u k _) d
    clear_value e
    have hf : Quiet e f := .refl e
    have hg : Quiet f g := .eachClaimed endChase_quiet f
    exact (((((ha.trans hb).trans hc).trans hd).trans he).trans hf).trans hg
  · exact .refl s

theorem Aborted.generator_content {code : FaultCode} (h : Aborted s code t) :
    t.generator.content = s.generator.content := by
  rw [h.generator]
  unfold Generator.freeze
  split <;> rfl

theorem Aborted.generator_frozen {code : FaultCode} (h : Aborted s code t) (hc : s.generator.state = .carrying) :
    t.generator.state = .frozen := by
  rw [h.generator, Generator.freeze, if_pos hc]

theorem Aborted.triggers {code : FaultCode} (h : Aborted s code t) : ∀ x ∈ t.engine.triggers, x.status ≠ .planned := by
  rw [h.engine]
  intro x hx
  obtain ⟨y, -, rfl⟩ := List.mem_map.mp hx
  split
  · simp
  · assumption

/-- The recorder of the running event is among the claims. -/
theorem recorder_mem_claims (hc : ∀ ev, s.engine.working = some ev → s.engine.claims = ev.decks) (r : Deck)
    (h : s.recorder = some r) : r ∈ s.engine.claims := by
  obtain ⟨ev, hw, rfl⟩ := Option.map_eq_some_iff.mp h
  rw [hc ev hw]
  exact List.mem_cons_self

/-- Settles O13. -/
theorem startAttentionMakesStartPending : Obligations.StartAttentionMakesStartPending := by
  intro s hs
  have hexec : exec .attnStart s = .next ((s.setAttention 7 false).startRequest .host) :=
    registerWrite_of_ready hs _
  rw [hexec]
  unfold State.startRequest
  constructor
  · rintro hst ⟨ev, hw, hk⟩
    rw [if_pos ⟨hst, by simp [State.setAttention, hw, hk]⟩]
  · intro h
    rw [if_neg]
    rintro ⟨hst, hw⟩
    rcases h with ⟨h₁, h₂⟩ | h
    · exact hst.elim h₁ h₂
    · obtain ⟨ev, he, hk⟩ := Option.any_eq_true _ _ |>.mp hw
      exact h ev he (by simpa using hk)

/-- Settles O14. -/
theorem abortAttentionStopsTheEvent : Obligations.AbortAttentionStopsTheEvent := by
  intro s hs hc
  have hexec : exec .attnAbort s = .next ((s.setAttention 8 false).abort .hostAbort).settleDecks :=
    registerWrite_of_ready hs _
  rw [hexec]
  refine ⟨fun hr hd => ?_, fun hr hb hn => ?_⟩
  · rw [abort_of_rest (s := s.setAttention 8 false) _ hr,
      settleDecks_of_rest (s := s.setAttention 8 false) (hd.congr rfl rfl rfl)]
  · have ha : Aborted (s.setAttention 8 false) .hostAbort _ := abort_aborted _ hr hn (recorder_mem_claims hc)
    have hw := abort_writes (s := s.setAttention 8 false) .hostAbort hr
    have hst := ((Calm.refl (s.setAttention 8 false)).abort .hostAbort).standing
    rw [settleDecks_of_busy (Quiet.linksBusy (abort_quiet (s.setAttention 8 false) _) hb)]
    generalize (s.setAttention 8 false).abort .hostAbort = t at ha hw hst
    refine ⟨t, rfl, by rw [ha.engine]; rfl, by rw [ha.engine]; rfl, by rw [ha.engine]; rfl, by rw [ha.engine]; rfl,
      ha.triggers, ha.generator_frozen, ha.generator_content, fun n hm => ?_, ha.unclaimed, ha.sidesKept, hw,
      ha.unitsKept, hst⟩
    rw [ha.claimed n hm]
    exact ⟨DeckUnit.aborted_chase _ _, DeckUnit.aborted_queue _ _⟩

end Sys2Proof.Machine
end

section
/-!
PROOFS. The all-stop, and the loss of the reference.
-/

namespace Sys2Proof.Machine

variable {s t u : State} {n m : Deck}

/-! ## The all-stop -/

/-- The deck once the all-stop's HALT has been offered to it (R172). -/
def DeckUnit.stopped (claimed : Bool) (f : FieldCount) (d : DeckUnit) : DeckUnit :=
  if (d.link.state = .up ∨ d.link.state = .probing) ∧ claimed = false then d.offered ⟨.halt, false, none⟩ f else d

theorem allStopHalt_deck (s : State) (n m : Deck) :
    (s.allStopHalt n).deck m = if m = n then (s.deck n).stopped (s.claimed n) s.F else s.deck m := by
  have hc : (!s.claimed n) = true ↔ s.claimed n = false := by simp
  unfold State.allStopHalt DeckUnit.stopped
  simp only [hc]
  split
  · exact offerEngine_deck s n m _
  · split
    · next h => rw [h]
    · rfl

theorem Aside.allStopHalt (h : Aside s t) (n : Deck) : Aside s (t.allStopHalt n) := (h.offerEngine n _).ite h

theorem Aside.eachDeck (h : Aside s t) {f : Deck → State → State} (hf : ∀ n u, Aside s u → Aside s (f n u)) :
    Aside s (t.eachDeck f) := by
  rw [eachDeck_eq_foldl]
  exact h.foldl hf _

theorem eachDeck_mem {f : Deck → State → State} (hf : ∀ n u, (f n u).mem = u.mem) (s : State) :
    (s.eachDeck f).mem = s.mem := by
  simp only [State.eachDeck, hf]

theorem allStopHalt_mem (s : State) (n : Deck) : (s.allStopHalt n).mem = s.mem := by
  unfold State.allStopHalt
  extract_lets
  split
  · exact offerEngine_mem s n _
  · rfl

@[simp] theorem raise_pending (s : State) (c : Cause) : (s.raise c).iface.pending.get c = true := by
  simp [State.raise]

theorem DeckUnit.stopped_chase (d : DeckUnit) (c : Bool) (f : FieldCount) : (d.stopped c f).chase = d.chase := by
  unfold DeckUnit.stopped DeckUnit.offered
  split
  · split <;> rfl
  · rfl

theorem DeckUnit.stopped_queue (d : DeckUnit) (c : Bool) (f : FieldCount)
    (hq : c = false → d.arbiter.engineQueue.length < 4) :
    (d.stopped c f).arbiter.engineQueue =
      if (d.link.state = .up ∨ d.link.state = .probing) ∧ c = false then
        d.arbiter.engineQueue ++ [⟨.halt, false, none⟩] else d.arbiter.engineQueue := by
  unfold DeckUnit.stopped
  split
  · next h => rw [DeckUnit.offered, if_pos (hq h.2)]
  · rfl

/-- What an offer to an engine queue leaves of a deck: all but the queue and the capture. -/
theorem DeckUnit.offered_rest (d : DeckUnit) (r : EngineRequest) (f : FieldCount) :
    ∃ q c, d.offered r f = { d with arbiter := { d.arbiter with engineQueue := q }, capture := c } := by
  unfold DeckUnit.offered
  split
  · exact ⟨_, d.capture, rfl⟩
  · exact ⟨d.arbiter.engineQueue, _, rfl⟩

theorem DeckUnit.stopped_rest (d : DeckUnit) (c : Bool) (f : FieldCount) :
    ∃ q x, d.stopped c f = { d with arbiter := { d.arbiter with engineQueue := q }, capture := x } := by
  unfold DeckUnit.stopped
  split
  · exact d.offered_rest _ f
  · exact ⟨d.arbiter.engineQueue, d.capture, rfl⟩

/-- What an all-stop does after its abort (R172). -/
def State.stopDecks (s : State) : State :=
  ((s.eachDeck fun n s => s.endChase n).eachDeck fun n s => s.allStopHalt n).raise .allStop

theorem stopDecks_aside (s : State) : Aside s s.stopDecks :=
  (((Aside.refl s).eachDeck fun n _ h => h.endChase n).eachDeck fun n _ h => h.allStopHalt n).raise _

theorem stopDecks_mem (s : State) : s.stopDecks.mem = s.mem := by
  unfold State.stopDecks State.raise
  rw [State.onIface_mem, eachDeck_mem (f := fun n s => s.allStopHalt n) fun n u => allStopHalt_mem u n,
    eachDeck_mem (f := fun n s => s.endChase n) fun n u => endChase_mem u n]

theorem stopDecks_deck (s : State) (m : Deck) :
    s.stopDecks.deck m = (s.deck m).chaseEnded.stopped (s.claimed m) s.F := by
  have hchase : ∀ m, (s.eachDeck fun n s => s.endChase n).deck m = (s.deck m).chaseEnded := fun m =>
    eachDeck_deck (P := Aside s) (g := fun _ => DeckUnit.chaseEnded) (fun _ k h => h.endChase k)
      (fun u k j _ => endChase_deck u k j) (.refl s) m
  unfold State.stopDecks State.raise
  rw [State.onIface_deck, eachDeck_deck (f := fun n s => s.allStopHalt n) (P := Aside s)
    (g := fun n => DeckUnit.stopped (s.claimed n) s.F) (fun _ k h => h.allStopHalt k) (fun u k j h => ?_)
    ((Aside.refl s).eachDeck fun n _ h => h.endChase n) m, hchase]
  rw [allStopHalt_deck, State.claimed, h.engine, h.F]
  rfl

theorem stopDecks_sidesKept (s : State) (n : Deck) : s.sidesKept s.stopDecks n := by
  obtain ⟨q, x, h⟩ := DeckUnit.stopped_rest (s.deck n).chaseEnded (s.claimed n) s.F
  unfold State.sidesKept
  rw [stopDecks_deck, h]
  simp

theorem stopDecks_linksBusy (h : s.linksBusy) : s.stopDecks.linksBusy := by
  refine h.congr (fun n => ?_) (fun n => ?_)
  · rw [(stopDecks_sidesKept s n).2.2.1]
    exact ⟨rfl, rfl⟩
  · obtain ⟨q, x, h⟩ := DeckUnit.stopped_rest (s.deck n).chaseEnded (s.claimed n) s.F
    rw [stopDecks_deck, h]
    exact DeckUnit.chaseEnded_free _

theorem stopDecks_pending (s : State) : s.stopDecks.iface.pending.get .allStop = true := by
  unfold State.stopDecks
  exact raise_pending _ _

/-- What the end of the chases and the HALTs of an all-stop come to (R172). -/
structure Stopped (s t : State) : Prop extends Aside s t where
  raised : t.iface.pending.get .allStop = true
  mem : t.mem = s.mem
  decks : ∀ n, t.deck n = (s.deck n).chaseEnded.stopped (s.claimed n) s.F
  sidesKept : ∀ n, s.sidesKept t n

theorem stopDecks_stopped (s : State) : Stopped s s.stopDecks :=
  ⟨stopDecks_aside s, stopDecks_pending s, stopDecks_mem s, stopDecks_deck s, stopDecks_sidesKept s⟩

theorem Stopped.chase (h : Stopped s t) (n : Deck) : (t.deck n).chase.state = .off := by
  rw [h.decks, DeckUnit.stopped_chase]
  exact DeckUnit.chaseEnded_chase _

theorem Stopped.queue (h : Stopped s t) {n : Deck}
    (hq : s.claimed n = false → (s.deck n).arbiter.engineQueue.length < 4) :
    (t.deck n).arbiter.engineQueue =
      if ((s.deck n).link.state = .up ∨ (s.deck n).link.state = .probing) ∧ s.claimed n = false then
        (s.deck n).arbiter.engineQueue ++ [⟨.halt, false, none⟩] else (s.deck n).arbiter.engineQueue := by
  rw [h.decks, DeckUnit.stopped_queue _ _ _ (by simpa using hq)]
  simp

theorem GpiUnit.chordClosed_iff (g : GpiUnit) :
    g.chordClosed = true ↔ (∃ l, (g.inputs.get l).function = .chord) ∧
      ∀ l, (g.inputs.get l).function = .chord → g.levels.get l = ((g.inputs.get l).edge != .falling) := by
  have hm (l : Line) : l ∈ Line.list := by cases l <;> decide
  simp only [GpiUnit.chordClosed, GpiUnit.member, GpiUnit.atActive, Bool.and_eq_true, List.any_eq_true,
    List.all_eq_true, Bool.or_eq_true, Bool.not_eq_true', beq_iff_eq, beq_eq_false_iff_ne, hm, true_and]
  exact and_congr_right fun _ => forall_congr' fun l => by rw [ne_eq, ← imp_iff_not_or, forall_const]

/-- A change of a chord member's level, before the chord is judged. -/
theorem inputChange_of_chord {l : Line} {high : Bool} (hl : s.gpi.levels.get l ≠ high)
    (hf : (s.gpi.inputs.get l).function = .chord) :
    s.inputChange l high =
      match ({ s.gpi with levels := s.gpi.levels.set l high } : GpiUnit).judgeChord with
      | (true, g) => (s.onGpi fun _ => g).allStop
      | (false, g) => s.onGpi fun _ => g := by
  have hedge (u : State) (hu : u.gpi.inputs = s.gpi.inputs) : u.edge l high = u := by
    simp [State.edge, hu, hf]
  unfold State.inputChange
  rw [if_neg hl]
  extract_lets a b
  have hb : b = a := by
    unfold b
    split
    · exact hedge a rfl
    · rfl
  rw [hb]
  rfl

/-- A command that makes an all-stop, the GPI unit then being `g`. -/
theorem exec_of_allStop {c : Instr} {g : GpiUnit} (hs : s.ready)
    (hc : (c = .allStop ∧ g = s.gpi) ∨
      ∃ l high, c = .gpiInputChange l high ∧ g = { s.gpi with levels := s.gpi.levels.set l high, armed := false } ∧
        s.gpi.levels.get l ≠ high ∧ s.gpi.armed = true ∧ (s.gpi.inputs.get l).function = .chord ∧
        ∀ k, (s.gpi.inputs.get k).function = .chord →
          (s.gpi.levels.set l high).get k = ((s.gpi.inputs.get k).edge != .falling)) :
    exec c s = .next ((s.onGpi fun _ => g).allStop).settleDecks := by
  rcases hc with ⟨rfl, rfl⟩ | ⟨l, high, rfl, rfl, hl, ha, hf, hm⟩
  · exact registerWrite_of_ready hs _
  · refine (command_of_ready hs fun s => (s.inputChange l high).settleDecks).trans ?_
    have hcl : ({ s.gpi with levels := s.gpi.levels.set l high } : GpiUnit).chordClosed = true :=
      (GpiUnit.chordClosed_iff _).mpr ⟨⟨l, hf⟩, hm⟩
    rw [inputChange_of_chord hl hf, GpiUnit.judgeChord, if_pos ⟨ha, hcl⟩]

theorem standing_of_chord {g : GpiUnit} (hi : g.inputs = s.gpi.inputs) (ho : g.outputs = s.gpi.outputs)
    (hd : g.captureDeck = s.gpi.captureDeck) (ht : t.standing = (s.onGpi fun _ => g).standing) :
    { t.standing with gpiLevels := s.gpi.levels, chordArmed := s.gpi.armed } = s.standing := by
  rw [ht]
  simp [State.standing, hi, ho, hd]

/-- Settles O21. -/
theorem allStopHaltsEveryDeck : Obligations.AllStopHaltsEveryDeck := by
  refine ⟨fun s c g hs hb hc => ?_, fun s l high g hs hd hl ha hf hg ⟨k, hk, hin⟩ => ?_⟩
  · have hstand {t : State} : t.standing = (s.onGpi fun _ => g).standing →
        { t.standing with gpiLevels := s.gpi.levels, chordArmed := s.gpi.armed } = s.standing := by
      rcases hc with ⟨-, rfl⟩ | ⟨l, high, -, rfl, -⟩ <;> exact standing_of_chord rfl rfl rfl
    have hbu : (s.onGpi fun _ => g).linksBusy := hb
    rw [exec_of_allStop hs hc]
    have hcalm := (Calm.allStop (Calm.refl (s.onGpi fun _ => g))).standing
    have heq : (s.onGpi fun _ => g).allStop = ((s.onGpi fun _ => g).abort .allStop).stopDecks := rfl
    rw [heq] at hcalm ⊢
    refine ⟨fun hr hq => ?_, fun hr hw hn hq => ?_⟩
    · rw [abort_of_rest (s := s.onGpi fun _ => g) _ hr] at hcalm ⊢
      rw [settleDecks_of_busy (stopDecks_linksBusy hbu)]
      have ht := stopDecks_stopped (s.onGpi fun _ => g)
      generalize (s.onGpi fun _ => g).stopDecks = t at ht hcalm
      exact ⟨t, rfl, ht.raised, ht.engine, fun n => ⟨ht.chase n, ht.queue fun _ => hq n⟩, ht.sidesKept, ht.generator,
        ht.mem, ht.marks, ht.log, ht.gpi, hstand hcalm⟩
    · have ha : Aborted (s.onGpi fun _ => g) .allStop _ := abort_aborted _ hr hn (recorder_mem_claims hw)
      have hwr := abort_writes (s := s.onGpi fun _ => g) .allStop hr
      have hq' := abort_quiet (s.onGpi fun _ => g) .allStop
      generalize (s.onGpi fun _ => g).abort .allStop = u at ha hwr hcalm hq' ⊢
      rw [settleDecks_of_busy (stopDecks_linksBusy (Quiet.linksBusy hq' hbu))]
      have ht := stopDecks_stopped u
      generalize u.stopDecks = t at ht hcalm
      have hte : t.engine = s.engine.aborted .allStop s.F := ht.engine.trans ha.engine
      have hcl (n : Deck) : u.claimed n = s.claimed n := by simp only [State.claimed, ha.engine]; rfl
      have hclaim (n : Deck) : s.claimed n = true ↔ n ∈ s.engine.claims := by simp [State.claimed]
      refine ⟨t, rfl, ht.raised, by rw [hte]; rfl, by rw [hte]; rfl, by rw [hte]; rfl, by rw [hte]; rfl, ht.chase,
        fun n hm => ?_, fun n hm => ?_, fun n => (ha.sidesKept n).trans (ht.sidesKept n),
        (congrArg Generator.content ht.generator).trans ha.generator_content,
        fun h => (congrArg Generator.state ht.generator).trans (ha.generator_frozen h), ?_, ht.marks.trans ha.marks,
        ht.log.trans ha.log, ht.gpi.trans ha.gpi, hstand hcalm⟩
      · have hc := (hclaim n).mpr hm
        rw [ht.queue fun h => by simp [hcl, hc] at h, if_neg (by simp [hcl, hc]), ha.claimed n hm]
        exact DeckUnit.aborted_queue _ _
      · have hc : s.claimed n = false := Bool.eq_false_iff.mpr fun h => hm ((hclaim n).mp h)
        rw [ht.queue fun _ => by simpa [ha.unclaimed n hm] using hq n hm, ha.unclaimed n hm]
        simp [hcl, hc]
      · unfold State.abandonsWritten State.sameOutside
        rw [ht.mem]
        exact hwr
  · have hexec := command_of_ready hs fun s => (s.inputChange l high).settleDecks
    refine Eq.trans hexec ?_
    have hk' : Line.list.any (fun k => g.member k && !g.atActive k) = true := by
      refine List.any_eq_true.mpr ⟨k, by cases k <;> decide, ?_⟩
      subst hg
      simpa [GpiUnit.member, GpiUnit.atActive, hk] using hin
    have hga : g.armed = false := hg ▸ ha
    rw [inputChange_of_chord hl hf, ← hg, GpiUnit.judgeChord, if_neg (by simp [hga]), if_pos ⟨by simp [hga], hk'⟩]
    exact congrArg _ (settleDecks_of_rest (s := s.onGpi fun _ => { g with armed := true }) (hd.congr rfl rfl rfl))

/-! ## What a field advance leaves standing -/

/-- What stands is unchanged but for the timeline and the effects port. -/
def Steady (s t : State) : Prop := { t.standing with timeline := s.timeline, ep := s.ep } = s.standing

theorem Steady.trans (h : Steady s t) (k : Steady t u) : Steady s u :=
  Eq.trans (congrArg (fun x : Standing => { x with timeline := s.timeline, ep := s.ep }) k : _) h

theorem Calm.steady (h : Calm s t) : Steady s t := by
  unfold Steady
  rw [h.standing]
  rfl

theorem Calm.timeline (h : Calm s t) : t.timeline = s.timeline := congrArg Standing.timeline h.standing

theorem fieldFrameTick_steady (s : State) : Steady s s.fieldFrameTick := by
  unfold State.fieldFrameTick
  extract_lets v
  split <;> rfl

theorem fieldTick_steady (s : State) : Steady s s.fieldTick := by
  have h : Steady s s.tickTimers.fieldFrameTick := (Calm.refl s).tickTimers.steady.trans (fieldFrameTick_steady _)
  unfold State.fieldTick
  extract_lets v
  split
  · exact h.trans (Calm.refl _).frameBoundary.steady
  · exact h

theorem fieldTick_timeline (s : State) : s.fieldTick.timeline = s.timeline := by
  have h : s.tickTimers.fieldFrameTick.timeline = s.timeline :=
    (fieldFrameTick_timeline _).trans (Calm.refl s).tickTimers.timeline
  unfold State.fieldTick
  extract_lets v
  split
  · exact (Calm.refl _).frameBoundary.timeline.trans h
  · exact h

theorem advance_steady (s : State) (id : FieldId) (st : RefState) (k : Nat) : Steady s (s.advance id st k) :=
  Steady.trans (t := s.onTimeline fun t => t.advance id st k) rfl (fieldTick_steady _)

theorem advance_timeline (s : State) (id : FieldId) (st : RefState) (k : Nat) :
    (s.advance id st k).timeline = s.timeline.advance id st k :=
  fieldTick_timeline (s.onTimeline fun t => t.advance id st k)

/-- With no loss of the reference due the immediate acts are calm. -/
theorem Calm.immediates (h : Calm s t) (hl : s.timeline.lostDue = false) : Calm s t.immediates := by
  unfold State.immediates
  extract_lets v
  have hv : Calm s v := h.eachDeck fun n _ hu => hu.immediateDeck n
  clear_value v
  rw [hv.timeline, hl, if_neg Bool.false_ne_true]
  exact hv.settleDecks.ite h

theorem Calm.catchUp (h : Calm s t) (hl : s.timeline.lostDue = false) : Calm s t.catchUp :=
  h.foldl (fun a _ hu => ((hu.run a).settleDecks.immediates hl).ite hu) _

theorem advanceField_timeline (hl : s.timeline.lostDue = false) (id : FieldId) (st : RefState) (k : Nat) :
    (s.advanceField id st k).timeline = s.timeline.advance id st k := by
  rw [State.advanceField, (Calm.refl _).settleDecks.timeline, advance_timeline, ((Calm.refl s).catchUp hl).timeline]

theorem advanceField_steady (hl : s.timeline.lostDue = false) (id : FieldId) (st : RefState) (k : Nat) :
    Steady s (s.advanceField id st k) :=
  (((Calm.refl s).catchUp hl).steady.trans (advance_steady _ id st k)).trans (Calm.refl _).settleDecks.steady

@[simp] theorem raise_timeline (s : State) (c : Cause) : (s.raise c).timeline = s.timeline := rfl

theorem raise_steady (s : State) (c : Cause) : Steady s (s.raise c) := rfl

/-! ## The loss of the reference -/

/-- What the loss of the reference does before it aborts anything (R13, R16). -/
def State.lost (s : State) : State :=
  ({ s with timeline := { s.timeline with refState := .lost } }.raise .reference).offerDevice 4 .referenceLost 0

theorem lost_aside (s : State) : Aside { s with timeline := { s.timeline with refState := .lost } } s.lost :=
  ((Aside.refl _).raise _).offerDevice _ _ _

theorem lost_deck (s : State) (n : Deck) : s.lost.deck n = s.deck n := offerDevice_deck _ _ _ _ n

theorem lost_pending (s : State) : s.lost.iface.pending.get .reference = true :=
  ((Calm.refl _).offerDevice _ _ _).causes _ (raise_pending _ _)

theorem loseReference_eq (s : State) :
    s.loseReference = if s.engine.state.needsReference then s.lost.abort .referenceLost else s.lost := by
  have h : s.lost.engine = s.engine := (lost_aside s).engine
  unfold State.loseReference
  extract_lets v
  have hv : v = s.lost := rfl
  rw [hv, h]

theorem decks_eq (h : ∀ n, t.deck n = s.deck n) : t.decks = s.decks := Six.ext_get h

theorem exec_referenceLost (s : State) :
    exec .referenceLost s = .next (if s.timeline.lostDue then s.loseReference.settleDecks else s) := rfl

theorem exec_referenceLock (s : State) :
    exec .referenceLock s = .next (if s.timeline.lockDue then s.immediates.lockReference else s) := rfl

theorem exec_referenceLost_of_due (hr : s.timeline.refState = .holdover) (hm : s.timeline.miss = 16) :
    exec .referenceLost s = .next s.loseReference.settleDecks := by
  rw [exec_referenceLost, if_pos (by simp [Timeline.lostDue, hr, hm])]

/-- Settles O24. -/
theorem referencePulsesLockAndLoss : Obligations.ReferencePulsesLockAndLoss := by
  refine ⟨fun s id hs => ?_, fun s id hh hi hr hg hp => ?_, fun s h => ?_, fun s hh hr hm hd h₁ h₂ h₃ => ?_,
    fun s hh hr hm hb he => ?_, fun s h => ?_⟩
  · have hexec : exec (.referencePulse id) s = .next (s.pulse id) := command_of_ready hs fun s => s.pulse id
    have hne : s.timeline.field ≠ s.timeline.field.other := by cases s.timeline.field <;> decide
    rw [hexec]
    unfold State.pulse
    refine ⟨fun h => ?_, fun h hid => ?_, fun h => ?_, fun h => ?_, fun h hid => ?_⟩
    · simp only [h]
    · rcases h with h | h <;> simp only [h, hid, if_neg hne]
    · simp only [h, State.onTimeline, Timeline.countPulse]
      cases s.timeline.prevPulse with
      | none => simp
      | some p => simp
    · simp only [h, State.onTimeline, Timeline.beginAcquiring]
    · rcases h with h | h
      · simp only [h, if_pos hid]
        refine ⟨_, rfl, ?_, by simp, advanceField_steady hs.lostDue _ _ _⟩
        simp [advanceField_timeline hs.lostDue, Timeline.advance, RefState.limit]
      · simp only [h, if_pos hid]
        refine ⟨_, rfl, ?_, fun _ => raise_pending _ _,
          (advanceField_steady hs.lostDue _ _ _).trans (raise_steady _ _)⟩
        rw [raise_timeline, advanceField_timeline hs.lostDue]
        simp [Timeline.advance, RefState.limit]
  · have hlock : s.timeline.lockDue = true := by simp [Timeline.lockDue, hr, hg]
    have hlost : s.timeline.lostDue = false := by simp [Timeline.lostDue, hr]
    have hexec : exec .referenceLock s = .next ((s.advanceField id .locked 0).raise .reference) := by
      rw [exec_referenceLock, if_pos hlock, immediates_of_none hi, State.lockReference, hp]
      rfl
    refine ⟨_, hexec, ?_, raise_pending _ _, (advanceField_steady hlost _ _ _).trans (raise_steady _ _)⟩
    rw [raise_timeline, advanceField_timeline hlost]
    simp [Timeline.advance, RefState.limit]
  · have hlock : s.timeline.lockDue = false := by rcases h with h | h <;> simp [Timeline.lockDue, h]
    rw [exec_referenceLock, hlock, if_neg Bool.false_ne_true]
  · have hn : s.engine.state.needsReference = false := by
      cases hst : s.engine.state <;> simp_all [EngineState.needsReference]
    rw [exec_referenceLost_of_due hr hm, loseReference_eq, hn, if_neg Bool.false_ne_true, settleDecks_of_rest]
    · rfl
    · exact hd.congr (decks_eq (lost_deck s)) (lost_aside s).engine (lost_aside s).F
  · have hn : s.engine.state.needsReference = true ∧ s.engine.state.running = true := by
      rcases he with he | he | he <;> rw [he] <;> exact ⟨rfl, rfl⟩
    have hl := lost_aside s
    have hrun : s.lost.engine.state.running = true := hl.engine ▸ hn.2
    have ha := abort_aside .referenceLost hrun
    have hq := (Quiet.of_decks (lost_deck s)).trans (abort_quiet s.lost .referenceLost)
    have hp := ((Calm.refl s.lost).abort .referenceLost).causes _ (lost_pending s)
    rw [exec_referenceLost_of_due hr hm, loseReference_eq, hn.1, if_pos rfl]
    generalize s.lost.abort .referenceLost = t at ha hq hp
    rw [settleDecks_of_busy (hq.linksBusy hb)]
    exact ⟨t, rfl, ha.timeline.trans hl.timeline, hp, by rw [ha.engine]; rfl, by rw [ha.engine]; rfl,
      fun n => (hq n).1, ha.marks.trans hl.marks, ha.log.trans hl.log, ha.gpi.trans hl.gpi⟩
  · have hlost : s.timeline.lostDue = false := by rcases h with h | h <;> simp [Timeline.lostDue, h]
    rw [exec_referenceLost, hlost, if_neg Bool.false_ne_true]

end Sys2Proof.Machine
end

section
/-!
PROOFS. The ports and the assembler: characters, the placing of bytes, reception, frames in assembly (R20 to R38).
-/

namespace Sys2Proof.Machine

variable {s t u : State} {n m : Deck}

/-! ## The character on the line -/

/-- The parity of the number of members that pass is the exclusive or over the list. -/
theorem odd_length_filter {α : Type} (f : α → Bool) (l : List α) :
    ((l.filter f).length % 2 == 1) = l.foldr (fun a x => f a ^^ x) false := by
  induction l with
  | nil => rfl
  | cons a l ih =>
    rw [List.foldr_cons, ← ih]
    cases hf : f a with
    | false => simp [hf]
    | true => rcases Nat.mod_two_eq_zero_or_one (l.filter f).length with h | h <;> simp [Nat.add_mod, hf, h]

/-- The exclusive or of the eight data bits. -/
def xorBits (x : Byte) : Bool := x[0] ^^ x[1] ^^ x[2] ^^ x[3] ^^ x[4] ^^ x[5] ^^ x[6] ^^ x[7]

theorem onesCount_odd (x : Byte) : (onesCount x false % 2 == 1) = xorBits x := by
  rw [onesCount, Bool.toNat_false, Nat.add_zero, odd_length_filter]
  simp [List.range, List.range.loop, xorBits]

theorem onesCount_even (x : Byte) : (onesCount x false % 2 == 0) = !xorBits x := by
  rw [← onesCount_odd]
  rcases Nat.mod_two_eq_zero_or_one (onesCount x false) with h | h <;> simp [h]

theorem Parity.bit_eq (setting : Parity) (x : Byte) :
    setting.bit x =
      match setting, xorBits x with
      | .none, _ => []
      | .odd, x => [!x]
      | .even, x => [x]
      | .zero, _ => [false] := by
  cases setting <;> simp [Parity.bit, onesCount_odd, onesCount_even]

theorem PortSettings.character_eq (p : PortSettings) (x : Byte) :
    p.character x =
      [false, x[0], x[1], x[2], x[3], x[4], x[5], x[6], x[7]] ++ p.parity.bit x ++
        (if p.twoStopBits = true then [true, true] else [true]) := by
  unfold PortSettings.character
  cases p.twoStopBits <;> simp [List.range, List.range.loop, List.replicate]

/-! ## The placing of a byte -/

theorem Transmitter.placeNext_of_none {t : Transmitter} (h : t.state = .off ∨ t.holding ≠ none ∨ t.outgoing = []) :
    t.placeNext = t := by
  unfold Transmitter.placeNext
  split
  · rfl
  · next hn =>
    rw [not_or] at hn
    rcases h with h | h | h
    · exact absurd h hn.1
    · exact absurd (Option.isSome_iff_ne_none.mpr h) hn.2
    · rw [h]

theorem Transmitter.placeNext_of_some {t : Transmitter} {b : Byte} {rest : List Byte} (hs : t.state ≠ .off)
    (hh : t.holding = none) (ho : t.outgoing = b :: rest) :
    t.placeNext =
      if t.shift = none then { t with outgoing := rest, shift := some ⟨b, rest.isEmpty⟩, state := .sending }
      else { t with outgoing := rest, holding := some ⟨b, rest.isEmpty⟩ } := by
  unfold Transmitter.placeNext
  rw [if_neg (by simp [hs, hh])]
  simp only [ho, Transmitter.accept]
  cases t.shift <;> simp

/-! ## Reception -/

theorem Receiver.arrive_of_idle {r : Receiver} (h : r.state ≠ .receiving) (p : Parity) (x : Byte) (b stop : Bool) :
    r.arrive p x b stop = r := by simp [Receiver.arrive, h]

theorem parityMark_eq (p : Parity) (x : Byte) (b : Bool) :
    parityMark p x b =
      decide ((p = .odd ∧ onesCount x b % 2 = 0) ∨ (p = .even ∧ onesCount x b % 2 = 1)) := by
  cases p <;> simp [parityMark, Bool.beq_eq_decide_eq]

theorem Receiver.arrive_of_empty {r : Receiver} (h : r.state = .receiving) (hh : r.holding = none) (p : Parity)
    (x : Byte) (b stop : Bool) :
    r.arrive p x b stop =
      { state := if stop = true then .ready else .settling
        holding := some { data := x, parity := parityMark p x b, framing := !stop, overrun := false }
        shift := x } := by
  simp [Receiver.arrive, h, receiveShift_eq, Receiver.deliver, hh]

theorem Receiver.arrive_of_held {r : Receiver} (h : r.state = .receiving) {y : RxByte} (hh : r.holding = some y)
    (p : Parity) (x : Byte) (b stop : Bool) :
    r.arrive p x b stop =
      { state := if stop = true then .ready else .settling, holding := some { y with overrun := true }, shift := x } := by
  simp [Receiver.arrive, h, receiveShift_eq, Receiver.deliver, hh]

theorem State.onTx_self {f : Transmitter → Transmitter} (h : f (s.deck n).tx = (s.deck n).tx) : s.onTx n f = s :=
  State.onDeck_self (by rw [h])

theorem State.onRx_congr {f g : Receiver → Receiver} (h : f (s.deck n).rx = g (s.deck n).rx) :
    s.onRx n f = s.onRx n g :=
  State.onDeck_congr (by rw [h])

/-- Settles O25. -/
theorem portsMoveBytesAndCharacters : Obligations.PortsMoveBytesAndCharacters := by
  refine ⟨fun p t => ⟨fun h => by simp [PortSettings.line, h], fun b h => ?_⟩, fun s n hs => ?_, fun s hs => ?_,
    fun s n hs => ?_, fun s n x p stop hs => ?_⟩
  · simp only [PortSettings.line, h, PortSettings.character_eq, Parity.bit_eq]
    rfl
  · have hexec : exec (.txBytePlace (.deck n)) s = .next (s.onTx n Transmitter.placeNext) :=
      command_of_ready hs fun s => s.placeByte (.deck n)
    rw [hexec]
    exact ⟨fun h => by rw [State.onTx_self (Transmitter.placeNext_of_none h)],
      fun b rest h₁ h₂ h₃ => congrArg _ (State.onDeck_congr (by rw [Transmitter.placeNext_of_some h₁ h₂ h₃]))⟩
  · have hexec : exec (.txBytePlace .ep) s = .next { s with ep := { s.ep with tx := s.ep.tx.placeNext } } :=
      command_of_ready hs fun s => s.placeByte .ep
    rw [hexec]
    exact ⟨fun h => by rw [Transmitter.placeNext_of_none h],
      fun b rest h₁ h₂ h₃ => by rw [Transmitter.placeNext_of_some h₁ h₂ h₃]⟩
  · refine ⟨(command_of_ready hs fun s => s.onRx n Receiver.settled).trans ?_,
      (command_of_ready hs fun s => s.onRx n Receiver.fall).trans ?_,
      (command_of_ready hs fun s => s.onRx n Receiver.falseStart).trans ?_⟩
    · rw [State.onRx_congr (g := fun r => { r with state := if r.state = .settling then .ready else r.state })]
      unfold Receiver.settled; split <;> rfl
    · rw [State.onRx_congr (g := fun r => { r with state := if r.state = .ready then .receiving else r.state })]
      unfold Receiver.fall; split <;> rfl
    · rw [State.onRx_congr (g := fun r => { r with state := if r.state = .receiving then .ready else r.state })]
      unfold Receiver.falseStart; split <;> rfl
  · have hexec : exec (.byteArrival n x p stop) s =
        .next (s.onDeck n fun d => { d with rx := d.rx.arrive d.port.parity x p stop }) :=
      command_of_ready hs fun s => s.onDeck n fun d => { d with rx := d.rx.arrive d.port.parity x p stop }
    rw [hexec]
    refine ⟨fun h => ?_, fun h => ⟨fun hh => ?_, fun b hh => ?_⟩⟩
    · rw [State.onDeck_self]
      rw [Receiver.arrive_of_idle h]
    · refine congrArg _ (State.onDeck_congr ?_)
      rw [Receiver.arrive_of_empty h hh, parityMark_eq]
    · refine congrArg _ (State.onDeck_congr ?_)
      rw [Receiver.arrive_of_held h hh]

/-! ## The assembler -/

theorem exec_byteTake (hs : s.ready) (hj : (s.deck n).link.judged = none) :
    exec (.byteTake n) s = .next (s.takeByte n) := by
  have hdue : (Act.frame n).due s = false := by simp [Act.due, hj]
  refine (command_of_ready hs fun s => (s.actIfDue (.frame n)).takeByte n).trans ?_
  rw [State.actIfDue, if_neg (by simp [hdue])]

theorem RxByte.disqualified_iff (b : RxByte) (trust : Bool) :
    b.disqualified trust = true ↔ b.framing = true ∨ b.overrun = true ∨ (b.parity = true ∧ trust = true) := by
  simp [RxByte.disqualified, or_assoc]

theorem Link.into_iff (l : Link) (b : Byte) : l.into b = true ↔ l.assembly ≠ [] ∨ b = 0xC9 := by
  simp [Link.into, linkStart]

theorem takeByte_of_disqualified {b : RxByte} (hb : (s.deck n).rx.holding = some b)
    (hd : b.disqualified (s.deck n).port.parityTrust = true) :
    s.takeByte n =
      (s.onRx n fun r => { r with holding := none }).onLink n fun l => { l with assembly := [] } := by
  simp only [State.takeByte, hb, hd, if_true]

theorem takeByte_of_hunting {b : RxByte} (hb : (s.deck n).rx.holding = some b)
    (hd : b.disqualified (s.deck n).port.parityTrust = false) (hi : (s.deck n).link.into b.data = false) :
    s.takeByte n = s.onRx n fun r => { r with holding := none } := by
  simp only [State.takeByte, hb, hd, hi, Bool.false_eq_true, if_false]

theorem takeByte_of_into {b : RxByte} (hb : (s.deck n).rx.holding = some b)
    (hd : b.disqualified (s.deck n).port.parityTrust = false) (hi : (s.deck n).link.into b.data = true) :
    s.takeByte n =
      (if b.parity = true then (s.onRx n fun r => { r with holding := none }).offerDeck n 1 .linkParity 0
        else s.onRx n fun r => { r with holding := none }).onLink n
          fun l => l.assemble s.standard (l.assembly ++ [b.data]) s.F := by
  simp only [State.takeByte, hb, hd, hi, Bool.false_eq_true, if_false, if_true]
  split <;> rfl

theorem State.onLink_congr {f g : Link → Link} (h : f (s.deck n).link = g (s.deck n).link) :
    s.onLink n f = s.onLink n g :=
  State.onDeck_congr (by rw [h])

/-- Settles O27. -/
theorem byteTakeAssemblesFrames : Obligations.ByteTakeAssemblesFrames := by
  intro s n a hs hj ha
  rw [exec_byteTake hs hj]
  refine ⟨fun hh => ?_, fun b hb => ⟨fun hd => ?_, fun hf ho hp hn hx => ?_, fun hf ho hp hi u hu => ?_⟩⟩
  · simp only [State.takeByte, hh]
  · rw [takeByte_of_disqualified hb ((RxByte.disqualified_iff _ _).mpr hd)]
  · have hd : b.disqualified (s.deck n).port.parityTrust = false := by
      rcases hp with hp | hp <;> simp [RxByte.disqualified, hf, ho, hp]
    rw [takeByte_of_hunting hb hd (Bool.eq_false_iff.mpr fun h => ((Link.into_iff _ _).mp h).elim (fun h => h (ha.trans hn)) hx)]
  · have hd : b.disqualified (s.deck n).port.parityTrust = false := by
      rcases hp with hp | hp <;> simp [RxByte.disqualified, hf, ho, hp]
    have hua : (u.deck n).link.assembly = a := by
      rw [hu, ← ha]
      split <;> simp [State.offerDeck]
    rw [takeByte_of_into hb hd ((Link.into_iff _ _).mpr (by rwa [ha])), ← hu]
    refine ⟨fun h₁ h₂ => ?_, fun h₁ => ?_, fun h₁ h₂ => ?_⟩
    · refine congrArg _ (State.onLink_congr ?_)
      simp only [hua, Link.assemble, h₁, h₂, Bool.false_eq_true, if_false]
    · refine congrArg _ (State.onLink_congr ?_)
      simp only [hua, Link.assemble, h₁, if_true]
    · refine congrArg _ (State.onLink_congr ?_)
      simp only [hua, Link.assemble, h₁, h₂, Bool.false_eq_true, if_false, if_true]

/-! ## Frames judged -/

theorem byteAt_append_of_le {l r : List Byte} {i k : Nat} (hk : 0 < k) (h : k ≤ byteAt l i) :
    byteAt (l ++ r) i = byteAt l i := by
  have hi : i < l.length := by
    by_contra hi
    rw [byteAt, List.getD_eq_default _ _ (by omega)] at h
    simp at h
    omega
  rw [byteAt, byteAt, List.getD_append _ _ _ _ hi]

/-- The judgement of a completed frame from the reply its fields give. -/
def judged (tag : BitVec 7) (r : Option Reply) : JudgedFrame := r.elim .garbled (.valid tag)

theorem judgeFrame_eq (std : Standard) (body : List Byte) (x : Byte) :
    judgeFrame std (linkStart :: (body ++ [x])) =
      if x = checkByte body ∧ byteAt (body ++ [x]) 0 < 128 then
        judged (BitVec.ofNat 7 (byteAt (body ++ [x]) 0)) (replyOf std (byteAt (body ++ [x]) 1) (body.drop 3))
      else .garbled := by
  have hlast : (linkStart :: (body ++ [x])).getLastD 0 = x := by
    rw [← List.cons_append, List.getLastD_concat]
  simp only [judgeFrame, hlast, List.tail_cons, List.dropLast_concat]
  refine if_congr Iff.rfl ?_ rfl
  show _ = judged _ (replyOf std (byteAt (linkStart :: (body ++ [x])) 2) (body.drop 3))
  cases replyOf std (byteAt (linkStart :: (body ++ [x])) 2) (body.drop 3) <;> rfl

/-- The frame of a reply, its LEN and CHECK right (R36). -/
def replyFrame (tag : BitVec 7) (code : Byte) (data : List Byte) : List Byte :=
  linkStart :: (([tag.zeroExtend 8, code, byte data.length] ++ data) ++
    [checkByte ([tag.zeroExtend 8, code, byte data.length] ++ data)])

theorem judgeFrame_replyFrame (std : Standard) (tag : BitVec 7) (code : Byte) (data : List Byte) :
    judgeFrame std (replyFrame tag code data) = judged tag (replyOf std code.toNat data) := by
  have htag : (tag.zeroExtend 8).toNat = tag.toNat := by
    rw [BitVec.toNat_setWidth, Nat.mod_eq_of_lt (by omega)]
  rw [replyFrame, judgeFrame_eq, if_pos]
  · simp only [byteAt, List.cons_append, List.nil_append, List.drop_succ_cons, List.drop_zero, List.getD_cons_zero,
      List.getD_cons_succ, htag, BitVec.ofNat_toNat, BitVec.setWidth_eq]
  · refine ⟨rfl, ?_⟩
    simp only [byteAt, List.cons_append, List.getD_cons_zero, htag]
    exact tag.isLt

/-- The kind a POSITION's flags name (R1). -/
theorem tapeKind_eq (std : Standard) (df : Bool) :
    tapeKind std df = if std = .s625 then .k625 else if df = true then .df525 else .nd525 := by
  cases std <;> simp [tapeKind]

theorem replyOf_of_other (std : Standard) {code : Byte} {data : List Byte} (h₁ : ¬(code = 0x40 ∧ data.length = 0))
    (h₂ : ¬(code = 0x41 ∧ data.length = 1)) (h₃ : ¬(code = 0x42 ∧ data.length = 0))
    (h₄ : ¬(code = 0x50 ∧ data.length = 2)) (h₅ : ¬(code = 0x51 ∧ data.length = 5)) :
    replyOf std code.toNat data = none := by
  have code_eq {x : Byte} (h : code.toNat = x.toNat) : code = x := BitVec.eq_of_toNat_eq h
  unfold replyOf
  split
  · next h h' => exact absurd ⟨code_eq h, h'⟩ h₁
  · next h h' => exact absurd ⟨code_eq h, h'⟩ h₂
  · next h h' => exact absurd ⟨code_eq h, h'⟩ h₃
  · next h h' => exact absurd ⟨code_eq h, h'⟩ h₄
  · next h h' => exact absurd ⟨code_eq h, h'⟩ h₅
  · rfl

theorem RefusalReason.ofCode_code (r : RefusalReason) : RefusalReason.ofCode? r.code = some r := by cases r <;> rfl

theorem TransportMode.ofCode_code (m : TransportMode) : TransportMode.ofCode? m.code = some m := by cases m <;> rfl

theorem RefusalReason.ofCode_none {y : Nat} (h : y = 0 ∨ 5 < y) : RefusalReason.ofCode? y = none := by
  unfold RefusalReason.ofCode?
  split <;> [omega; omega; omega; omega; omega; rfl]

theorem TransportMode.ofCode_none {y : Nat} (h : 6 < y) : TransportMode.ofCode? y = none := by
  unfold TransportMode.ofCode?
  split <;> [omega; omega; omega; omega; omega; omega; omega; rfl]

theorem normalise_of_range {k : Kind} {h m s f : Nat} (h₁ : h < 24) (h₂ : m < 60) (h₃ : s < 60) (h₄ : f < k.rate) :
    normalise k ⟨h, m, s, f⟩ =
      some ⟨h, m, s, if k = .df525 ∧ s = 0 ∧ f < 2 ∧ m % 10 ≠ 0 then 2 else f⟩ := by
  have hr : Addr.inRange k ⟨h, m, s, f⟩ = true := by simp [Addr.inRange, h₁, h₂, h₃, h₄]
  have hd : (k == Kind.df525 && Addr.dropped ⟨h, m, s, f⟩) = true ↔ k = .df525 ∧ s = 0 ∧ f < 2 ∧ m % 10 ≠ 0 := by
    simp [Addr.dropped]
    tauto
  simp only [normalise, hr, if_true, hd]
  split <;> rfl

theorem normalise_of_malformed {k : Kind} {h m s f : Nat} (hx : 24 ≤ h ∨ 60 ≤ m ∨ 60 ≤ s ∨ k.rate ≤ f) :
    normalise k ⟨h, m, s, f⟩ = none := by
  have hr : Addr.inRange k ⟨h, m, s, f⟩ = false := by
    simp [Addr.inRange]
    omega
  simp [normalise, hr]

/-- A POSITION whose valid flag is clear. -/
theorem replyOf_position_none (std : Standard) {h m s f flags : Byte} (hv : flags[2] = false) :
    replyOf std 0x51 [h, m, s, f, flags] = some (.position none) :=
  if_neg (by rw [show flags[2] = flags.getLsbD 2 from rfl] at hv; simpa using hv)

/-- A POSITION whose valid flag is set. -/
theorem replyOf_position (std : Standard) {h m s f flags : Byte} (hv : flags[2] = true) :
    replyOf std 0x51 [h, m, s, f, flags] =
      (normalise (tapeKind std (flags.getLsbD 0)) ⟨h.toNat, m.toNat, s.toNat, f.toNat⟩).map fun a =>
        .position (some ⟨frameOf (tapeKind std (flags.getLsbD 0)) a, tapeKind std (flags.getLsbD 0),
          if flags.getLsbD 1 then .second else .first⟩) :=
  if_pos hv

/-- Settles O28. -/
theorem framesAreJudgedByTheirFields : Obligations.FramesAreJudgedByTheirFields := by
  intro std tag body x
  refine ⟨fun hx => by simp [judgeFrame_eq, hx], fun h => ?_, fun frame hf => ?_⟩
  · rw [judgeFrame_eq, byteAt_append_of_le (k := 128) (by decide) h, if_neg]
    omega
  have judge (code : Byte) (data : List Byte) : judgeFrame std (frame code data) =
      judged tag (replyOf std code.toNat data) := by
    rw [hf]
    exact judgeFrame_replyFrame std tag code data
  refine ⟨fun code data h₁ h₂ h₃ h₄ h₅ => ?_, judge 0x40 [], judge 0x42 [], fun r => ?_, fun y hy => ?_, fun m f => ?_,
    fun y f hy => ?_, fun h m s f flags => ⟨fun hv => ?_, fun hv k hk => ⟨fun hx => ?_, fun h₁ h₂ h₃ h₄ => ?_⟩⟩⟩
  · rw [judge, replyOf_of_other std h₁ h₂ h₃ h₄ h₅]
    rfl
  · have hr : replyOf std 0x41 [byte r.code] = some (.refused r) := by cases r <;> rfl
    exact (judge 0x41 _).trans (congrArg (judged tag) hr)
  · have hr : replyOf std 0x41 [y] = none :=
      congrArg (Option.map Reply.refused) (RefusalReason.ofCode_none (y := y.toNat) (by bv_omega))
    exact (judge 0x41 _).trans (congrArg (judged tag) hr)
  · have hr : replyOf std 0x50 [byte m.code, f] = some (.state (.ofFlags m f)) := by cases m <;> rfl
    exact (judge 0x50 _).trans (congrArg (judged tag) hr)
  · have hr : replyOf std 0x50 [y, f] = none :=
      congrArg (Option.map _) (TransportMode.ofCode_none (y := y.toNat) (by bv_omega))
    exact (judge 0x50 _).trans (congrArg (judged tag) hr)
  · exact (judge 0x51 _).trans (congrArg (judged tag) (replyOf_position_none std hv))
  · have hr := replyOf_position std (h := h) (m := m) (s := s) (f := f) hv
    rw [tapeKind_eq, ← show flags[0] = flags.getLsbD 0 from rfl, ← hk, normalise_of_malformed hx] at hr
    exact (judge 0x51 _).trans (congrArg (judged tag) hr)
  · have hs : s = 0 ↔ s.toNat = 0 := ⟨fun h => by rw [h]; rfl, fun h => BitVec.eq_of_toNat_eq h⟩
    have hr := replyOf_position std (h := h) (m := m) (s := s) (f := f) hv
    rw [tapeKind_eq, ← show flags[0] = flags.getLsbD 0 from rfl, ← hk, normalise_of_range h₁ h₂ h₃ h₄] at hr
    simp only [hs]
    exact (judge 0x51 _).trans (congrArg (judged tag) hr)

end Sys2Proof.Machine
end

section
/-!
PROOFS. The arithmetic of addresses, transition positions and contents (R2 to R4, R150 to R160).
-/

namespace Sys2Proof.Machine

/-! ## Addresses and frame numbers -/

theorem Addr.inRange_iff {k : Kind} {a : Addr} :
    a.inRange k = true ↔ a.hh < 24 ∧ a.mm < 60 ∧ a.ss < 60 ∧ a.ff < k.rate := by
  simp [Addr.inRange, and_assoc]

theorem Kind.rate_cases (k : Kind) : k.rate = 30 ∨ k.rate = 25 := by cases k <;> decide

/-- The numbers counted before an address when none is dropped (R3). -/
def Addr.counted (rate : Nat) (a : Addr) : Nat := ((a.hh * 60 + a.mm) * 60 + a.ss) * rate + a.ff

theorem splitFrames_inRange {k : Kind} {n : Nat} (h : n < 86400 * k.rate) :
    (splitFrames k.rate n).inRange k = true := by
  rw [Addr.inRange_iff]
  simp only [splitFrames]
  rcases k.rate_cases with hr | hr <;> rw [hr] at h ⊢ <;> omega

theorem counted_splitFrames (k : Kind) (n : Nat) : (splitFrames k.rate n).counted k.rate = n := by
  simp only [Addr.counted, splitFrames]
  rcases k.rate_cases with hr | hr <;> rw [hr] <;> omega

theorem splitFrames_counted {k : Kind} {a : Addr} (h : a.inRange k = true) : splitFrames k.rate (a.counted k.rate) = a := by
  obtain ⟨h₁, h₂, h₃, h₄⟩ := Addr.inRange_iff.mp h
  obtain ⟨hh, mm, ss, ff⟩ := a
  simp only [Addr.counted, splitFrames, Addr.mk.injEq] at *
  rcases k.rate_cases with hr | hr <;> rw [hr] at h₄ ⊢ <;> omega

theorem counted_lt {k : Kind} {a : Addr} (h : a.inRange k = true) : a.counted k.rate < 86400 * k.rate := by
  obtain ⟨h₁, h₂, h₃, h₄⟩ := Addr.inRange_iff.mp h
  simp only [Addr.counted]
  rcases k.rate_cases with hr | hr <;> rw [hr] at h₄ ⊢ <;> omega

/-- The numbers dropped before minute `m` of the day (R3). -/
def droppedBefore (m : Nat) : Nat := 2 * (m - m / 10)

/-- A count that falls on no dropped number: number `f` of minute `m`, numbers 0 and 1 only in the first of ten. -/
def Undropped (m f : Nat) : Prop := f < 1800 ∧ (m % 10 = 0 ∨ 2 ≤ f)

/-- The dropped numbers restored to the frame number of an undropped count (R4). -/
theorem restoreDropped_of_undropped {m f : Nat} (h : Undropped m f) :
    restoreDropped (1800 * m + f - droppedBefore m) = 1800 * m + f := by
  obtain ⟨hf, hm⟩ := h
  have hd : m = 10 * (m / 10) + m % 10 := (Nat.div_add_mod m 10).symm
  have hlt : m % 10 < 10 := Nat.mod_lt _ (by decide)
  simp only [droppedBefore]
  generalize m / 10 = d at *
  generalize m % 10 = q at *
  subst hd
  have hn : 1800 * (10 * d + q) + f - 2 * (10 * d + q - d) = 17982 * d + (1798 * q + f) := by omega
  rw [hn]
  have h₁ : (17982 * d + (1798 * q + f)) / 17982 = d := by omega
  have h₂ : (17982 * d + (1798 * q + f)) % 17982 = 1798 * q + f := by omega
  simp only [restoreDropped, h₁, h₂]
  by_cases hs : 1798 * q + f < 2
  · rw [if_pos hs]
    omega
  · rw [if_neg hs]
    omega

/-- Every frame number is that of an undropped count. -/
theorem exists_undropped (n : Nat) : ∃ m f, Undropped m f ∧ n = 1800 * m + f - droppedBefore m := by
  have hlt : n % 17982 < 17982 := Nat.mod_lt _ (by decide)
  have hn : n = 17982 * (n / 17982) + n % 17982 := (Nat.div_add_mod n 17982).symm
  generalize n / 17982 = d at *
  generalize n % 17982 = r at *
  by_cases h : r < 2
  · refine ⟨10 * d, r, ⟨by omega, .inl (by omega)⟩, ?_⟩
    simp only [droppedBefore]
    omega
  · refine ⟨10 * d + (r - 2) / 1798, (r - 2) % 1798 + 2, ⟨by omega, .inr (by omega)⟩, ?_⟩
    simp only [droppedBefore]
    omega

theorem valid_df_iff {a : Addr} :
    a.valid .df525 = true ↔ a.inRange .df525 = true ∧ (a.ff < 2 → a.ss = 0 → a.mm % 10 = 0) := by
  simp only [Addr.valid, Addr.dropped, Bool.and_eq_true, Bool.not_eq_true', Bool.and_eq_false_iff,
    decide_eq_false_iff_not, beq_eq_false_iff_ne, bne_eq_false_iff_eq]
  refine and_congr_right fun _ => ?_
  omega

theorem frameOf_df (a : Addr) : frameOf .df525 a = a.counted 30 - droppedBefore (60 * a.hh + a.mm) := rfl

/-- An address in range as a minute of the day and a number within it. -/
theorem counted_eq (a : Addr) : a.counted 30 = 1800 * (60 * a.hh + a.mm) + (30 * a.ss + a.ff) := by
  simp only [Addr.counted]
  omega

theorem undropped_of_valid {a : Addr} (h : a.valid .df525 = true) :
    Undropped (60 * a.hh + a.mm) (30 * a.ss + a.ff) := by
  obtain ⟨hr, hd⟩ := valid_df_iff.mp h
  obtain ⟨h₁, h₂, h₃, h₄⟩ := Addr.inRange_iff.mp hr
  simp only [Kind.rate] at h₄
  exact ⟨by omega, by omega⟩

theorem addrOf_frameOf_df {a : Addr} (h : a.valid .df525 = true) :
    frameOf .df525 a < Kind.day .df525 ∧ addrOf .df525 (frameOf .df525 a) = a := by
  have hr := (valid_df_iff.mp h).1
  refine ⟨?_, ?_⟩
  · obtain ⟨h₁, h₂, h₃, h₄⟩ := Addr.inRange_iff.mp hr
    rw [frameOf_df, counted_eq]
    simp only [Kind.rate, droppedBefore, Kind.day] at *
    omega
  · show splitFrames 30 (restoreDropped (frameOf .df525 a)) = a
    rw [frameOf_df, counted_eq, restoreDropped_of_undropped (undropped_of_valid h), ← counted_eq]
    exact splitFrames_counted hr

theorem frameOf_addrOf_df {n : Nat} (h : n < Kind.day .df525) :
    (addrOf .df525 n).valid .df525 = true ∧ frameOf .df525 (addrOf .df525 n) = n := by
  obtain ⟨m, f, hu, hn⟩ := exists_undropped n
  have ha : addrOf .df525 n = splitFrames 30 (1800 * m + f) := by
    rw [hn]
    exact congrArg (splitFrames 30) (restoreDropped_of_undropped hu)
  have hm : m < 1440 := by
    by_contra hm
    simp only [Kind.day, droppedBefore] at h hn
    omega
  have hmin : 60 * (splitFrames 30 (1800 * m + f)).hh + (splitFrames 30 (1800 * m + f)).mm = m := by
    obtain ⟨hf, -⟩ := hu
    simp only [splitFrames]
    omega
  rw [ha]
  refine ⟨valid_df_iff.mpr ⟨splitFrames_inRange (k := .df525) ?_, fun h₁ h₂ => ?_⟩, ?_⟩
  · obtain ⟨hf, -⟩ := hu
    simp only [Kind.rate]
    omega
  · obtain ⟨hf, hd⟩ := hu
    simp only [splitFrames] at *
    omega
  · rw [frameOf_df, hmin]
    exact (congrArg (· - _) (counted_splitFrames .df525 _)).trans hn.symm

theorem addresses_agree_of_counted {k : Kind} (hv : ∀ a, Addr.valid k a = a.inRange k)
    (hf : ∀ a, frameOf k a = a.counted k.rate) (ha : ∀ n, addrOf k n = splitFrames k.rate n)
    (hd : k.day = 86400 * k.rate) :
    (∀ n, n < k.day → (addrOf k n).valid k = true ∧ frameOf k (addrOf k n) = n) ∧
      (∀ a : Addr, a.valid k = true → frameOf k a < k.day ∧ addrOf k (frameOf k a) = a) := by
  refine ⟨fun n hn => ?_, fun a h => ?_⟩
  · rw [hv, hf, ha]
    exact ⟨splitFrames_inRange (hd ▸ hn), counted_splitFrames k n⟩
  · rw [hv] at h
    rw [hf, ha, hd]
    exact ⟨counted_lt h, splitFrames_counted h⟩

/-- Settles O59. -/
theorem addressesAndFramesAgree : Obligations.AddressesAndFramesAgree := by
  intro k
  cases k with
  | nd525 => exact addresses_agree_of_counted (fun _ => rfl) (fun _ => rfl) (fun _ => rfl) rfl
  | df525 => exact ⟨fun _ => frameOf_addrOf_df, fun _ => addrOf_frameOf_df⟩
  | k625 => exact addresses_agree_of_counted (fun _ => rfl) (fun _ => rfl) (fun _ => rfl) rfl

/-! ## Transition positions -/

/-- 1023 x / d rounded is at most 1023 for x up to d, and 1023 at d. -/
theorem rounded_le {x d : Nat} (hd : 0 < d) (h : x ≤ d) : (1023 * x + d / 2) / d ≤ 1023 := by
  rw [← Nat.lt_succ_iff, Nat.div_lt_iff_lt_mul hd]
  omega

theorem rounded_full {d : Nat} (hd : 0 < d) : (1023 * d + d / 2) / d = 1023 := by
  rw [Nat.mul_comm, Nat.mul_add_div hd, Nat.div_eq_of_lt (by omega)]

theorem rounded_zero {d : Nat} (hd : 0 < d) : (1023 * 0 + d / 2) / d = 0 := by
  rw [Nat.mul_zero, Nat.zero_add, Nat.div_eq_of_lt (by omega)]

theorem rounded_mono {x y : Nat} (d : Nat) (h : x ≤ y) : (1023 * x + d / 2) / d ≤ (1023 * y + d / 2) / d :=
  Nat.div_le_div_right (by omega)

/-- The part of a transition done after `k` of `n` fields, as a numerator (R156). -/
def progressOf (curve : Curve) (n k : Nat) : Nat :=
  match curve with
  | .linear => k
  | .sCurve => k ^ 2 * (3 * n - 2 * k)

/-- The denominator of `progressOf`. -/
def progressFull (curve : Curve) (n : Nat) : Nat :=
  match curve with
  | .linear => n
  | .sCurve => n ^ 3

theorem transitionPosition_eq (curve : Curve) (n k : Nat) :
    transitionPosition curve n k =
      (1023 * progressOf curve n k + progressFull curve n / 2) / progressFull curve n := by
  cases curve with
  | linear => rfl
  | sCurve => simp only [transitionPosition, progressOf, progressFull, Nat.mul_assoc]

theorem progressFull_pos {curve : Curve} {n : Nat} (h : 0 < n) : 0 < progressFull curve n := by
  cases curve with
  | linear => exact h
  | sCurve => exact Nat.pow_pos h

theorem progressOf_zero (curve : Curve) (n : Nat) : progressOf curve n 0 = 0 := by
  cases curve <;> simp [progressOf]

theorem progressOf_full (curve : Curve) (n : Nat) : progressOf curve n n = progressFull curve n := by
  cases curve with
  | linear => rfl
  | sCurve =>
    simp only [progressOf, progressFull, show 3 * n - 2 * n = n by omega]
    ring

/-- The S curve never falls: f(k + 1) − f(k) = 3k + 1 + 3d(2k + 1) where n = k + 1 + d. -/
theorem progressOf_mono (curve : Curve) {n k : Nat} (h : k < n) : progressOf curve n k ≤ progressOf curve n (k + 1) := by
  cases curve with
  | linear => exact Nat.le_succ k
  | sCurve =>
    obtain ⟨d, rfl⟩ := Nat.exists_eq_add_of_lt h
    simp only [progressOf]
    rw [show 3 * (k + d + 1) - 2 * k = k + 3 * d + 3 by omega,
      show 3 * (k + d + 1) - 2 * (k + 1) = k + 3 * d + 1 by omega]
    nlinarith

theorem progressOf_le (curve : Curve) {n k : Nat} (h : k ≤ n) : progressOf curve n k ≤ progressFull curve n := by
  induction h using Nat.decreasingInduction with
  | self => exact (progressOf_full curve n).le
  | of_succ k hk ih => exact (progressOf_mono curve hk).trans ih

/-! ## Contents and field frames -/

/-- A CHECK makes the sum up to 255. -/
theorem sum_checkByte (body : List Byte) : (body ++ [checkByte body]).foldl (· + ·) 0 = 255 := by
  rw [List.foldl_append]
  simp only [List.foldl_cons, List.foldl_nil, checkByte]
  exact BitVec.add_not_self _

/-- From F_T on, two sources follow the transition. -/
theorem content_of_started {g : GeneratorEvent} {f : FieldCount} (h₂ : g.twoSources = true)
    (h₀ : 0 ≤ fieldDiff f g.fT) :
    g.content f =
      if g.transition = .cut then g.after
      else if fieldDiff f g.fT < g.n then
        ⟨g.programSource, g.presetSource, if g.transition = .dissolve then .mix else .wipe, g.pattern,
          transitionPosition g.curve g.n (fieldDiff f g.fT).toNat⟩
      else g.after := by
  simp only [GeneratorEvent.content, h₂, Int.not_lt.mpr h₀, Bool.not_true, Bool.false_eq_true, or_self, if_false]
  cases g.transition <;> simp

/-- Settles O60. -/
theorem transitionsContentAndTallies : Obligations.TransitionsContentAndTallies := by
  refine ⟨fun n k hn hk => ⟨?_, rfl⟩, fun curve n k hn hk => ?_, fun g f k hk => ⟨fun h => ?_, fun h₂ h₀ => ⟨fun h => ?_,
    fun h => ⟨fun ht => ?_, fun ht => ?_⟩⟩⟩, fun sequence c => ?_, fun s l d => ⟨fun h => ?_,
    fun h => ?_⟩⟩
  · simp [transitionPosition]
  · have hd := progressFull_pos (curve := curve) hn
    simp only [transitionPosition_eq, progressOf_zero, progressOf_full]
    exact ⟨rounded_zero hd, rounded_le hd (progressOf_le curve hk.le), rounded_mono _ (progressOf_mono curve hk),
      rounded_full hd⟩
  · have hc : (!g.twoSources) = true ∨ fieldDiff f g.fT < 0 := by simpa [← hk] using h
    simp only [GeneratorEvent.content, if_pos hc]
    rfl
  · rw [content_of_started h₂ (hk ▸ h₀), ← hk]
    rcases h with h | h
    · simp [h, GeneratorEvent.after]
    · cases g.transition <;> simp [GeneratorEvent.after, Int.not_lt.mpr h]
  · rw [content_of_started h₂ (hk ▸ h₀), ← hk]
    simp [ht, h]
  · rw [content_of_started h₂ (hk ▸ h₀), ← hk]
    simp [ht, h]
  · refine ⟨checkByte ([sequence, byte c.program, byte c.preset, byte c.kind.code, byte c.pattern] ++ half c.position),
      ?_, sum_checkByte _⟩
    cases hkind : c.kind <;> simp [fieldFrame, hkind, byte, half, FrameKind.code]
  · simp [State.outputActive, h]
  · cases hkind : s.generator.content.kind <;> simp [State.outputActive, h, State.programTally, hkind]

end Sys2Proof.Machine
end

section
/-!
PROOFS. What the settling of the command lists and arbiters leaves alone.
-/

namespace Sys2Proof.Machine

variable {s t u : State} {n m : Deck}

/-! ## Changes apart from what the settling leaves -/

/-- What the settling of the decks leaves of a deck. -/
def DeckUnit.spared (d : DeckUnit) :
    Tracker × Receiver × Option (List Byte) × LinkState × Nat × List Byte × Option DeckState × Option Nat × Bool ×
      Option Addr :=
  (d.tracker, d.rx, d.statusWritten, d.link.state, d.link.failures, d.link.assembly, d.link.lastState, d.link.seekTimer,
    d.link.downDue, d.link.seek.map PendingSeek.target)

/-- The mark unit, the log, the GPI unit and what is spared of each deck are the same. -/
structure Spares (s t : State) : Prop where
  marks : t.marks = s.marks
  log : t.log = s.log
  gpi : t.gpi = s.gpi
  decks : ∀ n, (t.deck n).spared = (s.deck n).spared

theorem Spares.refl (s : State) : Spares s s := ⟨rfl, rfl, rfl, fun _ => rfl⟩

theorem Spares.trans (h : Spares s t) (k : Spares t u) : Spares s u :=
  ⟨k.marks.trans h.marks, k.log.trans h.log, k.gpi.trans h.gpi, fun n => (k.decks n).trans (h.decks n)⟩

theorem Spares.ite {c : Prop} [Decidable c] (h : Spares s t) (k : Spares s u) : Spares s (if c then t else u) := by
  split <;> assumption

theorem Spares.foldl {α : Type} (h : Spares s t) {f : State → α → State} (hf : ∀ x u, Spares s u → Spares s (f u x))
    (l : List α) : Spares s (l.foldl f t) := by
  induction l generalizing t with
  | nil => exact h
  | cons x l ih => exact ih (hf x t h)

theorem Spares.eachDeck (h : Spares s t) {f : Deck → State → State} (hf : ∀ n u, Spares s u → Spares s (f n u)) :
    Spares s (t.eachDeck f) := by
  rw [eachDeck_eq_foldl]
  exact h.foldl hf _

theorem Beside.spares (h : Beside s t) : Spares s t :=
  ⟨h.marks, h.log, h.gpi, fun n => by rw [h.decks n]⟩

theorem Spares.onDeck (h : Spares s t) (n : Deck) {f : DeckUnit → DeckUnit} (hf : ∀ d, (f d).spared = d.spared) :
    Spares s (t.onDeck n f) := by
  refine ⟨h.marks, h.log, h.gpi, fun m => ?_⟩
  by_cases hm : m = n
  · subst hm
    rw [State.onDeck_deck_self, hf]
    exact h.decks m
  · rw [State.onDeck_deck_ne _ _ hm]
    exact h.decks m

theorem Spares.onList (h : Spares s t) (n : Deck) (f : CommandList → CommandList) : Spares s (t.onList n f) :=
  h.onDeck n fun _ => rfl

theorem Spares.onArbiter (h : Spares s t) (n : Deck) (f : Arbiter → Arbiter) : Spares s (t.onArbiter n f) :=
  h.onDeck n fun _ => rfl

theorem Spares.onChase (h : Spares s t) (n : Deck) (f : Chase → Chase) : Spares s (t.onChase n f) :=
  h.onDeck n fun _ => rfl

theorem Link.dropChase_target (l : Link) : l.dropChase.seek.map PendingSeek.target = l.seek.map PendingSeek.target := by
  cases h : l.seek with
  | none => simp [Link.dropChase, h]
  | some p => by_cases hp : p.requester = .chase <;> simp [Link.dropChase, h, hp]

theorem Spares.dropChase (h : Spares s t) (n : Deck) : Spares s (t.onLink n Link.dropChase) :=
  h.onDeck n fun d => by simp only [DeckUnit.spared, Link.dropChase_target]; rfl

theorem Spares.onIface (h : Spares s t) (f : Interface → Interface) : Spares s (t.onIface f) :=
  h.trans ⟨rfl, rfl, rfl, fun _ => rfl⟩

theorem Spares.onEngine (h : Spares s t) (f : Engine → Engine) : Spares s (t.onEngine f) :=
  h.trans ⟨rfl, rfl, rfl, fun _ => rfl⟩

theorem Spares.onGenerator (h : Spares s t) (f : Generator → Generator) : Spares s (t.onGenerator f) :=
  h.trans ⟨rfl, rfl, rfl, fun _ => rfl⟩

theorem Spares.offerDeck (h : Spares s t) (n : Deck) (v : Nat) (c : FaultCode) (o : Nat) :
    Spares s (t.offerDeck n v c o) := h.onDeck n fun _ => rfl

theorem Spares.raise (h : Spares s t) (c : Cause) : Spares s (t.raise c) := h.onIface _

/-! ## Suite memory -/

theorem Beside.readMem (s : State) (a k : Nat) : Beside s (s.readMem a k).2 := by
  refine ⟨(Aside.refl s).readMem a k, fun n => ?_⟩
  unfold State.readMem
  split
  · rfl
  · exact limitFault_deck s a n

theorem Beside.writeMem (s : State) (a : Nat) (bs : List Byte) : Beside s (s.writeMem a bs).2 :=
  ⟨(Aside.refl s).writeMem a bs, writeMem_deck s a bs⟩

theorem Spares.of_readMem (h : Spares s t) {a k : Nat} {x : Option (List Byte)} (e : t.readMem a k = (x, u)) :
    Spares s u := by
  have hr := Beside.readMem t a k
  rw [e] at hr
  exact h.trans hr.spares

theorem Spares.of_writeMem (h : Spares s t) {a : Nat} {bs : List Byte} {b : Bool} (e : t.writeMem a bs = (b, u)) :
    Spares s u := by
  have hw := Beside.writeMem t a bs
  rw [e] at hw
  exact h.trans hw.spares

theorem Spares.of_writeAll (h : Spares s t) {ws : List (Nat × List Byte)} {b : Bool} (e : t.writeAll ws = (b, u)) :
    Spares s u := by
  have hw := Beside.writeAll t ws
  rw [e] at hw
  exact h.trans hw.spares

/-! ## Chases and the abort -/

theorem Spares.moveChase (h : Spares s t) (n : Deck) (f : Chase → Chase) : Spares s (t.moveChase n f) :=
  ((h.onChase n f).raise _).ite (h.onChase n f)

theorem Spares.emptyTrim (h : Spares s t) (n : Deck) : Spares s (t.emptyTrim n) := h.onArbiter n _

theorem Spares.startChase (h : Spares s t) (n : Deck) (x : Starter) (m : Master) (o : Int) (g : Option (Nat × Kind)) :
    Spares s (t.startChase n x m o g) := (((h.moveChase n _).onChase n _).dropChase n).emptyTrim n

theorem Spares.endChase (h : Spares s t) (n : Deck) : Spares s (t.endChase n) :=
  h.ite (((h.moveChase n _).dropChase n).emptyTrim n)

theorem Spares.offerEngine (h : Spares s t) (n : Deck) (r : EngineRequest) : Spares s (t.offerEngine n r).2 := by
  unfold State.offerEngine
  split
  · exact h.onArbiter n fun a => { a with engineQueue := a.engineQueue ++ [r] }
  · exact h.offerDeck n 2 .queueFull 0

theorem Spares.eachClaimed (h : Spares s t) {f : State → Deck → State} (hf : ∀ n u, Spares s u → Spares s (f u n)) :
    Spares s (t.eachClaimed f) := h.foldl hf _

theorem Spares.abortPunchOut (h : Spares s t) : Spares s t.abortPunchOut := by
  unfold State.abortPunchOut
  split
  · exact h
  · exact ((h.offerEngine _ _).onEngine _).ite h

theorem Spares.abandonPunches (h : Spares s t) : Spares s t.abandonPunches :=
  (h.onEngine _).trans (Beside.abandonPunches t).spares

theorem Spares.abort (h : Spares s t) (code : FaultCode) : Spares s (t.abort code) := by
  unfold State.abort
  split
  · extract_lets a b c d e f g i
    have ha : Spares s a := h.onEngine _
    have hb : Spares s b := ha.eachClaimed fun n _ hu => hu.onArbiter n _
    clear_value b
    have hd : Spares s d := hb.abandonPunches.abortPunchOut
    clear_value d
    have he : Spares s e := hd.eachClaimed fun n _ hu => hu.offerEngine n _
    clear_value e
    have hg : Spares s g := (he.onEngine _).eachClaimed fun n _ hu => hu.endChase n
    clear_value g
    exact (hg.onGenerator _).onEngine _
  · exact h

/-! ## The command list -/

theorem Spares.completeRecord (h : Spares s t) (n : Deck) (r : HeldRecord) (x : HostResult) :
    Spares s (t.completeRecord n r x) := by
  unfold State.completeRecord
  refine Spares.onList ?_ n _
  split
  · next e => exact (h.of_writeAll e).raise _
  · next e => exact h.of_writeAll e

theorem Spares.completeOffered (h : Spares s t) (n : Deck) (r : HeldRecord) (x : HostResult) (v : Nat) :
    Spares s (t.completeOffered n r x v) := (h.offerDeck n _ _ _).completeRecord n r x

theorem Spares.takeSlot (h : Spares s t) (n : Deck) (a : Nat) : Spares s (t.takeSlot n a).2 := by
  unfold State.takeSlot
  split
  · next e => exact h.of_readMem e
  · next e =>
    have h₁ := h.of_readMem e
    split
    · unfold State.refuseRecord
      extract_lets
      split
      · next e => exact h₁.of_writeAll e
      · next e =>
        exact (((h₁.of_writeAll e).offerDeck n _ _ _).raise _).onList n fun l => { l with nextSlot := l.nextSlot + 1 }
    · split
      · next e => exact h₁.of_writeMem e
      · next e => exact (h₁.of_writeMem e).onList n fun l => l.join _

theorem Spares.scanSlots (h : Spares s t) (n : Deck) (fuel : Nat) : Spares s (t.scanSlots n fuel) := by
  induction fuel generalizing t with
  | zero => exact h
  | succ fuel ih =>
    unfold State.scanSlots
    extract_lets a
    split
    · next e => exact h.of_readMem e
    · next e =>
      have h₁ := h.of_readMem e
      have h₂ := h₁.takeSlot n a
      split
      · exact h₁
      · split
        · next e => exact ih (by rwa [e] at h₂)
        · next e => rwa [e] at h₂

theorem Spares.scan (h : Spares s t) (n : Deck) : Spares s (t.scan n) := by
  unfold State.scan
  exact (((h.onList n _).onIface _).scanSlots n 17).ite ((h.onList n _).onList n _)

theorem Spares.hostHalt (h : Spares s t) (n : Deck) : Spares s (t.hostHalt n) := by
  unfold State.hostHalt
  extract_lets a
  have ha : Spares s a := (h.onList n _).abort _
  clear_value a
  split
  · exact ha
  · unfold State.completeFromEngine
    split
    · exact ha
    · split
      · exact ha.completeOffered n _ _ _
      · exact ha.completeRecord n _ _

theorem Spares.examineMotion (h : Spares s t) (n : Deck) (r : HeldRecord) (c : LinkCommand) :
    Spares s (t.examineMotion n r c) :=
  (h.completeOffered n _ _ _).ite ((h.completeOffered n _ _ _).ite (h.endChase n))

theorem Spares.examineHead (h : Spares s t) (n : Deck) : Spares s (t.examineHead n) := by
  unfold State.examineHead
  extract_lets a l
  have ha : Spares s a := h.onList n _
  clear_value a
  split
  · exact ha
  · exact ha
  · split
    · exact (ha.hostHalt n).ite (ha.examineMotion n _ _)
    · exact Spares.ite (ha.completeOffered n _ _ _) (ha.examineMotion n _ _)
    · exact Spares.ite (ha.completeOffered n _ _ _) ((ha.startChase n _ _ _ _).completeRecord n _ _)
    · exact Spares.ite (ha.completeOffered n _ _ _) (((ha.endChase n).emptyTrim n).completeRecord n _ _)
    · exact (ha.onDeck n (f := fun d => { d with capture := .empty }) fun _ => rfl).completeRecord n _ _

theorem Spares.serviceRounds (h : Spares s t) (n : Deck) (fuel : Nat) : Spares s (t.serviceRounds n fuel) := by
  induction fuel generalizing t with
  | zero => exact h
  | succ fuel ih => exact (ih (h.scan n)).ite ((ih (h.examineHead n)).ite h)

theorem Spares.service (h : Spares s t) (n : Deck) : Spares s (t.service n) := h.ite (h.serviceRounds n _)

/-! ## The arbiter -/

theorem Spares.beginFrame (h : Spares s t) (n : Deck) (e : Exchange) : Spares s (t.beginFrame n e) := by
  unfold State.beginFrame
  extract_lets tag a
  have ha : Spares s a := h.onDeck n fun _ => rfl
  clear_value a
  split
  · exact (ha.onChase n _).ite ha
  · exact (ha.onEngine _).ite ha
  · exact ha.onDeck n (f := fun d =>
      { d with link := { d.link with pollPending := false, pollTimer := loadTimer d.settings.pollInterval } }) fun _ => rfl
  · exact ha

theorem Spares.handOver (h : Spares s t) (n : Deck) (c : Choice) : Spares s (t.handOver n c) := by
  unfold State.handOver
  extract_lets k
  split
  · exact (h.onArbiter n _).beginFrame n _
  · exact (h.emptyTrim n).beginFrame n _
  · exact (h.completeOffered n _ _ _).ite ((h.onList n _).beginFrame n _)
  · exact (h.onArbiter n _).beginFrame n _
  · exact h.beginFrame n _

theorem Spares.arbitrate (h : Spares s t) (n : Deck) (fuel : Nat) : Spares s (t.arbitrate n fuel) := by
  induction fuel generalizing t with
  | zero => exact h
  | succ fuel ih =>
    unfold State.arbitrate
    split
    · split
      · exact h
      · exact (ih ((h.handOver n _).service n)).ite (h.handOver n _)
    · exact h

theorem Spares.settleDecks (h : Spares s t) : Spares s t.settleDecks :=
  (h.eachDeck (f := fun n s => s.service n) fun n _ hu => hu.service n).eachDeck fun n _ hu => hu.arbitrate n 32

/-- Settles O54. -/
theorem settlingLeavesTheRest : Obligations.SettlingLeavesTheRest := by
  intro s
  have h := (Spares.refl s).settleDecks
  refine ⟨(Calm.refl s).settleDecks.standing, h.marks, h.log, h.gpi, fun n => ?_⟩
  have hd := h.decks n
  simp only [DeckUnit.spared, Prod.mk.injEq] at hd
  obtain ⟨htracker, hrx, hstatus, hstate, hfailures, hassembly, hlast, htimer, hdue, -⟩ := hd
  exact ⟨htracker, hrx, hstatus, hstate, hfailures, hassembly, hlast, htimer, hdue⟩

end Sys2Proof.Machine
end

section
/-!
PROOFS. The attentions to the mark unit, the log writer and the configuration (R163, R169, R176, R188).
-/

namespace Sys2Proof.Machine

variable {s t u : State} {n m : Deck}

/-! ## Single bytes written at several addresses -/

theorem Memory.storeAll_append (x : Memory) (ws vs : List (Nat × List Byte)) :
    x.storeAll (ws ++ vs) = (x.storeAll ws).storeAll vs := List.foldl_append

theorem Memory.read_store_one {x : Memory} (hx : x.wf = true) (a : Nat) (b : Byte) : (x.store a [b]).read a = b := by
  have h := Memory.read_store_inside a [b] hx (i := 0) (by simp)
  simpa using h

/-- One byte written at each of several addresses, and read back. -/
theorem Memory.read_storeAll_range {x : Memory} (hx : x.wf = true) {k : Nat} {addr : Nat → Nat}
    (hinj : ∀ i < k, ∀ j < k, addr i = addr j → i = j) (v : Nat → Byte) {i : Nat} (hi : i < k) :
    (x.storeAll ((List.range k).map fun i => (addr i, [v i]))).read (addr i) = v i := by
  induction k with
  | zero => omega
  | succ k ih =>
    rw [List.range_succ, List.map_append, Memory.storeAll_append]
    simp only [List.map_cons, List.map_nil, Memory.storeAll_cons, Memory.storeAll_nil]
    by_cases h : i = k
    · subst h
      exact Memory.read_store_one (Memory.wf_storeAll hx _) _ _
    · have hne : addr i ≠ addr k := fun e => h (hinj i hi k (by omega) e)
      rw [Memory.read_store_outside _ _ _ (by simp; omega)]
      exact ih (fun i hi j hj => hinj i (by omega) j (by omega)) (by omega)

/-! ## The mark table -/

theorem readRecords_of_limit {a k : Nat} (h : a + 16 * k ≤ s.iface.limit) :
    s.readRecords a k = (some ((List.range k).map fun i => s.mem.load (a + 16 * i) 16), s) := by
  induction k generalizing a with
  | zero => rfl
  | succ k ih =>
    unfold State.readRecords
    rw [readMem_of_limit (by omega)]
    simp only [ih (a := a + 16) (by omega), List.range_succ_eq_map, List.map_cons, List.map_map, Nat.mul_zero, Nat.add_zero]
    congr 4
    funext i
    show s.mem.load _ _ = s.mem.load _ _
    congr 1
    omega

/-- Record `i` of the mark table, as a load reads it. -/
def State.markRecord (s : State) (i : Nat) : Mark × MarkResult :=
  loadMark s.standard s.gpi.outputs (s.mem.load (16 * s.iface.bases.mark + 16 * i) 16)

/-- What a load of the mark table writes (R163). -/
def State.markWrites (s : State) : List (Nat × List Byte) :=
  (List.range 16).map fun i => (16 * s.iface.bases.mark + 16 * i + 13, [byte (s.markRecord i).2.code])

theorem map_zipIdx_range {α β : Type} (k : Nat) (g : Nat → α) (f : α × Nat → β) :
    (((List.range k).map g).zipIdx).map f = (List.range k).map fun i => f (g i, i) := by
  apply List.ext_getElem <;> simp

theorem loadMarks_of_limit (h : 16 * s.iface.bases.mark + 256 ≤ s.iface.limit) :
    s.loadMarks =
      { s with
        marks := { s.marks with entries := (List.range 16).map fun i => (s.markRecord i).1 }
        mem := s.mem.storeAll s.markWrites } := by
  unfold State.loadMarks
  rw [readRecords_of_limit (by omega)]
  simp only [List.map_map, map_zipIdx_range]
  rw [writeAll_of_limit]
  · rfl
  · intro w hw
    obtain ⟨i, hi, rfl⟩ := List.mem_map.mp hw
    have := List.mem_range.mp hi
    simp only [State.onMarks_iface, List.length_singleton]
    omega

theorem attendMarkGroup_of_unconfigured (hc : s.iface.configured = false) (g : Nat) (f : State → State) :
    s.attendMarkGroup g f = s.setAttention g true := by simp [State.attendMarkGroup, hc]

theorem attendMarkGroup_of_configured (hc : s.iface.configured = true) (g : Nat) (f : State → State) :
    s.attendMarkGroup g f = f (s.setAttention g false) := by simp [State.attendMarkGroup, hc, State.attendMarks]

theorem evaluateProbe_of_limit (h : 16 * s.iface.bases.probe + 16 ≤ s.iface.limit) :
    s.evaluateProbe =
      ({ s with
        mem := (s.mem.store (16 * s.iface.bases.probe + 10)
          (half (s.marks.hitSet s.standard (s.mem.load (16 * s.iface.bases.probe) 16)))).store
            (16 * s.iface.bases.probe + 12) [1] }).raise .probeDone := by
  unfold State.evaluateProbe
  extract_lets a
  rw [readMem_of_limit (by omega)]
  simp only
  rw [writeAll_of_limit]
  · rfl
  · simp only [List.forall_mem_cons, length_half, List.length_singleton]
    exact ⟨by omega, by omega, by simp⟩

/-- Settles O15. -/
theorem markLoadAndProbe : Obligations.MarkLoadAndProbe := by
  refine ⟨fun s hs => ?_, fun s hs => ?_⟩
  · have hexec : exec .attnMarkLoad s = .next (s.attendMarkGroup 9 State.loadMarks) :=
      registerWrite_of_ready hs fun s => s.attendMarkGroup 9 State.loadMarks
    rw [hexec]
    refine ⟨fun hc => by rw [attendMarkGroup_of_unconfigured hc], fun hc hm hl => ?_⟩
    rw [attendMarkGroup_of_configured hc, loadMarks_of_limit (s := s.setAttention 9 false) hl]
    refine ⟨_, rfl, rfl, by simp, fun i hi => ⟨?_, ?_⟩, fun a ha => ?_⟩
    · simp [hi]
      rfl
    · exact Memory.read_storeAll_range hm (addr := fun i => 16 * s.iface.bases.mark + 16 * i + 13)
        (fun i _ j _ h => by omega) (fun i => byte (s.markRecord i).2.code) hi
    · refine Memory.read_storeAll_outside _ fun w hw => ?_
      obtain ⟨i, hi, rfl⟩ := List.mem_map.mp hw
      have := ha i (List.mem_range.mp hi)
      simp only [List.length_singleton]
      have hb : (s.setAttention 9 false).iface.bases = s.iface.bases := rfl
      rw [hb]
      omega
  · have hexec : exec .attnProbe s = .next (s.attendMarkGroup 12 State.evaluateProbe) :=
      registerWrite_of_ready hs fun s => s.attendMarkGroup 12 State.evaluateProbe
    rw [hexec]
    refine ⟨fun hc => by rw [attendMarkGroup_of_unconfigured hc], fun hc hl => ?_⟩
    rw [attendMarkGroup_of_configured hc, evaluateProbe_of_limit (s := s.setAttention 12 false) hl]
    rfl

/-! ## The consumed index -/

theorem LogWriter.rearm_eq (l : LogWriter) :
    l.rearm = { l with armed := l.armed || decide (l.threshold ≠ 0 ∧ l.fill < l.threshold) } := by
  unfold LogWriter.rearm
  split
  · next h => simp [h]
  · next h => simp [h]

/-- The writer with the consumed index re-read (R176). -/
def LogWriter.reread (l : LogWriter) (x : Nat) : LogWriter :=
  { l with consumed := if x < l.count then x else l.consumed }

theorem rereadLog_of_limit (hc : s.log.count ≠ 0) (hl : 16 * s.log.base + 2 ≤ s.iface.limit) :
    s.rereadLog = { s with log := (s.log.reread (halfAt (s.mem.load (16 * s.log.base) 2) 0)).rearm } := by
  unfold State.rereadLog
  have hread : s.readMem s.log.header 2 = (some (s.mem.load (16 * s.log.base) 2), s) := readMem_of_limit hl
  rw [if_neg hc, hread]
  simp only [State.onLog, LogWriter.reread]
  split <;> rfl

/-- Settles O20. -/
theorem logRereadTakesTheConsumedIndex : Obligations.LogRereadTakesTheConsumedIndex := by
  intro s hs
  have hexec : exec .attnLogReread s = .next (s.setAttention 11 false).rereadLog :=
    registerWrite_of_ready hs fun s => (s.setAttention 11 false).rereadLog
  rw [hexec]
  refine ⟨fun hc => ?_, fun hc hl => ?_⟩
  · have hc' : (s.setAttention 11 false).log.count = 0 := hc
    rw [State.rereadLog, if_pos hc']
  · rw [rereadLog_of_limit (s := s.setAttention 11 false) hc hl, LogWriter.rearm_eq]
    exact ⟨_, rfl, rfl, rfl, rfl, rfl⟩

/-! ## A load refused -/

theorem loadConfig_of_limit {d r : List Byte} (h₀ : 256 ≤ s.iface.limit) (hd : d = s.mem.load 0 24)
    (hb : 16 * halfAt d 0x12 + 256 ≤ s.iface.limit) (hr : r = s.mem.load (16 * halfAt d 0x12) 256) :
    s.loadConfig =
      if !s.engine.state.atRest ∨ s.engine.takeInProgress then
        s.refuseConfig (16 * halfAt d 0x12) .engineActive 0
      else
        (configFailure d r (16 * halfAt d 0x12) s.iface.limit).elim (s.acceptConfig d r (16 * halfAt d 0x12))
          fun x => s.refuseConfig (16 * halfAt d 0x12) x.1 x.2 := by
  unfold State.loadConfig
  rw [readMem_of_limit (by omega), ← hd]
  simp only
  rw [readMem_of_limit hb, ← hr]
  simp only
  cases configFailure d r (16 * halfAt d 0x12) s.iface.limit <;> rfl

theorem refuseConfig_of_limit {base : Nat} (hb : base + 256 ≤ s.iface.limit) (code : FaultCode) (o : Nat) :
    s.refuseConfig base code o =
      ({ s with mem := (s.mem.store (base + 8) [byte code.num]).store (base + 10) (halfSat o) }).raise .config := by
  unfold State.refuseConfig State.writeResult
  rw [writeAll_of_limit]
  · rfl
  · simp only [List.forall_mem_cons, length_halfSat, List.length_singleton]
    exact ⟨by omega, by omega, by simp⟩

/-- Settles O16. -/
theorem configLoadRefused : Obligations.ConfigLoadRefused := by
  intro s base hs hd h₀ hbase hb
  have hexec : exec .attnConfigLoad s = .next ((s.setAttention 10 false).loadConfig.settleDecks) :=
    registerWrite_of_ready hs fun s => (s.setAttention 10 false).loadConfig.settleDecks
  have hlim : (s.setAttention 10 false).iface.limit = s.iface.limit := rfl
  have hload := loadConfig_of_limit (s := s.setAttention 10 false) (d := s.mem.load 0 24)
    (r := s.mem.load (16 * halfAt (s.mem.load 0 24) 0x12) 256) h₀ rfl (hbase ▸ hb) rfl
  rw [hexec, hload, hlim, ← hbase]
  refine ⟨fun hst => ?_, fun code o hst hp hf => ?_⟩
  · rw [if_pos (.inl (by simpa using hst)), refuseConfig_of_limit (s := s.setAttention 10 false) hb,
      settleDecks_of_rest]
    · rfl
    · exact hd.congr rfl rfl rfl
  · have hrun : ¬((!(s.setAttention 10 false).engine.state.atRest) = true ∨
        (s.setAttention 10 false).engine.takeInProgress = true) := by
      simp [State.setAttention, hst, hp]
    rw [if_neg hrun, hf, Option.elim_some,
      refuseConfig_of_limit (s := s.setAttention 10 false) hb, settleDecks_of_rest]
    · rfl
    · exact hd.congr rfl rfl rfl

end Sys2Proof.Machine
end

section
/-!
PROOFS. The take of a valid event (R117, R128).
-/

namespace Sys2Proof.Machine

variable {s t u : State} {n m : Deck}

@[simp] theorem DeckUnit.chaseEnded_downDue (d : DeckUnit) : d.chaseEnded.link.downDue = d.link.downDue := by
  unfold DeckUnit.chaseEnded
  split <;> rfl

/-! ## Claiming a deck whose queue is empty -/

/-- A deck once claimed (R117 step 3), its head to be examined. -/
def DeckUnit.claimedNow (d : DeckUnit) : DeckUnit :=
  { d.chaseEnded with
    link := d.chaseEnded.link.overtake
    list := { d.chaseEnded.list with examine := true } }

theorem claim_deck (s : State) (n m : Deck) :
    (s.claim n).deck m = if m = n then (s.deck n).claimedNow else s.deck m := by
  unfold State.claim State.examineSoon
  by_cases h : m = n
  · subst h
    simp [endChase_deck, DeckUnit.claimedNow]
  · simp [State.onList_deck_ne _ _ h, State.onLink_deck_ne _ _ h, endChase_deck, h]

theorem Aside.claim (h : Aside s t) (n : Deck) : Aside s (t.claim n) :=
  ((h.endChase n).onLink n _).onDeck n fun d => { d with list := { d.list with examine := true } }

theorem claim_mem (s : State) (n : Deck) : (s.claim n).mem = s.mem := endChase_mem s n

/-- No record is held and no scan asked for on any deck, and no link is about to enter DOWN. -/
def ListsEmpty (s : State) : Prop :=
  ∀ n, (s.deck n).list.queue = [] ∧ (s.deck n).list.rescan = false ∧ (s.deck n).link.downDue = false

theorem examineHead_of_empty (h : (s.deck n).list.queue = []) :
    s.examineHead n = s.onList n fun l => { l with examine := false } := by
  simp [State.examineHead, CommandList.head, h]

/-- With nothing held the service of a deck only examines a head that is not there. -/
theorem service_of_empty (h : ListsEmpty s) (n : Deck) :
    s.service n = s.onList n fun l => { l with examine := false } := by
  obtain ⟨hq, hr, hd⟩ := h n
  have hex := examineHead_of_empty hq
  by_cases he : (s.deck n).list.examine = true
  · rw [service_of_examine hd hr he, hex]
    rw [hex]
    simp [State.listAtRest, hr]
  · have he' : (s.deck n).list.examine = false := by simpa using he
    have hl : s.listAtRest n := ⟨hr, he'⟩
    rw [service_of_listAtRest hl, State.onList_self]
    rw [← he']

theorem service_deck_of_empty (h : ListsEmpty s) (n m : Deck) :
    (s.service n).deck m =
      if m = n then { s.deck n with list := { (s.deck n).list with examine := false } } else s.deck m := by
  rw [service_of_empty h]
  by_cases hm : m = n
  · subst hm; simp
  · simp [State.onList_deck_ne _ _ hm, hm]

theorem ListsEmpty.service (h : ListsEmpty s) (n : Deck) : ListsEmpty (s.service n) := by
  intro m
  rw [service_deck_of_empty h]
  split
  · next hm => subst hm; exact h m
  · exact h m

/-! ## The SEEKs to the cues -/

/-- A SEEK to a cue offered to an engine queue with room. -/
theorem offerCue_of_room {e : Event} (hr : s.engine.state.running = true)
    (hq : (s.deck n).arbiter.engineQueue.length < 4) :
    s.offerCue e n = (s.offerEngine n ⟨seekTo (e.cueOf n).2 (e.cueOf n).1, true, none⟩).2 := by
  have h : s.offerEngine n ⟨seekTo (e.cueOf n).2 (e.cueOf n).1, true, none⟩ =
      (true, (s.offerEngine n ⟨seekTo (e.cueOf n).2 (e.cueOf n).1, true, none⟩).2) := by
    simp [State.offerEngine, hq]
  unfold State.offerCue State.offerRunning
  simp only [hr, if_true]
  rw [h]

/-- Acts done one after another for several decks, each changing its own deck alone where that deck stands as it did. -/
theorem foldl_deck_of {P : State → Prop} {Q : Deck → DeckUnit → Prop} {f : State → Deck → State}
    {g : Deck → DeckUnit → DeckUnit} (hP : ∀ u k, P u → Q k (u.deck k) → P (f u k))
    (hf : ∀ u k j, P u → Q k (u.deck k) → (f u k).deck j = if j = k then g k (u.deck k) else u.deck j) {l : List Deck}
    (hl : l.Nodup) (hs : P s) (hq : ∀ k ∈ l, Q k (s.deck k)) :
    P (l.foldl f s) ∧ ∀ m, (l.foldl f s).deck m = if m ∈ l then g m (s.deck m) else s.deck m := by
  induction l generalizing s with
  | nil => exact ⟨hs, fun _ => rfl⟩
  | cons k l ih =>
    obtain ⟨hk, hl⟩ := List.nodup_cons.mp hl
    obtain ⟨hqk, hql⟩ := List.forall_mem_cons.mp hq
    have hd (m : Deck) := hf s k m hs hqk
    have hkeep (m : Deck) (hm : m ∈ l) : (f s k).deck m = s.deck m :=
      (hd m).trans (if_neg (ne_of_mem_of_not_mem hm hk))
    obtain ⟨hp, hdecks⟩ := ih hl (hP s k hs hqk) fun m hm => by rw [hkeep m hm]; exact hql m hm
    refine ⟨hp, fun m => ?_⟩
    rw [List.foldl_cons, hdecks m, hd m]
    by_cases hm : m = k
    · subst hm
      simp [hk]
    · simp [hm]

/-! ## The take -/

/-- The engine's state and suite memory once an event is taken, before its decks are claimed. -/
def State.taken (s : State) (a : Nat) (e : Event) : State :=
  { s with mem := s.mem.store a [2], engine := s.engine.taking s.engine.nextEvent e }

/-- A claimed deck once its SEEK is queued (R117, R128). -/
def DeckUnit.cued (r : EngineRequest) (d : DeckUnit) : DeckUnit :=
  { d.claimedNow with
    list := { d.claimedNow.list with examine := false }
    arbiter := { d.claimedNow.arbiter with engineQueue := [r] } }

/-- The SEEK to the cue of deck `n`. -/
def Event.cueRequest (e : Event) (n : Deck) : EngineRequest := ⟨seekTo (e.cueOf n).2 (e.cueOf n).1, true, none⟩

/-- What a take of a valid event does, decks whose link is busy having empty queues. -/
structure Taken (s : State) (a : Nat) (e : Event) (t : State) : Prop where
  aside : Aside (s.onEngine fun g => (g.taking g.nextEvent e).cueing e) t
  mem : t.mem = s.mem.store a [2]
  decks : ∀ n, t.deck n = if n ∈ e.decks then (s.deck n).cued (e.cueRequest n) else s.deck n

theorem takeEvent_taken {a : Nat} {e : Event} (ha : a + 64 ≤ s.iface.limit) (hl : ListsEmpty s)
    (hq : ∀ n, (s.deck n).arbiter.engineQueue = []) (hn : e.decks.Nodup) : Taken s a e (s.takeEvent a e) := by
  unfold State.takeEvent
  rw [writeMem_of_limit (by simp; omega)]
  dsimp -zeta only
  extract_lets b c d g
  have hc := foldl_deck_of (f := State.claim) (P := fun u => Aside b u ∧ u.mem = b.mem) (Q := fun _ _ => True)
    (g := fun _ => DeckUnit.claimedNow) (fun u k h _ => ⟨h.1.claim k, (claim_mem u k).trans h.2⟩)
    (fun u k j _ _ => claim_deck u k j) hn (s := b) ⟨.refl b, rfl⟩ fun _ _ => trivial
  change (Aside b c ∧ c.mem = b.mem) ∧ ∀ m, c.deck m = _ at hc
  obtain ⟨⟨hca, hcm⟩, hcd⟩ := hc
  clear_value c
  have hce : ListsEmpty c := fun n => by
    rw [hcd]
    split
    · obtain ⟨h₁, h₂, h₃⟩ := hl n
      exact ⟨(congrArg CommandList.queue (DeckUnit.chaseEnded_list _)).trans h₁,
        (congrArg CommandList.rescan (DeckUnit.chaseEnded_list _)).trans h₂,
        (DeckUnit.chaseEnded_downDue _).trans h₃⟩
    · exact hl n
  have hd := foldl_deck_of (f := State.service) (P := fun u => (Aside c u ∧ u.mem = c.mem) ∧ ListsEmpty u)
    (Q := fun _ _ => True) (g := fun _ d => { d with list := { d.list with examine := false } })
    (fun u k h _ => ⟨by rw [service_of_empty h.2]; exact ⟨h.1.1.onDeck k _, h.1.2⟩, h.2.service k⟩)
    (fun u k j h _ => service_deck_of_empty h.2 k j) hn (s := c) ⟨⟨.refl c, rfl⟩, hce⟩ fun _ _ => trivial
  change ((Aside c d ∧ d.mem = c.mem) ∧ ListsEmpty d) ∧ ∀ m, d.deck m = _ at hd
  obtain ⟨⟨⟨hda, hdm⟩, -⟩, hdd⟩ := hd
  clear_value d
  have hbd := hca.trans hda
  have hga : Aside (s.onEngine fun g => (g.taking g.nextEvent e).cueing e) g :=
    Aside.trans (t := b.onEngine fun x => x.cueing e) ⟨rfl, rfl, rfl, rfl, rfl, rfl, rfl, rfl⟩
      (Aside.onEngine (f := fun x => x.cueing e) (g := fun x => x.cueing e) hbd rfl)
  have hgr : g.engine.state.running = true := by rw [hga.engine]; rfl
  have hgd (m : Deck) : g.deck m = if m ∈ e.decks then
      { (s.deck m).claimedNow with list := { (s.deck m).claimedNow.list with examine := false } } else s.deck m := by
    have h : g.deck m = _ := hdd m
    rw [h, hcd]
    split <;> rfl
  have ht := foldl_deck_of (f := fun s n => s.offerCue e n) (P := fun u => Aside g u ∧ u.mem = g.mem)
    (Q := fun _ d => d.arbiter.engineQueue = [])
    (g := fun n d => { d with arbiter := { d.arbiter with engineQueue := [e.cueRequest n] } })
    (fun u k h hk => by
      rw [offerCue_of_room (by rw [h.1.engine, hgr]) (by simp [hk])]
      exact ⟨h.1.offerEngine k _, (offerEngine_mem u k _).trans h.2⟩)
    (fun u k j h hk => by
      rw [offerCue_of_room (by rw [h.1.engine, hgr]) (by simp [hk]), offerEngine_deck]
      simp only [DeckUnit.offered, hk, List.length_nil, if_pos (show 0 < 4 by decide), List.nil_append]
      rfl)
    hn (s := g) ⟨.refl g, rfl⟩ fun n hm => by rw [hgd, if_pos hm]; simp [DeckUnit.claimedNow, hq n]
  obtain ⟨⟨hta, htm⟩, htd⟩ := ht
  refine ⟨hga.trans hta, htm.trans (hdm.trans hcm), fun n => ?_⟩
  rw [htd, hgd]
  split <;> rfl

theorem DeckUnit.claimedNow_free (d : DeckUnit) : d.claimedNow.free = d.free := by
  have h := d.chaseEnded_free
  simp only [DeckUnit.free] at h ⊢
  simpa [DeckUnit.claimedNow, Link.overtake] using h

theorem Taken.sidesKept {a : Nat} {e : Event} (h : Taken s a e t) (hb : s.linksBusy) (n : Deck) : s.sidesKept t n := by
  rw [State.sidesKept, h.decks]
  have hx := (hb n).2.1
  split
  · refine ⟨by simp [DeckUnit.cued, DeckUnit.claimedNow], by simp [DeckUnit.cued, DeckUnit.claimedNow], ?_,
      by simp [DeckUnit.cued, DeckUnit.claimedNow], by simp [DeckUnit.cued, DeckUnit.claimedNow]⟩
    simp [DeckUnit.cued, DeckUnit.claimedNow, ← hx]
  · exact ⟨rfl, rfl, rfl, rfl, rfl⟩

theorem Taken.linksBusy {a : Nat} {e : Event} (h : Taken s a e t) (hb : s.linksBusy) : t.linksBusy := by
  refine hb.congr (fun n => ?_) fun n => ?_
  · rw [(h.sidesKept hb n).2.2.1]
    exact ⟨rfl, rfl⟩
  · rw [h.decks]
    split
    · exact DeckUnit.claimedNow_free _
    · rfl

theorem take_of_valid {e : Event} (hl : s.eventSlot s.engine.nextEvent + 64 ≤ s.iface.limit)
    (hm : s.mem.read (s.eventSlot s.engine.nextEvent) = 1)
    (hc : s.checkEvent (s.mem.load (s.eventSlot s.engine.nextEvent) 64) = .ok e) :
    s.take = s.takeEvent (s.eventSlot s.engine.nextEvent) e := by
  have hl1 : s.eventSlot s.engine.nextEvent + 1 ≤ s.iface.limit := by omega
  have hst := (byteAt_load_one _ _).mpr hm
  simp [State.take, readMem_of_limit hl1, readMem_of_limit hl, hst, hc]

/-- Settles O12. -/
theorem takeCuesAValidEvent : Obligations.TakeCuesAValidEvent := by
  intro s e hs hb hc hp hr hq he hn hl hm hread hcheck
  have hsix : s.attendSix = s.released.takeEvent (s.eventSlot s.engine.nextEvent) e := by
    rw [attendSix_of_configured hc hp, attendTake_of_rest hr]
    exact take_of_valid (s := s.released) hl hread hcheck
  have hlists : ListsEmpty s := fun n => ⟨hq n, (hb n).1, hs.downDue n⟩
  have ht : Taken s.released _ e _ := takeEvent_taken (s := s.released) hl hlists he hn
  have hst := (Calm.refl s).attendSix.standing
  rw [hsix] at hst
  have hexec := exec_attnTake_of_rest hs hsix (ht.linksBusy hb).atRest
  rw [hexec]
  generalize s.released.takeEvent (s.eventSlot s.engine.nextEvent) e = t at ht hst
  have hdecks := ht.decks
  refine ⟨t, rfl, ht.mem, by rw [ht.aside.engine]; rfl, by rw [ht.aside.engine]; rfl, by rw [ht.aside.engine]; rfl,
    by rw [ht.aside.engine]; rfl, by rw [ht.aside.engine]; rfl, by rw [ht.aside.engine]; rfl,
    by rw [ht.aside.engine]; rfl, fun n hmem => ⟨?_, ?_, ?_⟩, fun n hmem => (hdecks n).trans (if_neg hmem),
    ht.sidesKept hb, ht.aside.generator, ⟨ht.aside.marks, ht.aside.log, ht.aside.gpi⟩, hst⟩
  · rw [ht.aside.engine]
    cases n <;> simpa [Engine.cueing, Six.of, Six.get] using hmem
  · rw [hdecks, if_pos hmem]
    exact DeckUnit.chaseEnded_chase _
  · rw [hdecks, if_pos hmem]
    rfl

end Sys2Proof.Machine
end

section
/-!
PROOFS. The field timer's expiry, the field tick and the frame boundary (R10 to R18, R192).
-/

namespace Sys2Proof.Machine

variable {s t u v : State} {n m : Deck}

/-! ## The expiry of the field timer -/

/-- The reference state an expiry of the field timer leads to (R13, R15). -/
def Timeline.expiredState (t : Timeline) : RefState := if t.refState = .locked then .holdover else t.refState

/-- The miss count after an expiry of the field timer (R13). -/
def Timeline.expiredMiss (t : Timeline) : Nat :=
  if t.refState = .locked then 1 else if t.refState = .holdover then min 16 (t.miss + 1) else t.miss

/-- The field advance of an expiry of the field timer. -/
def State.expire (s : State) : State :=
  s.advanceField s.timeline.field.other s.timeline.expiredState s.timeline.expiredMiss

theorem timerExpiry_eq (s : State) :
    s.timerExpiry = if s.timeline.refState = .locked then s.expire.raise .reference else s.expire := by
  unfold State.timerExpiry State.expire Timeline.expiredState Timeline.expiredMiss
  cases h : s.timeline.refState <;> simp [h]

theorem timeline_expired (t : Timeline) :
    t.advance t.field.other t.expiredState t.expiredMiss =
      { t with
        F := t.F + 1
        field := t.field.other
        refState := if t.refState = .locked then .holdover else t.refState
        miss := if t.refState = .locked then 1
          else if t.refState = .holdover then min 16 (t.miss + 1) else t.miss
        timer := ⟨.nominal, t.standard⟩ } := by
  unfold Timeline.advance Timeline.expiredState Timeline.expiredMiss
  cases h : t.refState <;> simp [RefState.limit]

theorem exec_fieldTimerExpiry (hs : s.ready) : exec .fieldTimerExpiry s = .next s.timerExpiry :=
  command_of_ready hs State.timerExpiry

/-! ## A field advance with nothing due -/

theorem catchUp_of_none (h : ∀ a ∈ fieldActs, a.due s = false) : s.catchUp = s :=
  foldl_of_none fun a ha => by rw [State.actIfDue, h a ha, if_neg Bool.false_ne_true]

theorem advanceField_of_none (h : ∀ a ∈ fieldActs, a.due s = false) (id : FieldId) (st : RefState) (k : Nat) :
    s.advanceField id st k = (s.advance id st k).settleDecks := by
  rw [State.advanceField, catchUp_of_none h]

/-! ## The field tick -/

/-- A deck with its link's timers ticked (R42). -/
def DeckUnit.ticked (d : DeckUnit) : DeckUnit := { d with link := d.link.tick }

theorem tickTimers_aside (s : State) : Aside s s.tickTimers :=
  (Aside.refl s).eachDeck fun n _ h => h.onLink n _

theorem tickTimers_deck (s : State) (m : Deck) : s.tickTimers.deck m = (s.deck m).ticked :=
  eachDeck_deck (f := fun n s => s.onLink n Link.tick) (P := fun _ => True) (g := fun _ => DeckUnit.ticked)
    (fun _ _ _ => trivial)
    (fun u k j _ => by
      by_cases h : j = k
      · subst h; simp [DeckUnit.ticked]
      · simp [State.onLink_deck_ne _ _ h, h]) trivial m

theorem tickTimers_mem (s : State) : s.tickTimers.mem = s.mem :=
  eachDeck_mem (f := fun n s => s.onLink n Link.tick) (fun _ _ => rfl) s

/-- What each of the acts keeps, all keep. -/
theorem eachDeck_keeps {α : Type} (p : State → α) {f : Deck → State → State} (hf : ∀ n u, p (f n u) = p u) (s : State) :
    p (s.eachDeck f) = p s := by
  simp only [State.eachDeck, hf]

theorem tickTimers_iface (s : State) : s.tickTimers.iface = s.iface :=
  eachDeck_keeps State.iface (f := fun n s => s.onLink n Link.tick) (fun _ _ => rfl) s

theorem DeckUnit.ticked_free (d : DeckUnit) : d.ticked.free = d.free := by
  simp [DeckUnit.free, DeckUnit.ticked, Link.tick]

/-- What the field tick does to the generator and the effects port leaves everything else. -/
theorem fieldFrameTick_eq (s : State) :
    s.fieldFrameTick = { s with ep := s.fieldFrameTick.ep, generator := s.fieldFrameTick.generator } := by
  unfold State.fieldFrameTick
  extract_lets a
  split <;> rfl

/-- The state after an advance of the timeline and the tick of the timers and the field frame. -/
def State.tickTo (s : State) (id : FieldId) (st : RefState) (k : Nat) : State :=
  (s.onTimeline fun t => t.advance id st k).tickTimers.fieldFrameTick

theorem advance_eq (s : State) (id : FieldId) (st : RefState) (k : Nat) :
    s.advance id st k = if id = .first then (s.tickTo id st k).frameBoundary else s.tickTo id st k := by
  have h : (s.tickTo id st k).timeline.field = id := by
    unfold State.tickTo
    rw [fieldFrameTick_timeline, (tickTimers_aside _).timeline]
    rfl
  unfold State.advance State.fieldTick
  extract_lets a
  have ha : a = s.tickTo id st k := rfl
  rw [ha, h]

theorem tickTo_deck (s : State) (id : FieldId) (st : RefState) (k : Nat) (m : Deck) :
    (s.tickTo id st k).deck m = (s.deck m).ticked := by
  unfold State.tickTo
  rw [fieldFrameTick_eq]
  exact tickTimers_deck _ m

theorem tickTo_linksBusy (h : s.linksBusy) (id : FieldId) (st : RefState) (k : Nat) : (s.tickTo id st k).linksBusy :=
  h.congr (fun n => by rw [tickTo_deck]; exact ⟨rfl, rfl⟩) fun n => by rw [tickTo_deck, DeckUnit.ticked_free]

theorem tickTo_mem (s : State) (id : FieldId) (st : RefState) (k : Nat) : (s.tickTo id st k).mem = s.mem := by
  unfold State.tickTo
  rw [fieldFrameTick_eq]
  exact tickTimers_mem _

theorem tickTo_iface (s : State) (id : FieldId) (st : RefState) (k : Nat) : (s.tickTo id st k).iface = s.iface := by
  unfold State.tickTo
  rw [fieldFrameTick_eq]
  exact tickTimers_iface _

theorem tickTo_engine (s : State) (id : FieldId) (st : RefState) (k : Nat) : (s.tickTo id st k).engine = s.engine := by
  unfold State.tickTo
  rw [fieldFrameTick_eq]
  exact (tickTimers_aside _).engine

/-! ## Status records -/

/-- A deck once its status record holds `content` (R192). -/
def DeckUnit.recorded (content : List Byte) (d : DeckUnit) : DeckUnit := { d with statusWritten := some content }

/-- The status record of deck `n` as it stands. -/
def State.statusOf (s : State) (n : Deck) : List Byte := (s.deck n).status (s.claimSlot n)

/-- Deck `n`'s status record is to be written (R192). -/
abbrev State.statusDue (s : State) (n : Deck) : Prop :=
  s.iface.configured = true ∧ (s.deck n).statusWritten ≠ some (s.statusOf n)

theorem length_errorBytes (e : Option Int) : (errorBytes e).length = 2 := by
  cases e <;> simp [errorBytes, halfSigned]

theorem length_status (d : DeckUnit) (c : Option (Fin 64)) : (d.status c).length = 64 := by
  have h : d.statusPosition.length = 11 := by
    unfold DeckUnit.statusPosition
    cases d.link.lastState <;> cases d.tracker.latest <;> simp [addrBytes]
  simp [DeckUnit.status, h, length_errorBytes, wordSigned, word, wordOfField]

/-- The deck records of `s` all lie below the limit. -/
def RecordsInReach (s : State) : Prop :=
  s.iface.topmem.val ≠ 0 ∧ ∀ n, 16 * s.iface.bases.deck.get n + 320 ≤ s.iface.limit

theorem writeStatus_eq (hr : RecordsInReach s) (n : Deck) :
    s.writeStatus n =
      if s.statusDue n then
        ({ s with mem := s.mem.store (16 * s.iface.bases.deck.get n + 256) (s.statusOf n) } : State).onDeck n
          (DeckUnit.recorded (s.statusOf n))
      else s := by
  have hl := hr.2 n
  unfold State.writeStatus State.statusDue State.statusOf
  by_cases hc : s.iface.configured = true
  · rw [if_pos ⟨hc, hr.1⟩]
    extract_lets content
    by_cases hw : (s.deck n).statusWritten = some content
    · rw [if_pos hw, if_neg fun h => h.2 hw]
    · rw [if_neg hw, if_pos ⟨hc, hw⟩, writeMem_of_limit (by rw [length_status]; omega)]
      rfl
  · rw [if_neg fun h => hc h.1, if_neg fun h => hc h.1]

theorem statusOf_congr (hd : u.deck n = v.deck n) (he : u.engine = v.engine) : u.statusOf n = v.statusOf n := by
  unfold State.statusOf State.claimSlot State.claimed
  rw [hd, he]

/-- Suite memory with the status records of the decks `l` of `v` written that are due. -/
def Memory.statuses (v : State) (m : Memory) (l : List Deck) : Memory :=
  l.foldl (fun m n =>
    if v.statusDue n then m.store (16 * v.iface.bases.deck.get n + 256) (v.statusOf n) else m) m

/-- The status records of some decks written, the decks standing as in `v`. -/
theorem foldl_writeStatus (hv : RecordsInReach v) {l : List Deck} (hl : l.Nodup)
    (hi : u.iface = v.iface) (he : u.engine = v.engine) (hd : ∀ n ∈ l, u.deck n = v.deck n) :
    (l.foldl (fun s n => s.writeStatus n) u).mem = Memory.statuses v u.mem l := by
  induction l generalizing u with
  | nil => rfl
  | cons n l ih =>
    obtain ⟨hn, hl⟩ := List.nodup_cons.mp hl
    obtain ⟨hdn, hdl⟩ := List.forall_mem_cons.mp hd
    have hof := statusOf_congr hdn he
    have hdue : u.statusDue n ↔ v.statusDue n := by simp only [State.statusDue, hof, hdn, hi]
    have hr : RecordsInReach u := by simpa only [RecordsInReach, hi] using hv
    rw [List.foldl_cons, Memory.statuses, List.foldl_cons, writeStatus_eq hr n]
    by_cases h : v.statusDue n
    · rw [if_pos h, if_pos (hdue.mpr h), hof, hi]
      refine ih (u := State.onDeck _ n _) hl rfl he fun m hm => ?_
      rw [State.onDeck_deck_ne _ _ (ne_of_mem_of_not_mem hm hn)]
      exact hdl m hm
    · rw [if_neg h, if_neg (hdue.not.mpr h)]
      exact ih hl hi he hdl

/-- A deck once its status record has been brought up to date. -/
def State.upToDate (s : State) (n : Deck) (d : DeckUnit) : DeckUnit :=
  if s.iface.configured = true then d.recorded (s.statusOf n) else d

theorem writeStatus_deck (hr : RecordsInReach s) (n m : Deck) :
    (s.writeStatus n).deck m = if m = n then s.upToDate n (s.deck n) else s.deck m := by
  rw [writeStatus_eq hr]
  by_cases hc : s.iface.configured = true
  · by_cases hw : (s.deck n).statusWritten = some (s.statusOf n)
    · have hn : ¬s.statusDue n := fun h => h.2 hw
      rw [if_neg hn, State.upToDate, if_pos hc, DeckUnit.recorded, ← hw]
      split
      · next h => rw [h]
      · rfl
    · rw [if_pos ⟨hc, hw⟩, State.upToDate, if_pos hc]
      by_cases hm : m = n
      · subst hm; rw [State.onDeck_deck_self, if_pos rfl]; rfl
      · rw [State.onDeck_deck_ne _ _ hm, if_neg hm]; rfl
  · have hn : ¬s.statusDue n := fun h => hc h.1
    rw [if_neg hn, State.upToDate, if_neg hc]
    split
    · next h => rw [h]
    · rfl

theorem writeStatus_aside (hr : RecordsInReach s) (n : Deck) :
    Aside s (s.writeStatus n) ∧ (s.writeStatus n).iface = s.iface := by
  rw [writeStatus_eq hr]
  split
  · exact ⟨((Aside.refl s).setMem _).onDeck n _, rfl⟩
  · exact ⟨.refl s, rfl⟩

/-- What the status records of a frame boundary do (R192). -/
structure Recorded (s t : State) : Prop extends Aside s t where
  iface : t.iface = s.iface
  mem : t.mem = Memory.statuses s s.mem Deck.list
  decks : ∀ n, t.deck n = s.upToDate n (s.deck n)

theorem writeStatuses_recorded (hr : RecordsInReach s) : Recorded s (s.eachDeck fun n s => s.writeStatus n) := by
  have hreach {u : State} (h : u.iface = s.iface) : RecordsInReach u := by simpa only [RecordsInReach, h] using hr
  have hd := foldl_deck_of (f := fun s n => s.writeStatus n) (P := fun u => Aside s u ∧ u.iface = s.iface)
    (Q := fun n d => d = s.deck n) (g := s.upToDate)
    (fun u k h _ =>
      have hw := writeStatus_aside (hreach h.2) k
      ⟨h.1.trans hw.1, hw.2.trans h.2⟩)
    (fun u k j h hk => by
      rw [writeStatus_deck (hreach h.2)]
      simp only [State.upToDate, statusOf_congr hk h.1.engine, hk, h.2])
    Deck.nodup_list (s := s) ⟨.refl s, rfl⟩ fun _ _ => rfl
  have hm := foldl_writeStatus hr Deck.nodup_list (u := s) rfl rfl fun _ _ => rfl
  rw [eachDeck_eq_foldl]
  exact ⟨hd.1.1, hd.1.2, hm, fun n => (hd.2 n).trans (if_pos (Deck.mem_list n))⟩

/-! ## What a frame boundary does besides the records -/

/-- What a frame boundary's polls, flywheels and requests leave of a deck. -/
def DeckUnit.steady (d : DeckUnit) : CommandList × Transmitter × Option (List Byte) × Bool :=
  (d.list, d.tx, d.statusWritten, d.free)

/-- Suite memory, the engine and what a frame boundary leaves of each deck stay. -/
structure Steers (s t : State) : Prop extends Aside s t where
  mem : t.mem = s.mem
  decks : ∀ n, (t.deck n).steady = (s.deck n).steady

theorem Steers.refl (s : State) : Steers s s := ⟨.refl s, rfl, fun _ => rfl⟩

theorem Steers.ite {c : Prop} [Decidable c] (h : Steers s t) (k : Steers s u) : Steers s (if c then t else u) := by
  split <;> assumption

theorem Steers.eachDeck (h : Steers s t) {f : Deck → State → State} (hf : ∀ n u, Steers s u → Steers s (f n u)) :
    Steers s (t.eachDeck f) := hf _ _ (hf _ _ (hf _ _ (hf _ _ (hf _ _ (hf _ _ h)))))

theorem Steers.onDeck (h : Steers s t) (n : Deck) {f : DeckUnit → DeckUnit} (hf : ∀ d, (f d).steady = d.steady) :
    Steers s (t.onDeck n f) := by
  refine ⟨h.toAside.onDeck n f, h.mem, fun m => ?_⟩
  by_cases hm : m = n
  · subst hm
    rw [State.onDeck_deck_self, hf]
    exact h.decks m
  · rw [State.onDeck_deck_ne _ _ hm]
    exact h.decks m

theorem Steers.onTracker (h : Steers s t) (n : Deck) (f : Tracker → Tracker) : Steers s (t.onTracker n f) :=
  h.onDeck n fun _ => rfl

theorem Steers.raise (h : Steers s t) (c : Cause) : Steers s (t.raise c) :=
  ⟨h.toAside.raise c, h.mem, h.decks⟩

theorem Steers.moveChase (h : Steers s t) (n : Deck) (f : Chase → Chase) : Steers s (t.moveChase n f) := by
  have hc : Steers s (t.onChase n f) := h.onDeck n fun _ => rfl
  exact (hc.raise _).ite hc

theorem Steers.offerTrim (h : Steers s t) (n : Deck) (c : Option LinkCommand) : Steers s (t.offerTrim n c) := by
  unfold State.offerTrim
  split
  · exact h
  · next c =>
    exact h.ite (h.onDeck n (f := fun d =>
      { d with link := d.link.replaceSeek, arbiter := { d.arbiter with trim := some c } }) fun d => by
        simp [DeckUnit.steady, DeckUnit.free, Link.replaceSeek])

theorem Steers.evaluateChase (h : Steers s t) (n : Deck) (x : Sample) : Steers s (t.evaluateChase n x) :=
  h.ite ((h.moveChase n _).offerTrim n _)

theorem Steers.masterSample (h : Steers s t) (m n : Deck) : Steers s (t.masterSample m n) :=
  (h.moveChase n _).ite h

theorem Steers.handOn (h : Steers s t) (n : Deck) {x : Sample} (hx : x.source = .flywheel) : Steers s (t.handOn n x) := by
  unfold State.handOn
  rw [if_pos hx]
  exact (h.evaluateChase n x).eachDeck fun m _ hu => hu.masterSample n m

theorem Steers.flywheelBoundary (h : Steers s t) (n : Deck) : Steers s (t.flywheelBoundary n) := by
  unfold State.flywheelBoundary
  extract_lets tr count
  split
  · split
    · split
      · exact h.onTracker n _
      · exact (h.onTracker n _).handOn n rfl
    · exact h.onTracker n _
  · exact h

theorem Steers.makePoll (h : Steers s t) (n : Deck) : Steers s (t.makePoll n) :=
  h.ite (h.onDeck n (f := fun d => { d with link := { d.link with pollPending := true } }) fun _ => rfl)

theorem Steers.boundaryPoll (h : Steers s t) (n : Deck) : Steers s (t.boundaryPoll n) := (h.makePoll n).ite h

theorem Steers.requestPosition (h : Steers s t) (n : Deck) : Steers s (t.requestPosition n) :=
  h.ite (h.onDeck n (f := fun d => { d with arbiter := { d.arbiter with positionRequest := true } }) fun _ => rfl)

theorem Steers.boundaryRequest (h : Steers s t) (n : Deck) : Steers s (t.boundaryRequest n) :=
  (h.requestPosition n).ite h

theorem writeMirror_eq (h : s.iface.topmem.val ≠ 0) :
    s.writeMirror =
      { s with
        mem := ((s.mem.store 0x29 [byte s.timeline.liveState.code]).store 0x28 [byte s.timeline.field.code]).store 0x24
          (wordOfField s.F) } := by
  have hl : 256 ≤ s.iface.limit := by simp only [Interface.limit]; omega
  unfold State.writeMirror
  rw [if_neg h, writeAll_of_limit]
  · rfl
  · simp only [List.forall_mem_cons, length_wordOfField, List.length_singleton]
    exact ⟨by omega, by omega, by omega, by simp⟩

/-- Suite memory with the mirror words of `s` written (R18). -/
def State.mirrored (s : State) : Memory :=
  ((s.mem.store 0x29 [byte s.timeline.liveState.code]).store 0x28 [byte s.timeline.field.code]).store 0x24
    (wordOfField s.F)

/-- A frame boundary: the mirror, the status records, and what it notes in the engine (R18, R192). -/
structure Bounded (s t : State) : Prop where
  mem : t.mem = Memory.statuses s s.mirrored Deck.list
  engine : t.engine = s.engine.boundary
  decks : ∀ n, (t.deck n).steady = (s.upToDate n (s.deck n)).steady

theorem frameBoundary_bounded (hr : RecordsInReach s) : Bounded s s.frameBoundary := by
  unfold State.frameBoundary
  extract_lets a b c d
  have ha : Recorded { s with mem := s.mirrored } a := by
    unfold a
    rw [writeMirror_eq hr.1]
    exact writeStatuses_recorded hr
  clear_value a
  have hb : Steers a b := (Steers.refl a).eachDeck fun n _ h => h.boundaryPoll n
  have hc : Steers a c := hb.eachDeck fun n _ h => h.flywheelBoundary n
  have hd : Steers a d := hc.eachDeck fun n _ h => h.boundaryRequest n
  clear_value d
  refine ⟨hd.mem.trans ha.mem, congrArg Engine.boundary (hd.engine.trans ha.engine), fun n => ?_⟩
  exact (hd.decks n).trans (congrArg DeckUnit.steady (ha.decks n))

theorem Bounded.linksBusy (h : Bounded s t) (hb : s.linksBusy) : t.linksBusy := by
  have hd (n : Deck) : (t.deck n).list = (s.deck n).list ∧ (t.deck n).free = (s.deck n).free := by
    have h := h.decks n
    simp only [DeckUnit.steady, State.upToDate, Prod.mk.injEq] at h
    obtain ⟨h₁, -, -, h₄⟩ := h
    rw [h₁, h₄]
    split <;> exact ⟨rfl, rfl⟩
  exact hb.congr (fun n => by rw [(hd n).1]; exact ⟨rfl, rfl⟩) fun n => (hd n).2

/-! ## The statements -/

theorem tickTo_timeline (s : State) (id : FieldId) (st : RefState) (k : Nat) :
    (s.tickTo id st k).timeline = s.timeline.advance id st k := by
  unfold State.tickTo
  rw [fieldFrameTick_timeline, (tickTimers_aside _).timeline]
  rfl

theorem tickTo_statusOf (s : State) (id : FieldId) (st : RefState) (k : Nat) (n : Deck) :
    (s.tickTo id st k).statusOf n = s.statusOf n := by
  unfold State.statusOf State.claimSlot State.claimed
  rw [tickTo_engine, tickTo_deck]
  rfl

theorem statuses_congr (hi : u.iface = v.iface) (hs : ∀ n, u.statusOf n = v.statusOf n)
    (hw : ∀ n, (u.deck n).statusWritten = (v.deck n).statusWritten) (m : Memory) (l : List Deck) :
    Memory.statuses u m l = Memory.statuses v m l := by
  simp only [Memory.statuses, State.statusDue, hi, hs, hw]

/-- Settles O22. -/
theorem fieldAdvanceAndFrameBoundary : Obligations.FieldAdvanceAndFrameBoundary := by
  refine ⟨fun s hs => ?_, fun s hs hb hn hf ht hl => ?_⟩
  · have hk := (Kept.refl s).timerExpiry
    refine ⟨_, exec_fieldTimerExpiry hs, ?_, fun h => ?_, ?_, hk.wf, hk.above⟩
    · have hx : s.expire.timeline = _ := advanceField_timeline hs.lostDue _ _ _
      rw [← timeline_expired, timerExpiry_eq]
      split
      · exact (raise_timeline _ _).trans hx
      · exact hx
    · rw [timerExpiry_eq, if_pos h]
      exact raise_pending _ _
    · have h : Steady s s.expire := advanceField_steady hs.lostDue _ _ _
      rw [timerExpiry_eq]
      split
      · exact h.trans (raise_steady _ _)
      · exact h
  · have hfirst : s.timeline.field.other = .first := by rw [hf]; rfl
    have hexp : s.expire = (s.tickTo .first s.timeline.expiredState s.timeline.expiredMiss).frameBoundary.settleDecks := by
      rw [State.expire, hfirst, advanceField_of_none hn, advance_eq, if_pos rfl]
    have hline := advanceField_timeline hs.lostDue s.timeline.field.other s.timeline.expiredState s.timeline.expiredMiss
    rw [hfirst, ← tickTo_timeline, ← hfirst] at hline
    change s.expire.timeline = _ at hline
    rw [hfirst] at hline
    have hi := tickTo_iface s .first s.timeline.expiredState s.timeline.expiredMiss
    have he := tickTo_engine s .first s.timeline.expiredState s.timeline.expiredMiss
    have hd := tickTo_deck s .first s.timeline.expiredState s.timeline.expiredMiss
    have hm := tickTo_mem s .first s.timeline.expiredState s.timeline.expiredMiss
    have hst := tickTo_statusOf s .first s.timeline.expiredState s.timeline.expiredMiss
    have hbv := tickTo_linksBusy hb .first s.timeline.expiredState s.timeline.expiredMiss
    have htl := tickTo_timeline s .first s.timeline.expiredState s.timeline.expiredMiss
    generalize s.tickTo .first s.timeline.expiredState s.timeline.expiredMiss = v at *
    have hbound := frameBoundary_bounded (s := v) ⟨by rwa [hi], by rwa [hi]⟩
    rw [settleDecks_of_busy (hbound.linksBusy hbv)] at hexp
    rw [← hexp] at hbound
    have hmem : s.expire.mem = Memory.statuses s (((s.mem.store 0x29 [byte s.expire.timeline.liveState.code]).store 0x28
        [0]).store 0x24 (wordOfField (s.timeline.F + 1))) Deck.list := by
      rw [hbound.mem, statuses_congr hi hst (fun n => by rw [hd]; rfl), hline, State.mirrored, hm]
      simp only [State.F, htl]
      rfl
    have hwritten (hc : s.iface.configured = true) (n : Deck) :
        (s.expire.deck n).statusWritten = some (s.statusOf n) := by
      have h := hbound.decks n
      rw [State.upToDate, hi, if_pos hc, hst] at h
      exact congrArg (fun x => x.2.2.1) h
    have hroll : s.expire.engine = s.engine.boundary := hbound.engine.trans (by rw [he])
    have hiff : s.engine.boundary.rollDue = true ↔
        s.engine.rollDue = true ∨ (s.engine.state = .cued ∧ s.engine.startPending = true) := by
      simp [Engine.boundary]
    rw [exec_fieldTimerExpiry hs, timerExpiry_eq]
    generalize s.expire = x at hmem hwritten hroll ⊢
    split
    · exact ⟨_, rfl, hmem, hwritten, by rw [State.raise, State.onIface_engine, hroll, hiff]⟩
    · exact ⟨_, rfl, hmem, hwritten, by rw [hroll, hiff]⟩

/-! ## The field frame -/

theorem Generator.update_content (g : Generator) (f : FieldCount) :
    (g.update f).content = (match g.state, g.event with
      | .carrying, some e => e.content f
      | _, _ => g.content) := by
  obtain ⟨st, ev, c⟩ := g
  cases st <;> cases ev <;> rfl

theorem Generator.update_rest (g : Generator) (f : FieldCount) :
    (g.update f).inProgress = g.inProgress ∧ (g.update f).sequence = g.sequence := by
  unfold Generator.update
  split <;> exact ⟨rfl, rfl⟩

/-- The field tick on an effects port that cannot begin a frame. -/
theorem fieldFrameTick_of_busy (h : s.ep.tx.state ≠ .idle ∨ s.generator.inProgress = true) :
    s.fieldFrameTick = s.onGenerator fun g => g.update s.F := by
  have hp := (s.generator.update_rest s.F).1
  unfold State.fieldFrameTick
  extract_lets v
  rw [if_neg]
  rintro ⟨h₁, h₂⟩
  rcases h with h | h
  · exact h h₁
  · simp [v, hp, h] at h₂

/-- The field tick on an IDLE effects port with no frame in progress (R150). -/
theorem fieldFrameTick_of_idle (h : s.ep.tx.state = .idle) (hp : s.generator.inProgress = false) :
    s.fieldFrameTick =
      { s with
        ep := { s.ep with
          tx := s.ep.tx.start (fieldFrame s.generator.sequence (s.generator.update s.F).content) }
        generator := { s.generator.update s.F with inProgress := true } } := by
  obtain ⟨h₁, h₂⟩ := s.generator.update_rest s.F
  unfold State.fieldFrameTick
  extract_lets v
  have hv : v.ep.tx.state = .idle ∧ (!v.generator.inProgress) = true := ⟨h, by simp [v, h₁, hp]⟩
  rw [if_pos hv]
  simp only [v, State.onGenerator, h₂]
  rfl

theorem Transmitter.start_of_idle {t : Transmitter} {b : Byte} {rest : List Byte} (hs : t.state = .idle)
    (hh : t.holding = none) (hx : t.shift = none) :
    t.start (b :: rest) = { state := .sending, holding := none, shift := some ⟨b, rest.isEmpty⟩, outgoing := rest } := by
  have h := Transmitter.placeNext_of_some (t := { t with outgoing := b :: rest }) (b := b) (rest := rest)
    (by simp [hs]) hh rfl
  rw [Transmitter.start, h, if_pos hx, hh]

theorem fieldFrame_eq (sequence : Byte) (c : Content) :
    fieldFrame sequence c = 0x9A :: (fieldFrame sequence c).tail := rfl

/-- What a field tick leaves in the generator and the effects port (R150). -/
structure FrameTicked (s : State) (f : FieldCount) (t : State) : Prop where
  content : t.generator.content = (s.generator.update f).content
  begun : s.ep.tx.state = .idle ∧ s.generator.inProgress = false → t.generator.inProgress = true ∧
    t.ep = { s.ep with tx := s.ep.tx.start (fieldFrame s.generator.sequence t.generator.content) }
  busy : s.ep.tx.state ≠ .idle ∨ s.generator.inProgress = true →
    t.ep = s.ep ∧ t.generator.inProgress = s.generator.inProgress

theorem fieldFrameTick_ticked (s : State) : FrameTicked s s.F s.fieldFrameTick := by
  by_cases h : s.ep.tx.state = .idle ∧ s.generator.inProgress = false
  · rw [fieldFrameTick_of_idle h.1 h.2]
    exact ⟨rfl, fun _ => ⟨rfl, rfl⟩, fun hb => by simp [h.1, h.2] at hb⟩
  · rw [fieldFrameTick_of_busy (not_and_or.mp h |>.imp_right (by simp))]
    exact ⟨rfl, fun hi => absurd hi h, fun _ => ⟨rfl, (s.generator.update_rest s.F).1⟩⟩

theorem tickTo_ticked (s : State) (id : FieldId) (st : RefState) (k : Nat) :
    FrameTicked s (s.F + 1) (s.tickTo id st k) := by
  have ha := tickTimers_aside (s.onTimeline fun t => t.advance id st k)
  have h := fieldFrameTick_ticked (s.onTimeline fun t => t.advance id st k).tickTimers
  have hF : (s.onTimeline fun t => t.advance id st k).tickTimers.F = s.F + 1 := ha.F
  rw [hF] at h
  obtain ⟨h₁, h₂, h₃⟩ := h
  rw [ha.generator] at h₁ h₂ h₃
  rw [ha.ep] at h₂ h₃
  exact ⟨h₁, h₂, h₃⟩

/-- Settles O23. -/
theorem fieldTickTicksAndSendsTheFrame : Obligations.FieldTickTicksAndSendsTheFrame := by
  intro s hs hb hn hf
  have hsecond : s.timeline.field.other = .second := by rw [hf]; rfl
  have hexp : s.expire = s.tickTo .second s.timeline.expiredState s.timeline.expiredMiss := by
    rw [State.expire, hsecond, advanceField_of_none hn, advance_eq, if_neg (by decide),
      settleDecks_of_busy (tickTo_linksBusy hb _ _ _)]
  have hm := tickTo_mem s .second s.timeline.expiredState s.timeline.expiredMiss
  have he := tickTo_engine s .second s.timeline.expiredState s.timeline.expiredMiss
  have hd := tickTo_deck s .second s.timeline.expiredState s.timeline.expiredMiss
  have hg := tickTo_ticked s .second s.timeline.expiredState s.timeline.expiredMiss
  rw [← hexp] at hm he hd hg
  have hbegun : s.ep.tx.state = .idle ∧ s.generator.inProgress = false → s.ep.tx.holding = none →
      s.ep.tx.shift = none → s.expire.generator.inProgress = true ∧
        s.expire.ep = { s.ep with tx :=
          { state := .sending, holding := none, shift := some ⟨0x9A, false⟩
            outgoing := (fieldFrame s.generator.sequence s.expire.generator.content).tail } } := fun h hh hx => by
    obtain ⟨h₁, h₂⟩ := hg.begun h
    rw [fieldFrame_eq, Transmitter.start_of_idle h.1 hh hx] at h₂
    exact ⟨h₁, h₂⟩
  have hcontent := hg.content.trans (s.generator.update_content _)
  have hbusy := hg.busy
  rw [exec_fieldTimerExpiry hs, timerExpiry_eq]
  generalize s.expire = x at *
  split
  · exact ⟨_, rfl, hm, he, hd, hcontent, hbegun, hbusy⟩
  · exact ⟨_, rfl, hm, he, hd, hcontent, hbegun, hbusy⟩

end Sys2Proof.Machine
end

section
/-!
PROOFS. The replies to an exchange, and its failures (R43 to R46).
-/

namespace Sys2Proof.Machine

variable {s t u v : State} {n m : Deck}

/-! ## The frame held -/

theorem State.onLink_onLink (s : State) (n : Deck) (f g : Link → Link) :
    (s.onLink n f).onLink n g = s.onLink n fun l => g (f l) := State.onDeck_onDeck s n _ _

/-- The frame held is a reply that fits the exchange outstanding. -/
structure Replied (s : State) (n : Deck) (e : Exchange) (r : Reply) (f : FieldCount) : Prop where
  exchange : (s.deck n).link.exchange = some e
  phase : e.phase ≠ .sending
  judged : (s.deck n).link.judged = some (.valid e.tag r, f)
  fits : r.fits e.command = true

theorem Replied.frameAct {e : Exchange} {r : Reply} {f : FieldCount} (h : Replied s n e r f) :
    (s.deck n).link.frameAct = .reply r := by
  have hc : e.concerns (.valid e.tag r) = true := by simp [Exchange.concerns, h.phase]
  simp [Link.frameAct, h.judged, h.exchange, hc, h.fits]

/-- The state once a final reply has ended the exchange, before it is delivered (R43, R46). -/
def State.heard (s : State) (n : Deck) : State :=
  s.onLink n fun l => { l with judged := none, exchange := none, failures := 0, state := l.state.heard }

/-- A reply delivered to the exchange's requester. -/
def State.deliver (s : State) (n : Deck) (e : Exchange) (f : FieldCount) : Reply → State
  | .taken => s.deliverTaken n e
  | .refused why => s.deliverRefused n e why
  | .state d => s.deliverState n d
  | .position p => s.takePosition n p f
  | .holdOn => s

theorem actOnFrame_of_reply {e : Exchange} {r : Reply} {f : FieldCount} (h : Replied s n e r f) (hr : r ≠ .holdOn) :
    s.actOnFrame n = (s.heard n).deliver n e f r := by
  cases r with
  | holdOn => exact absurd rfl hr
  | _ =>
    simp only [State.actOnFrame, h.frameAct, h.exchange, h.judged, State.finalReply, State.onLink_onLink]
    rfl

theorem replyRow_of_reply {e : Exchange} {r : Reply} {f : FieldCount} (h : Replied s n e r f) {is : Reply → Bool}
    (hr : is r = true) : s.replyRow n is = (s.actOnFrame n).settleDecks := by
  have hdue : (Act.frame n).due s = true := by simp [Act.due, h.judged]
  unfold State.replyRow
  simp only [h.judged, h.frameAct, hr]
  rw [if_pos (by simp), row_of_due hdue]
  rfl

section
variable {e : Exchange} {f : FieldCount} (hs : s.ready)
include hs

theorem exec_replyTaken (h : Replied s n e .taken f) :
    exec (.replyTaken n) s = .next ((s.heard n).deliverTaken n e).settleDecks :=
  (command_of_ready hs fun s => s.replyRow n fun r => r == .taken).trans
    (by rw [replyRow_of_reply h rfl, actOnFrame_of_reply h (by simp)]; rfl)

theorem exec_replyRefused {r : RefusalReason} (h : Replied s n e (.refused r) f) :
    exec (.replyRefused n) s = .next ((s.heard n).deliverRefused n e r).settleDecks :=
  (command_of_ready hs fun s => s.replyRow n Reply.isRefused).trans
    (by rw [replyRow_of_reply h rfl, actOnFrame_of_reply h (by simp)]; rfl)

theorem exec_replyState {d : DeckState} (h : Replied s n e (.state d) f) :
    exec (.replyState n) s = .next ((s.heard n).deliverState n d).settleDecks :=
  (command_of_ready hs fun s => s.replyRow n Reply.isState).trans
    (by rw [replyRow_of_reply h rfl, actOnFrame_of_reply h (by simp)]; rfl)

theorem exec_replyPosition {p : Option TapePosition} (h : Replied s n e (.position p) f) :
    exec (.replyPosition n) s = .next ((s.heard n).takePosition n p f).settleDecks :=
  (command_of_ready hs fun s => s.replyRow n Reply.isPosition).trans
    (by rw [replyRow_of_reply h rfl, actOnFrame_of_reply h (by simp)]; rfl)

theorem exec_replyHoldOn (h : Replied s n e .holdOn f) :
    exec (.replyHoldOn n) s = .next ((s.onLink n fun l => { l with judged := none }).holdOn n).settleDecks :=
  (command_of_ready hs fun s => s.replyRow n fun r => r == .holdOn).trans (by
    rw [replyRow_of_reply h rfl]
    simp only [State.actOnFrame, h.frameAct])

end

theorem State.heard_list (s : State) (n : Deck) : ((s.heard n).deck n).list = (s.deck n).list := by simp [State.heard]

/-! ## Completion -/

/-- Settles O33. -/
theorem completionWritesTheRecord : Obligations.CompletionWritesTheRecord := by
  intro s n h r hl
  unfold State.completeRecord
  rw [writeAll_of_limit]
  · have hx (l : CommandList) : (l.head == some h) = decide (l.head = some h) := by rw [Bool.beq_eq_decide_eq]
    have hb : byte (if r.done = true then 3 else 4) = if r.done = true then 3 else 4 := by split <;> rfl
    simp only [CommandList.remove, hx, hb]
    rfl
  · simp only [List.forall_mem_cons, length_half, List.length_singleton]
    refine ⟨?_, by omega, by omega, by simp⟩
    simp [HostResult.bytes, halfOfField]
    omega

/-- A change of one deck that leaves its link with an exchange leaves the decks at rest. -/
theorem State.decksAtRest.onDeck_busy (h : s.decksAtRest) {f : DeckUnit → DeckUnit}
    (hl : (f (s.deck n)).list = (s.deck n).list) (hf : (f (s.deck n)).free = false) : (s.onDeck n f).decksAtRest := by
  intro m
  by_cases hm : m = n
  · subst hm
    simp only [State.deckAtRest, State.onDeck_deck_self, hl, hf]
    exact ⟨(h m).1, (h m).2.1, .inl trivial⟩
  · exact deckAtRest_congr (h m) (by rw [State.onDeck_deck_ne _ _ hm]) rfl rfl

/-- Settles O34. -/
theorem holdOnKeepsTheExchange : Obligations.HoldOnKeepsTheExchange := by
  intro s n e f hs hd he hp hj
  have h : Replied s n e .holdOn f := ⟨he, hp, hj, rfl⟩
  rw [exec_replyHoldOn hs h]
  have heq : (s.onLink n fun l => { l with judged := none }).holdOn n = s.onDeck n fun d =>
        { d with link := { d.link with
          judged := none
          exchange := some { e with
            phase := .holding
            timer := if d.settings.holdTimeout = 0 then none else some d.settings.holdTimeout }
          state := if d.link.state = .probing then .up else d.link.state } } := by
    refine (State.onDeck_onDeck s n _ _).trans (State.onDeck_congr ?_)
    simp only [he, Option.map_some, loadTimer]
  rw [heq, settleDecks_of_rest]
  exact hd.onDeck_busy rfl (DeckUnit.free_of_exchange rfl)

theorem Link.makeSeek_of_other {e : Exchange} (h : e.command.isSeek = false) (l : Link) (k : Nat) : l.makeSeek e k = l := by
  unfold Link.makeSeek
  split
  · next hc => simp [hc, LinkCommand.isSeek] at h
  · rfl

/-- TAKEN delivered for a command that is no SEEK makes no pending seek. -/
theorem deliverTaken_of_other {e : Exchange} (h : e.command.isSeek = false) (hr : e.requester = .host) :
    s.deliverTaken n e = s.hostTaken n e.command := by
  have hs : (s.onDeck n fun d => { d with link := d.link.makeSeek e d.settings.seekLimit }) = s :=
    State.onDeck_self (by rw [Link.makeSeek_of_other h])
  simp only [State.deliverTaken, hs, hr]

/-- Settles O31. -/
theorem finalReplyEndsAHostExchange : Obligations.FinalReplyEndsAHostExchange := by
  intro s n e f h hs he hr hp hc
  have hchosen : ((s.heard n).deck n).list.chosen = some h := by rw [State.heard_list, hc]
  refine ⟨fun hj hm => ?_, fun r hj => ?_⟩
  · have hrep : Replied s n e .taken f := ⟨he, hp, hj, by simp [Reply.fits, Reply.finalFits, hm]⟩
    rw [exec_replyTaken hs hrep]
    refine ⟨fun hseek => ?_, fun a df hcmd => ?_⟩
    · rw [deliverTaken_of_other hseek hr]
      simp only [State.hostTaken, hchosen, hseek, Bool.false_eq_true, if_false]
      rfl
    · have hlive : e.seekLive = e.live := by simp [Exchange.seekLive, hr]
      have hchosen' : (((s.heard n).onDeck n fun d =>
          { d with link := d.link.makeSeek e d.settings.seekLimit }).deck n).list.chosen = some h := by
        rw [State.onDeck_deck_self]
        exact hchosen
      have hs' : LinkCommand.isSeek (.seek a df) = true := rfl
      simp only [State.deliverTaken, hr, State.hostTaken, hchosen', hcmd, hs', if_true]
      refine congrArg (fun t => Host.Outcome.next (State.settleDecks t)) ?_
      simp only [State.heard, State.onLink, State.onList, State.onDeck_onDeck]
      refine State.onDeck_congr ?_
      simp only [Link.makeSeek, hcmd, hr, hlive, loadTimer]
  · have hrep : Replied s n e (.refused r) f := ⟨he, hp, hj, rfl⟩
    rw [exec_replyRefused hs hrep]
    simp only [State.deliverRefused, hr, State.hostRefused, hchosen]
    rfl

/-! ## Samples handed on -/

@[simp] theorem readMem_deck (s : State) (a k : Nat) (n : Deck) : (s.readMem a k).2.deck n = s.deck n :=
  (Beside.readMem s a k).decks n

theorem deck_of_readMem {a k : Nat} {x : Option (List Byte)} (e : s.readMem a k = (x, t)) (n : Deck) :
    t.deck n = s.deck n := by
  rw [← readMem_deck s a k n, e]

theorem deck_of_writeAll {ws : List (Nat × List Byte)} {b : Bool} (e : s.writeAll ws = (b, t)) (n : Deck) :
    t.deck n = s.deck n := by
  rw [← writeAll_deck s ws n, e]

theorem rereadLog_deck (s : State) (n : Deck) : s.rereadLog.deck n = s.deck n := by
  unfold State.rereadLog
  split
  · rfl
  · split
    · next e => exact deck_of_readMem e n
    · next e => exact deck_of_readMem e n

theorem placeEntry_deck (s : State) (x : LogEntry) (n : Deck) : (s.placeEntry x).deck n = s.deck n := by
  unfold State.placeEntry
  extract_lets k
  split
  · next e => exact deck_of_writeAll e n
  · next e =>
    unfold State.judgeThreshold
    split
    · exact deck_of_writeAll e n
    · exact deck_of_writeAll e n

theorem appendLog_deck (s : State) (x : LogEntry) (n : Deck) : (s.appendLog x).deck n = s.deck n := by
  unfold State.appendLog
  split
  · rfl
  · split
    · extract_lets a
      have ha : a.deck n = s.deck n := rereadLog_deck s n
      split
      · exact (writeMem_deck a _ _ n).trans ha
      · exact (placeEntry_deck a x n).trans ha
    · exact placeEntry_deck s x n

theorem requestPulse_deck (s : State) (fn : OutputFunction) (l : Line) (w : Nat) (n : Deck) :
    (s.requestPulse fn l w).deck n = s.deck n := by
  unfold State.requestPulse
  split <;> rfl

theorem fireMark_deck (s : State) (i : Nat) (k : Mark) (x : Sample) (n : Deck) :
    (s.fireMark i k x).deck n = s.deck n := by
  unfold State.fireMark
  extract_lets a b c
  have ha : a.deck n = s.deck n := by
    unfold a
    split
    · exact appendLog_deck s _ n
    · rfl
  clear_value a
  have hb : b.deck n = s.deck n := by
    unfold b
    split
    · exact (requestPulse_deck a _ _ _ n).trans ha
    · exact ha
  clear_value b
  have hc : c.deck n = s.deck n := by
    unfold c
    split
    · exact hb
    · exact hb
  split
  · exact hc
  · exact hc

theorem compareMark_deck (s : State) (k : Deck) (x : Sample) (d : Option Int) (i : Nat) (n : Deck) :
    (s.compareMark k x d i).deck n = s.deck n := by
  unfold State.compareMark
  extract_lets mk a
  split
  · split
    · exact fireMark_deck a i mk x n
    · rfl
  · rfl

theorem foldl_deck_keeps {α : Type} {f : State → α → State} (hf : ∀ u x n, (f u x).deck n = u.deck n) (l : List α)
    (s : State) (n : Deck) : (l.foldl f s).deck n = s.deck n := by
  induction l generalizing s with
  | nil => rfl
  | cons x l ih => exact (ih _).trans (hf s x n)

theorem compareMarks_deck (s : State) (k : Deck) (x : Sample) (n : Deck) : (s.compareMarks k x).deck n = s.deck n := by
  unfold State.compareMarks
  extract_lets d a
  rw [State.onMarks_deck]
  exact foldl_deck_keeps (f := fun s i => s.compareMark k x d i) (fun u i n => compareMark_deck u k x d i n) _ s n

/-- What is spared of every deck stays. -/
def SparesDecks (s t : State) : Prop := ∀ n, (t.deck n).spared = (s.deck n).spared

theorem SparesDecks.refl (s : State) : SparesDecks s s := fun _ => rfl

theorem SparesDecks.trans (h : SparesDecks s t) (k : SparesDecks t u) : SparesDecks s u :=
  fun n => (k n).trans (h n)

theorem SparesDecks.onDeck (h : SparesDecks s t) (n : Deck) {f : DeckUnit → DeckUnit}
    (hf : ∀ d, (f d).spared = d.spared) : SparesDecks s (t.onDeck n f) := fun m => by
  by_cases hm : m = n
  · subst hm
    rw [State.onDeck_deck_self, hf]
    exact h m
  · rw [State.onDeck_deck_ne _ _ hm]
    exact h m

theorem moveChase_spares (s : State) (n : Deck) (f : Chase → Chase) : SparesDecks s (s.moveChase n f) := by
  have hc : SparesDecks s (s.onChase n f) := (SparesDecks.refl s).onDeck n fun _ => rfl
  unfold State.moveChase
  extract_lets old a
  split
  · exact hc
  · exact hc

theorem Link.replaceSeek_target (l : Link) :
    l.replaceSeek.seek.map PendingSeek.target = l.seek.map PendingSeek.target := by
  cases h : l.seek with
  | none => simp [Link.replaceSeek, h]
  | some p => by_cases hp : p.requester = .chase <;> simp [Link.replaceSeek, h, hp]

theorem offerTrim_spares (s : State) (n : Deck) (c : Option LinkCommand) : SparesDecks s (s.offerTrim n c) := by
  unfold State.offerTrim
  split
  · exact .refl s
  · split
    · exact .refl s
    · exact (SparesDecks.refl s).onDeck n fun d => by simp only [DeckUnit.spared, Link.replaceSeek_target]; rfl

theorem handOn_spares (s : State) (n : Deck) (x : Sample) : SparesDecks s (s.handOn n x) := by
  have heval : SparesDecks s (s.evaluateChase n x) := by
    unfold State.evaluateChase
    extract_lets c r
    split
    · exact .refl s
    · exact (moveChase_spares s n _).trans (offerTrim_spares _ n _)
  unfold State.handOn
  extract_lets a
  have ha : SparesDecks s a := by
    unfold a
    rw [eachDeck_eq_foldl]
    generalize s.evaluateChase n x = v at heval
    refine List.foldlRecOn (motive := SparesDecks s) Deck.list _ heval fun u hu m _ => ?_
    unfold State.masterSample
    extract_lets c
    split
    · exact hu.trans (moveChase_spares u m _)
    · exact hu
  clear_value a
  split
  · exact ha
  · exact fun m => by rw [compareMarks_deck]; exact ha m

theorem SparesDecks.tracker (h : SparesDecks s t) (n : Deck) : (t.deck n).tracker = (s.deck n).tracker :=
  congrArg Prod.fst (h n)

theorem SparesDecks.linkState (h : SparesDecks s t) (n : Deck) : (t.deck n).link.state = (s.deck n).link.state :=
  congrArg (fun x => x.2.2.2.1) (h n)

theorem SparesDecks.failures (h : SparesDecks s t) (n : Deck) : (t.deck n).link.failures = (s.deck n).link.failures :=
  congrArg (fun x => x.2.2.2.2.1) (h n)

theorem settleDecks_spares (s : State) : SparesDecks s s.settleDecks := (Spares.refl s).settleDecks.decks

/-- What a POSITION makes of the tracker (R78). -/
def Tracker.takePosition (t : Tracker) (p : Option TapePosition) (f : FieldCount) : Tracker :=
  if t.quality = .ltc ∨ t.quality = .flywheel then t
  else
    match p with
    | none => { t with quality := .none }
    | some p => t.acceptPlain t.history ⟨2 * p.frame + p.field.code, p.kind, f, .link⟩

theorem SparesDecks.of_eq (h : t = s) : SparesDecks s t := h ▸ .refl t

theorem takePosition_spares (s : State) (n : Deck) (p : Option TapePosition) (f : FieldCount) :
    SparesDecks (s.onTracker n fun t => t.takePosition p f) (s.takePosition n p f) := by
  have hcongr {g : Tracker → Tracker} (h : (s.deck n).tracker.takePosition p f = g (s.deck n).tracker) :
      (s.onTracker n fun t => t.takePosition p f) = s.onTracker n g := State.onDeck_congr (by simp only [h])
  have hself (h : (s.deck n).tracker.takePosition p f = (s.deck n).tracker) :
      (s.onTracker n fun t => t.takePosition p f) = s := (hcongr (g := id) h).trans (State.onDeck_self rfl)
  unfold State.takePosition
  cases hq : (s.deck n).tracker.quality with
  | ltc => exact .of_eq (by simp only [hq]; rw [hself (by simp [Tracker.takePosition, hq])])
  | flywheel => exact .of_eq (by simp only [hq]; rw [hself (by simp [Tracker.takePosition, hq])])
  | none =>
    cases p with
    | none =>
      have hsame (t : Tracker) (h : t.quality = .none) : t.takePosition none f = t := by
        cases t
        simp_all [Tracker.takePosition]
      exact .of_eq (by simp only [hq]; rw [hself (hsame _ hq)])
    | some p =>
      simp only [hq]
      rw [hcongr (g := fun t => t.acceptPlain t.history ⟨2 * p.frame + p.field.code, p.kind, f, .link⟩)
        (by simp [Tracker.takePosition, hq])]
      exact handOn_spares _ n _
  | link =>
    cases p with
    | none =>
      exact .of_eq (by
        simp only [hq]
        rw [hcongr (g := fun t => { t with quality := .none }) (by simp [Tracker.takePosition, hq])])
    | some p =>
      simp only [hq]
      rw [hcongr (g := fun t => t.acceptPlain t.history ⟨2 * p.frame + p.field.code, p.kind, f, .link⟩)
        (by simp [Tracker.takePosition, hq])]
      exact handOn_spares _ n _

/-- Settles O36. -/
theorem positionReplyMakesALinkSample : Obligations.PositionReplyMakesALinkSample := by
  intro s n e p f hs he hp hc hj
  have hrep : Replied s n e (.position p) f := ⟨he, hp, hj, by simp [Reply.fits, Reply.finalFits, hc]⟩
  have hstand := ((((Calm.refl s).onLink n fun l => { l with
    judged := none, exchange := none, failures := 0, state := l.state.heard }).takePosition n p f).settleDecks).standing
  have hsp := (takePosition_spares (s.heard n) n p f).trans (settleDecks_spares _)
  have htr : ((((s.heard n).takePosition n p f).settleDecks).deck n).tracker = (s.deck n).tracker.takePosition p f := by
    rw [hsp.tracker]
    simp [State.heard]
  refine ⟨_, exec_replyPosition hs hrep, fun m hm => ?_, ?_, ?_, hstand, fun hq => ?_, fun hq hp => ?_, fun hq q hp => ?_⟩
  · rw [hsp.tracker]
    simp only [State.heard, State.onTracker, State.onLink, State.onDeck_deck_ne _ _ hm]
  · rw [hsp.failures]
    simp [State.heard]
  · rw [hsp.linkState]
    simp [State.heard]
  · exact htr.trans (if_pos hq)
  · have hn : ¬ ((s.deck n).tracker.quality = .ltc ∨ (s.deck n).tracker.quality = .flywheel) := by
      rcases hq with h | h <;> simp [h]
    subst hp
    exact htr.trans (if_neg hn)
  · have hn : ¬ ((s.deck n).tracker.quality = .ltc ∨ (s.deck n).tracker.quality = .flywheel) := by
      rcases hq with h | h <;> simp [h]
    rw [htr, hp, show (s.deck n).tracker.takePosition (some q) f = _ from if_neg hn]
    exact ⟨rfl, rfl, rfl, rfl, rfl⟩

end Sys2Proof.Machine
end

section
/-!
PROOFS. The exchanges that fail (R43 to R46), and what they end.
-/

namespace Sys2Proof.Machine

variable {s t u v : State} {n m : Deck}

/-! ## What an abort leaves of every deck -/

/-- What of a deck does not depend on its engine queue, on its capture and on the end of its chase stays at an abort,
whatever the claims. -/
theorem abort_deck_keeps {α : Type} {g : DeckUnit → α} (s : State) (code : FaultCode)
    (hq : ∀ d q, g { d with arbiter := { d.arbiter with engineQueue := q } } = g d)
    (hc : ∀ d c, g { d with capture := c } = g d) (he : ∀ d, g d.chaseEnded = g d) (m : Deck) :
    g ((s.abort code).deck m) = g (s.deck m) := by
  have hempty (u : State) (k : Deck) : g ((u.emptyEngineQueue k).deck m) = g (u.deck m) := by
    rw [emptyEngineQueue_deck]
    split
    · next h => rw [DeckUnit.queueEmptied, hq, h]
    · rfl
  have hoffer (u : State) (k : Deck) (r : EngineRequest) : g ((u.offerEngine k r).2.deck m) = g (u.deck m) := by
    rw [offerEngine_deck]
    split
    · next h =>
      subst h
      unfold DeckUnit.offered
      split
      · exact hq _ _
      · exact hc _ _
    · rfl
  have hend (u : State) (k : Deck) : g ((u.endChase k).deck m) = g (u.deck m) := by
    rw [endChase_deck]
    split
    · next h => rw [he, h]
    · rfl
  have hfold {f : State → Deck → State} (hf : ∀ u k, g ((f u k).deck m) = g (u.deck m)) (u : State) :
      g ((u.eachClaimed f).deck m) = g (u.deck m) :=
    List.foldlRecOn (motive := fun v => g (v.deck m) = g (u.deck m)) _ _ rfl fun v hv k _ => (hf v k).trans hv
  unfold State.abort
  split
  · extract_lets a b c d e f w x
    have hb : g (b.deck m) = g (s.deck m) := hfold hempty a
    clear_value b
    have hcd : g (c.deck m) = g (s.deck m) := (congrArg g ((Beside.abandonPunches b).decks m)).trans hb
    clear_value c
    have hd : g (d.deck m) = g (s.deck m) := by
      unfold d State.abortPunchOut
      split
      · exact hcd
      · split
        · exact (hoffer c _ _).trans hcd
        · exact hcd
    clear_value d
    have hee : g (e.deck m) = g (s.deck m) := (hfold (fun u k => hoffer u k _) d).trans hd
    clear_value e
    exact (hfold hend f).trans hee
  · rfl

theorem Link.dropChase_dropChase (l : Link) : l.dropChase.dropChase = l.dropChase := by
  have hx (x : Option Exchange) : (x.map fun e => if e.requester = .chase then { e with live := false } else e).map
      (fun e => if e.requester = .chase then { e with live := false } else e) =
      x.map fun e => if e.requester = .chase then { e with live := false } else e := by
    cases x with
    | none => rfl
    | some e => by_cases h : e.requester = .chase <;> simp [h]
  have hp (x : Option PendingSeek) : (x.map fun p => if p.requester = .chase then { p with live := false } else p).map
      (fun p => if p.requester = .chase then { p with live := false } else p) =
      x.map fun p => if p.requester = .chase then { p with live := false } else p := by
    cases x with
    | none => rfl
    | some e => by_cases h : e.requester = .chase <;> simp [h]
  simp only [Link.dropChase, hx, hp]

theorem DeckUnit.chaseEnded_link (d : DeckUnit) : d.chaseEnded.link.dropChase = d.link.dropChase := by
  unfold DeckUnit.chaseEnded
  split
  · rfl
  · exact Link.dropChase_dropChase d.link

/-- An abort does no more to a link than to let go of the chase's exchange and seek. -/
theorem abort_link (s : State) (code : FaultCode) (m : Deck) :
    ((s.abort code).deck m).link.dropChase = (s.deck m).link.dropChase :=
  abort_deck_keeps (g := fun d => d.link.dropChase) s code (fun _ _ => rfl) (fun _ _ => rfl) DeckUnit.chaseEnded_link m

theorem Link.exchange_of_dropChase {l k : Link} (h : l.dropChase = k.dropChase) (hk : k.exchange = none) :
    l.exchange = none := by
  have := congrArg Link.exchange h
  simpa [Link.dropChase, hk] using this

theorem Link.seek_of_dropChase {l k : Link} (h : l.dropChase = k.dropChase) (hk : k.seek = none) : l.seek = none := by
  have := congrArg Link.seek h
  simpa [Link.dropChase, hk] using this

/-! ## Beginning a frame -/

/-- A frame begun on an idle port (R36, R41, R42). -/
def DeckUnit.begun (e : Exchange) (d : DeckUnit) : DeckUnit :=
  { d with
    link := { d.link with
      exchange := some { e with tag := d.link.nextTag, phase := .sending, timer := none }
      nextTag := d.link.nextTag + 1
      judged := none }
    tx := ⟨.sending, none, some ⟨0xC9, false⟩, (commandFrame d.link.nextTag e.command).tail⟩ }

/-- The port is idle, with nothing in its holding byte or its shift. -/
structure Transmitter.Resting (x : Transmitter) : Prop where
  state : x.state = .idle
  holding : x.holding = none
  shift : x.shift = none

theorem Transmitter.Resting.start {x : Transmitter} (h : x.Resting) (tag : BitVec 7) (c : LinkCommand) :
    x.start (commandFrame tag c) = ⟨.sending, none, some ⟨0xC9, false⟩, (commandFrame tag c).tail⟩ :=
  Transmitter.start_of_idle h.state h.holding h.shift

theorem PunchPlan.set_get (p : PunchPlan) (i : PunchId) : p.set i (p.get i) = p := by cases i <;> rfl

/-- The beginning of a frame tells nothing to a punch that is no longer QUEUED (R136). -/
theorem punchBegun_of_begun {i : PunchId} (h : ∀ x, s.engine.punches.get i = some x → x.status ≠ .queued) :
    s.punchBegun i = s := by
  have hmap : (s.engine.punches.get i).map (fun p =>
      if p.status = .queued then { p with status := .begun, actual := some s.F } else p) = s.engine.punches.get i := by
    cases hx : s.engine.punches.get i with
    | none => rfl
    | some x => simp [h x hx]
  unfold State.punchBegun State.onEngine
  simp only [hmap, PunchPlan.set_get]

/-- The beginning of a frame changes the deck alone, when its requester keeps no account of it. -/
theorem beginFrame_of_resting {e : Exchange} (hx : (s.deck n).tx.Resting)
    (hr : e.requester = .host ∨ e.requester = .tracker ∨
      e.requester = .engine ∧ ∀ i x, e.punch = some i → s.engine.punches.get i = some x → x.status ≠ .queued) :
    s.beginFrame n e = s.onDeck n (DeckUnit.begun e) := by
  have hstart : (s.onDeck n fun d => { d with
      link := { d.link with
        exchange := some { e with tag := (s.deck n).link.nextTag, phase := .sending, timer := none }
        nextTag := d.link.nextTag + 1, judged := none }
      tx := d.tx.start (commandFrame (s.deck n).link.nextTag e.command) }) = s.onDeck n (DeckUnit.begun e) :=
    State.onDeck_congr (by simp only [DeckUnit.begun, hx.start])
  unfold State.beginFrame
  simp only [hstart]
  rcases hr with hr | hr | ⟨hr, hp⟩
  · simp only [hr]
  · simp only [hr]
  · simp only [hr]
    cases hi : e.punch with
    | none => rfl
    | some i =>
      simp only []
      rw [punchBegun_of_begun (s := s.onDeck n (DeckUnit.begun e)) fun x h => hp i x hi h, ite_self]

/-! ## The rows of a failed exchange -/

theorem exec_garbledFrame {e : Exchange} {f : FieldCount} (hs : s.ready) (he : (s.deck n).link.exchange = some e)
    (hp : e.phase ≠ .sending) (hj : (s.deck n).link.judged = some (.garbled, f)) :
    exec (.garbledFrame n) s =
      .next ((s.onLink n fun l => { l with judged := none }).failExchange n .garbled).settleDecks := by
  have hact : (s.deck n).link.frameAct = .garbled := by simp [Link.frameAct, hj, he, Exchange.concerns, hp]
  have hdue : (Act.frame n).due s = true := by simp [Act.due, hj]
  refine (command_of_ready hs fun s => s.garbledRow n).trans (congrArg Host.Outcome.next ?_)
  unfold State.garbledRow
  simp only [hact, or_true, if_true]
  rw [row_of_due hdue]
  simp only [Act.run, State.actOnFrame, hact]

theorem exec_replyTimerExpiry {e : Exchange} (hs : s.ready) (he : (s.deck n).link.exchange = some e)
    (ht : e.timer = some 0) : exec (.replyTimerExpiry n) s = .next (s.failExchange n .expiry).settleDecks := by
  have hdue : (Act.reply n).due s = true := by simp [Act.due, Link.replyDue, he, ht]
  exact (command_of_ready hs fun s => s.row (.reply n)).trans (congrArg Host.Outcome.next (row_of_due hdue))

/-! ## A retry -/

/-- An exchange of the host or the engine may be begun again. -/
def State.mayRetry (s : State) (e : Exchange) : Prop :=
  ((e.requester = .host ∧ e.overtaken = false) ∨ (e.requester = .engine ∧
    ∀ i x, e.punch = some i → s.engine.punches.get i = some x → x.status ≠ .queued)) ∧ 0 < e.retries

theorem failExchange_of_retry {e : Exchange} (he : (s.deck n).link.exchange = some e) (hr : s.mayRetry e)
    (hx : (s.deck n).tx.Resting) (why : Failure) :
    s.failExchange n why =
      s.onDeck n (DeckUnit.begun { e with lastFailure := some why, retries := e.retries - 1 }) := by
  obtain ⟨hq, hretries⟩ := hr
  unfold State.failExchange
  simp only [he, hretries, if_true]
  rcases hq with ⟨hq, ho⟩ | ⟨hq, hp⟩
  · simp only [hq, ho, Bool.false_eq_true, if_false]
    exact beginFrame_of_resting hx (.inl rfl)
  · simp only [hq]
    exact beginFrame_of_resting hx (.inr (.inr ⟨rfl, hp⟩))

/-- Settles O37. -/
theorem failedExchangeIsRetried : Obligations.FailedExchangeIsRetried := by
  intro s n e hs hd he hq hretries hi hh hsh
  have hx : (s.deck n).tx.Resting := ⟨hi, hh, hsh⟩
  refine ⟨fun f hp hj => ?_, fun ht => ?_⟩
  · rw [exec_garbledFrame hs he hp hj, failExchange_of_retry (e := e) (s := s.onLink n _) (by simpa using he)
      ⟨hq, hretries⟩ (by simpa using hx)]
    rw [State.onLink, State.onDeck_onDeck, settleDecks_of_rest (hd.onDeck_busy rfl (DeckUnit.free_of_exchange rfl))]
    exact congrArg Host.Outcome.next (State.onDeck_congr (by simp only [DeckUnit.begun, hh]))
  · rw [exec_replyTimerExpiry hs he ht, failExchange_of_retry he ⟨hq, hretries⟩ hx]
    rw [settleDecks_of_rest (hd.onDeck_busy rfl (DeckUnit.free_of_exchange rfl))]
    exact congrArg Host.Outcome.next (State.onDeck_congr (by simp only [DeckUnit.begun, hh]))

/-! ## The end of a record -/

theorem completeRecord_deck (s : State) (n : Deck) (h : HeldRecord) (r : HostResult) (m : Deck) :
    (s.completeRecord n h r).deck m =
      if m = n then { s.deck n with list := (s.deck n).list.remove h } else s.deck m := by
  unfold State.completeRecord
  extract_lets a
  have ha (m : Deck) : a.deck m = s.deck m := by
    unfold a
    split
    · next e => exact deck_of_writeAll e m
    · next e => exact deck_of_writeAll e m
  clear_value a
  by_cases hm : m = n
  · subst hm; rw [if_pos rfl, State.onList_deck_self, ha]
  · simp [State.onList_deck_ne _ _ hm, ha, hm]

theorem completeRecord_aside (s : State) (n : Deck) (h : HeldRecord) (r : HostResult) :
    Aside s (s.completeRecord n h r) := by
  unfold State.completeRecord
  have hw := (Aside.refl s).writeAll [(h.offset + 4, r.bytes s.F), (h.offset + 2, half h.tag.toNat),
    (h.offset, [byte (if r.done then 3 else 4)])]
  refine Aside.onDeck ?_ n _
  split
  · next e => rw [e] at hw; exact hw.raise _
  · next e => rw [e] at hw; exact hw

/-- While one deck's link is about to enter DOWN and the other decks rest, nothing is settled (log entry 55). -/
theorem settleDecks_of_downDue (hs : s.decksAtRest) (ht : ∀ m, m ≠ n → t.deck m = s.deck m)
    (hd : (t.deck n).link.downDue = true) (ha : Aside s t) : t.settleDecks = t := by
  have hfree : (t.deck n).free = false := by simp [DeckUnit.free, hd]
  have hother (m : Deck) (hm : m ≠ n) : t.deckAtRest m :=
    deckAtRest_congr (hs m) (by rw [ht m hm]) ha.engine (by rw [ha.timeline])
  have hservice (m : Deck) : t.service m = t := by
    by_cases hm : m = n
    · subst hm; simp [State.service, hd]
    · exact service_of_rest (hother m hm)
  have harbitrate (m : Deck) : t.arbitrate m 32 = t := by
    by_cases hm : m = n
    · subst hm; simp [State.arbitrate, hfree]
    · exact arbitrate_of_rest (hother m hm) 32
  simp [State.settleDecks, State.eachDeck, hservice, harbitrate]

/-! ## An exchange with no retry left -/

/-- The link is PROBING or UP, from where it can enter DOWN (R46). -/
def Link.Standing (l : Link) : Prop := l.state = .probing ∨ l.state = .up

/-- The link's exchange ended, its failure counted, and whether it is about to enter DOWN. -/
def Link.failed (due : Bool) (l : Link) : Link :=
  { l with exchange := none, failures := min 255 (l.failures + 1), downDue := due }

theorem Link.endFailed_exhausted {l : Link} (h : l.Standing) (limit : Nat) : l.endFailed limit true = l.failed true := by
  rcases h with h | h <;> simp [Link.endFailed, Link.failed, h]

theorem Link.endFailed_counted {l : Link} (h : l.Standing) (hd : l.downDue = false) (limit : Nat) :
    l.endFailed limit false = l.failed (decide (limit ≤ min 255 (l.failures + 1))) := by
  rcases h with h | h <;> simp [Link.endFailed, Link.failed, h, hd]

theorem endFailed_exhausted (h : (s.deck n).link.Standing) : s.endFailed n true = s.onLink n (Link.failed true) :=
  State.onDeck_congr (by rw [Link.endFailed_exhausted h])

/-- The counted failure of a deck's link. -/
def State.counted (s : State) (n : Deck) : State :=
  s.onDeck n fun d =>
    { d with link := d.link.failed (decide (d.settings.lossLimit ≤ min 255 (d.link.failures + 1))) }

theorem endFailed_counted (h : (s.deck n).link.Standing) (hd : (s.deck n).link.downDue = false) :
    s.endFailed n false = s.counted n := by
  unfold State.endFailed State.counted
  exact State.onDeck_congr (by rw [Link.endFailed_counted h hd])

section
variable {e : Exchange} (he : (s.deck n).link.exchange = some e) (why : Failure)
include he

theorem failExchange_host_exhausted {h : HeldRecord} (hl : (s.deck n).link.Standing) (hq : e.requester = .host)
    (ho : e.overtaken = false) (hr : e.retries = 0) (hc : (s.deck n).list.chosen = some h) :
    s.failExchange n why = ((s.offerDeck n 3 why.code 0).onLink n (Link.failed true)).completeRecord n h
      ⟨false, 0, 0, why.code, 0⟩ := by
  have hend : (s.offerDeck n 3 why.code 0).endFailed n true =
      (s.offerDeck n 3 why.code 0).onLink n (Link.failed true) := endFailed_exhausted (by simpa [Link.Standing] using hl)
  have hchosen : (((s.offerDeck n 3 why.code 0).onLink n (Link.failed true)).deck n).list.chosen = some h := by
    simpa using hc
  unfold State.failExchange
  simp only [he, hq, ho, hr, Bool.false_eq_true, if_false, Nat.lt_irrefl, hend, State.hostFaulted, hchosen,
    HostResult.failed]

theorem failExchange_overtaken {h : HeldRecord} (hl : (s.deck n).link.Standing) (hd : (s.deck n).link.downDue = false)
    (hq : e.requester = .host) (ho : e.overtaken = true) (hc : (s.deck n).list.chosen = some h) :
    s.failExchange n why =
      ((s.counted n).offerDeck n 2 .deckClaimed h.offset).completeRecord n h ⟨false, 0, 0, .deckClaimed, 0⟩ := by
  have hchosen : ((s.counted n).deck n).list.chosen = some h := by simpa [State.counted] using hc
  unfold State.failExchange
  simp only [he, hq, ho, if_true, endFailed_counted hl hd, State.hostOvertaken, hchosen, State.completeOffered,
    HostResult.failed]

theorem failExchange_counted (hl : (s.deck n).link.Standing) (hd : (s.deck n).link.downDue = false)
    (hq : e.requester = .tracker ∨ e.requester = .poll) : s.failExchange n why = s.counted n := by
  unfold State.failExchange
  rcases hq with hq | hq <;> simp only [he, hq, endFailed_counted hl hd]

theorem failExchange_chase (hl : (s.deck n).link.Standing) (hd : (s.deck n).link.downDue = false)
    (hq : e.requester = .chase) (hv : e.live = true) :
    s.failExchange n why = (s.counted n).chaseRejected n e.command := by
  unfold State.failExchange
  simp only [he, hq, hv, if_true, endFailed_counted hl hd]

theorem failExchange_engine_exhausted (hl : (s.deck n).link.Standing) (hq : e.requester = .engine) (hv : e.live = true)
    (hr : e.retries = 0) :
    s.failExchange n why = ((s.offerDeck n 3 why.code 0).onLink n (Link.failed true)).engineOutcome n e.command e.punch
      (.faulted why.code) := by
  have hend : (s.offerDeck n 3 why.code 0).endFailed n true =
      (s.offerDeck n 3 why.code 0).onLink n (Link.failed true) := endFailed_exhausted (by simpa [Link.Standing] using hl)
  unfold State.failExchange
  simp only [he, hq, hv, hr, Nat.lt_irrefl, if_false, if_true, hend]

end

theorem ending_not_running (h : s.engine.state.running = true) : s.engine.state ≠ .ending := fun hx => by
  rw [hx] at h
  exact absurd h (by decide)

/-- Settles O38. -/
theorem exhaustedExchangeEndsFaulted : Obligations.ExhaustedExchangeEndsFaulted := by
  refine ⟨fun s n e hs hd he hl => ⟨fun h hq ho hr hc => ⟨fun f hp hj => ?_, fun ht => ?_⟩,
    fun h u hq ho hc hu => ⟨fun f hp hj => ?_, fun ht hj => ?_⟩, fun hq ht => ?_,
    fun hq hv ht => ?_, fun hq hv hr hp hc ht hrun => ?_⟩, fun s n e r f hs he hq hv hp hj => ?_⟩
  · rw [exec_garbledFrame hs he hp hj, failExchange_host_exhausted (s := s.onLink n _) (e := e) (h := h)
      (by simpa using he) .garbled (by simpa [Link.Standing] using hl) hq ho hr (by simpa using hc)]
    rw [settleDecks_of_downDue (n := n) hd]
    · simp only [State.offerDeck, State.onLink, State.onDeck_onDeck]
      rfl
    · intro m hm
      simp [completeRecord_deck, hm, State.offerDeck, State.onLink, State.onDeck_deck_ne _ _ hm]
    · simp [completeRecord_deck, Link.failed]
    · exact (((Aside.refl s).onLink n _).onDeck n _ |>.onLink n _).trans (completeRecord_aside _ n h _)
  · rw [exec_replyTimerExpiry hs he ht, failExchange_host_exhausted (h := h) he .expiry hl hq ho hr hc]
    rw [settleDecks_of_downDue (n := n) hd]
    · rfl
    · intro m hm
      simp [completeRecord_deck, hm, State.offerDeck, State.onLink, State.onDeck_deck_ne _ _ hm]
    · simp [completeRecord_deck, Link.failed]
    · exact (((Aside.refl s).onDeck n _).onLink n _).trans (completeRecord_aside _ n h _)
  · rw [exec_garbledFrame hs he hp hj, failExchange_overtaken (s := s.onLink n _) (e := e) (h := h)
      (by simpa using he) .garbled (by simpa [Link.Standing] using hl) (by simpa using hs.downDue n) hq ho (by simpa using hc), hu]
    have hcount : (s.onLink n fun l => { l with judged := none }).counted n = s.onLink n fun l =>
        { l with
          judged := none
          exchange := none
          failures := min 255 (l.failures + 1)
          downDue := decide ((s.deck n).settings.lossLimit ≤ min 255 (l.failures + 1)) } :=
      (State.onDeck_onDeck s n _ _).trans (State.onDeck_congr rfl)
    rw [hcount]
  · rw [exec_replyTimerExpiry hs he ht,
      failExchange_overtaken (h := h) he .expiry hl (hs.downDue n) hq ho hc, hu]
    have hcount : s.counted n = s.onLink n fun l =>
        { l with
          judged := none
          exchange := none
          failures := min 255 (l.failures + 1)
          downDue := decide ((s.deck n).settings.lossLimit ≤ min 255 (l.failures + 1)) } :=
      State.onDeck_congr (by simp only [Link.failed, hj])
    rw [hcount]
  · rw [exec_replyTimerExpiry hs he ht, failExchange_counted he .expiry hl (hs.downDue n) hq]
    rfl
  · rw [exec_replyTimerExpiry hs he ht, failExchange_chase he .expiry hl (hs.downDue n) hq hv]
    refine congrArg (fun t => Host.Outcome.next (State.settleDecks t)) ?_
    simp only [State.counted, State.chaseRejected, State.onChase, State.onDeck_onDeck]
    rfl
  · rw [exec_replyTimerExpiry hs he ht, failExchange_engine_exhausted he .expiry hl hq hv hr]
    simp only [State.engineOutcome, hp, if_neg hc, State.moveEnded]
    have hx : (((s.offerDeck n 3 .linkTimeout 0).onLink n (Link.failed true)).deck n).link =
        (s.deck n).link.failed true := by simp
    have habort := abort_aside (s := (s.offerDeck n 3 .linkTimeout 0).onLink n (Link.failed true)) .deckFailed hrun
    have hlink := abort_link ((s.offerDeck n 3 .linkTimeout 0).onLink n (Link.failed true)) .deckFailed n
    rw [hx] at hlink
    refine ⟨_, congrArg (fun t => Host.Outcome.next (State.settleDecks t)) (if_neg (ending_not_running hrun)),
      congrArg Engine.state habort.engine, congrArg Engine.abortCode habort.engine,
      Link.exchange_of_dropChase hlink rfl, ?_, ?_⟩
    · exact congrArg Link.downDue hlink
    · exact congrArg Link.failures hlink
  · have hrep : Replied s n e (.refused r) f := ⟨he, hp, hj, rfl⟩
    rw [exec_replyRefused hs hrep]
    refine congrArg (fun t => Host.Outcome.next (State.settleDecks t)) ?_
    simp only [State.deliverRefused, hq, hv, if_true, State.heard, State.chaseRejected, State.onLink, State.onChase,
      State.onDeck_onDeck]

end Sys2Proof.Machine
end

section
/-!
PROOFS. How a pending seek ends, by its requester (R50, R51), and the frame-sent that supersedes it.
-/

namespace Sys2Proof.Machine

variable {s t u v : State} {n m : Deck}

/-! ## The pending seek told to its requester -/

/-- The link with no seek pending. -/
def Link.unsought (l : Link) : Link := { l with seek := none, seekTimer := none }

/-- The requester of a pending seek told that it has ended. -/
def State.tellSeek (s : State) (n : Deck) (p : PendingSeek) (code : Option FaultCode) : State :=
  match p.requester, code with
  | .host, _ => s.hostSeekEnd n code
  | .engine, none => if p.live then s.cueArrived n else s
  | .engine, some c => if p.live then s.cueFailed c else s
  | .chase, none => s.chaseArrived n p
  | .chase, some c => s.chaseSeekFailed n p (c == .superseded)
  | _, _ => s

theorem endSeek_of_none (h : (s.deck n).link.seek = none) (code : Option FaultCode) : s.endSeek n code = s := by
  simp only [State.endSeek, h]

theorem endSeek_of_some {p : PendingSeek} (h : (s.deck n).link.seek = some p) (code : Option FaultCode) :
    s.endSeek n code = (s.onLink n Link.unsought).tellSeek n p code := by
  simp only [State.endSeek, h]
  rfl

section
variable {p : PendingSeek}

theorem tellSeek_host (hq : p.requester = .host) (code : Option FaultCode) :
    s.tellSeek n p code = s.hostSeekEnd n code := by
  simp only [State.tellSeek, hq]

theorem hostSeekEnd_arrived {h : HeldRecord} (hk : (s.deck n).list.seeking = some h) :
    s.hostSeekEnd n none = s.completeRecord n h ⟨true, 0x40, 0, .none, 0⟩ := by
  simp only [State.hostSeekEnd, hk, HostResult.ok]

theorem hostSeekEnd_failed {h : HeldRecord} (hk : (s.deck n).list.seeking = some h) (c : FaultCode) :
    s.hostSeekEnd n (some c) = s.completeRecord n h ⟨false, 0x40, 0, c, 0⟩ := by
  simp only [State.hostSeekEnd, hk, HostResult.unfinished]

/-- A chase's seek ended unfinished: while its mark says so it is the outstanding seek (R103, log entry 27). -/
theorem tellSeek_chase_failed (hq : p.requester = .chase) (hv : p.live = true → (s.deck n).chase.seek ≠ none)
    (c : FaultCode) :
    s.tellSeek n p (some c) = s.onChase n fun k =>
      if p.live = true then { k with seek := none, lastSpeed := if c == .superseded then k.lastSpeed else none } else k := by
  simp only [State.tellSeek, hq, State.chaseSeekFailed, Chase.ownsSeek]
  by_cases hl : p.live = true
  · have hk : (s.deck n).chase.seek.isSome = true := Option.isSome_iff_ne_none.mpr (hv hl)
    simp [hl, hk]
  · simp only [hl, if_false, Bool.false_and, Bool.false_eq_true]
    exact (State.onDeck_self rfl).symm

theorem tellSeek_engine_idle (hq : p.requester = .engine) (hv : p.live = false ∨ s.engine.state ≠ .cueing)
    (c : FaultCode) : s.tellSeek n p (some c) = s := by
  simp only [State.tellSeek, hq]
  rcases hv with hv | hv <;> simp [hv, State.cueFailed]

theorem tellSeek_engine_failed (hq : p.requester = .engine) (hv : p.live = true) (hc : s.engine.state = .cueing)
    (c : FaultCode) : s.tellSeek n p (some c) = s.abort (if c = .seekTimeout then .cueTimeout else .deckFailed) := by
  simp only [State.tellSeek, hq, hv, State.cueFailed, hc, if_true]

end

/-! ## What an abort writes, seen from before -/

theorem State.abandonsWritten.congr (h : t.abandonsWritten u) (he : t.engine = s.engine) (hm : t.mem = s.mem)
    (hb : t.iface.bases = s.iface.bases) (hl : t.iface.topmem = s.iface.topmem) : s.abandonsWritten u := by
  have hslot (i : Fin 64) : t.eventSlot i = s.eventSlot i := by simp only [State.eventSlot, hb]
  have hlimit : t.iface.limit = s.iface.limit := by simp only [Interface.limit, hl]
  unfold State.abandonsWritten State.sameOutside State.slotHeld State.memoryOk at h ⊢
  simp only [he, hm, hslot, hlimit] at h
  exact h

theorem State.abandonsWritten.congr_mem (h : s.abandonsWritten t) (hm : u.mem = t.mem) : s.abandonsWritten u := by
  unfold State.abandonsWritten State.sameOutside at h ⊢
  simp only [hm]
  exact h

theorem running_of_cueing (h : s.engine.state = .cueing) : s.engine.state.running = true := by rw [h]; rfl

/-! ## The frame-sent of a motion command -/

/-- Settles O32. -/
theorem motionCommandsSupersedeSeeks : Obligations.MotionCommandsSupersedeSeeks := by
  intro s u n b e p hs hb hh hf he hmo hk hu
  have hend : (s.deck n).tx.characterEnd = ({ (s.deck n).tx with shift := none, state := .idle }, true) := by
    rw [Transmitter.characterEnd_of_unheld hb hh, hf]
  have hexec : exec (.characterEnd (.deck n)) s = .next (u.tellSeek n p (some .superseded)).settleDecks := by
    rw [exec_characterEnd_of_ready hs, endCharacter_deck_of_sent hend]
    refine congrArg (fun t => Host.Outcome.next (State.settleDecks t)) ?_
    unfold State.deckFrameSent
    simp only [State.onTx_deck_self, he, hmo, hk, Option.isSome_some, State.onDeck_deck_self, and_self, if_true]
    rw [endSeek_of_some (p := p) (by simpa using hk)]
    refine congrArg (fun t => State.tellSeek t n p (some .superseded)) ?_
    rw [hu]
    simp only [State.onTx, State.offerDeck, State.onLink, State.onDeck_onDeck]
    rfl
  have hlist : (u.deck n).list = (s.deck n).list := by simp [hu, State.offerDeck]
  have hchase : (u.deck n).chase = (s.deck n).chase := by simp [hu, State.offerDeck]
  have hengine : u.engine = s.engine := by rw [hu]; rfl
  refine ⟨fun h hq hsk => ?_, fun hq hv => ?_, fun hq hv => ?_, fun hq hv hc => ?_⟩
  · rw [hexec, tellSeek_host hq, hostSeekEnd_failed (hlist ▸ hsk)]
  · rw [hexec, tellSeek_chase_failed hq (hchase ▸ hv)]
    rfl
  · rw [hexec, tellSeek_engine_idle hq (hengine ▸ hv)]
  · have hcu : u.engine.state = .cueing := hengine ▸ hc
    rw [hexec, tellSeek_engine_failed hq hv hcu]
    have ha := abort_aside (s := u) .deckFailed (running_of_cueing hcu)
    have hl := abort_link u .deckFailed n
    refine ⟨_, rfl, Link.seek_of_dropChase hl (by simp [hu, State.offerDeck]), congrArg Engine.state ha.engine,
      congrArg Engine.abortCode ha.engine, ?_⟩
    refine (abort_writes (s := u) .deckFailed (running_of_cueing hcu)).congr hengine ?_ ?_ ?_
    all_goals rw [hu]; rfl

end Sys2Proof.Machine
end

section
/-!
PROOFS. The entry to DOWN and the expiries of a link's timers (R47, R51 to R53).
-/

namespace Sys2Proof.Machine

variable {s t u v : State} {n m : Deck}

/-! ## The entry to DOWN -/

/-- A link that has entered DOWN. -/
def Link.entered (l : Link) : Link := { l with state := .down, downDue := false }

/-- The state once the records and the pending seek of a link entering DOWN have ended (R47 steps 1 and 2). -/
def State.lostOnDown (s : State) (n : Deck) : State :=
  ((s.onLink n Link.entered).faultHeldRecords n).endSeek n (some .linkDown)

/-- The state once the loss of the link has been recorded (R47 steps 3 to 5). -/
def State.recordDown (s : State) (n : Deck) : State :=
  ((s.offerDeck n 3 .linkDown 0).raise .deckFault).onTracker n Tracker.linkLost

theorem enterDown_eq (s : State) (n : Deck) :
    s.enterDown n =
      ((if ((s.lostOnDown n).recordDown n).claimed n then ((s.lostOnDown n).recordDown n).abort .deckFailed
        else (s.lostOnDown n).recordDown n).examineSoon n) := rfl

theorem exec_linkEntersDown (h : (s.deck n).link.downDue = true) :
    exec (.linkEntersDown n) s = .next (s.enterDown n).settleDecks :=
  congrArg Host.Outcome.next (if_pos h)

/-- The abort of an entry to DOWN whose deck is not claimed, or with no event running, does nothing. -/
theorem enterDown_of_free (h : (s.lostOnDown n).claimed n = false ∨ (s.lostOnDown n).engine.state.running = false) :
    s.enterDown n = ((s.lostOnDown n).recordDown n).examineSoon n := by
  rw [enterDown_eq]
  have hc : ((s.lostOnDown n).recordDown n).claimed n = (s.lostOnDown n).claimed n := rfl
  rcases h with h | h
  · rw [hc, h, if_neg Bool.false_ne_true]
  · rw [abort_of_rest (s := (s.lostOnDown n).recordDown n) _ h, ite_self]

theorem faultHeldRecords_of_none (h : (s.deck n).list.queue = []) : s.faultHeldRecords n = s := by
  simp only [State.faultHeldRecords, h, List.filter_nil, List.foldl_nil]

theorem faultHeldRecords_of_one {h : HeldRecord} {c : LinkCommand} (hq : (s.deck n).list.queue = [h])
    (hc : h.command = .motion c) (hst : h.status ≠ .seeking) :
    s.faultHeldRecords n = s.completeRecord n h ⟨false, 0, 0, .linkDown, 0⟩ := by
  have hlost : h.lostOnDown = true := by
    cases hx : h.status with
    | seeking => exact absurd hx hst
    | _ => simp [HeldRecord.lostOnDown, hc, hx]
  simp only [State.faultHeldRecords, hq, List.filter_cons, hlost, if_true, List.filter_nil, List.foldl_cons,
    List.foldl_nil, HostResult.failed]

/-- The states before and after R47 steps 1 and 2, when they abort nothing. -/
structure Downed (s t : State) (n : Deck) : Prop where
  aside : Aside s t
  others : ∀ m, m ≠ n → t.deck m = s.deck m
  arbiter : (t.deck n).arbiter = (s.deck n).arbiter
  capture : (t.deck n).capture = (s.deck n).capture
  tracker : (t.deck n).tracker = (s.deck n).tracker
  state : (t.deck n).link.state = .down
  due : (t.deck n).link.downDue = false
  alone : (s.deck n).list.queue = [] → (t.deck n).list.queue = [] ∧ t.mem = s.mem ∧ t.iface = s.iface

/-- A change of the deck's seek, of its list but for the emptiness, and of its chase goes on with the entry to DOWN. -/
theorem Downed.onDeck (h : Downed s t n) {f : DeckUnit → DeckUnit} (ha : (f (t.deck n)).arbiter = (t.deck n).arbiter)
    (hc : (f (t.deck n)).capture = (t.deck n).capture) (ht : (f (t.deck n)).tracker = (t.deck n).tracker)
    (hs : (f (t.deck n)).link.state = (t.deck n).link.state)
    (hd : (f (t.deck n)).link.downDue = (t.deck n).link.downDue)
    (hq : (t.deck n).list.queue = [] → (f (t.deck n)).list.queue = []) : Downed s (t.onDeck n f) n where
  aside := h.aside.onDeck n f
  others m hm := (State.onDeck_deck_ne _ _ hm).trans (h.others m hm)
  arbiter := by rw [State.onDeck_deck_self, ha, h.arbiter]
  capture := by rw [State.onDeck_deck_self, hc, h.capture]
  tracker := by rw [State.onDeck_deck_self, ht, h.tracker]
  state := by rw [State.onDeck_deck_self, hs, h.state]
  due := by rw [State.onDeck_deck_self, hd, h.due]
  alone he := by
    obtain ⟨h₁, h₂, h₃⟩ := h.alone he
    rw [State.onDeck_deck_self]
    exact ⟨hq h₁, h₂, h₃⟩

theorem Downed.completeRecord (h : Downed s t n) {x : HeldRecord} (hx : x ∈ (t.deck n).list.queue) (r : HostResult) :
    Downed s (t.completeRecord n x r) n where
  aside := h.aside.trans (completeRecord_aside t n x r)
  others m hm := by rw [completeRecord_deck, if_neg hm, h.others m hm]
  arbiter := by rw [completeRecord_deck, if_pos rfl]; exact h.arbiter
  capture := by rw [completeRecord_deck, if_pos rfl]; exact h.capture
  tracker := by rw [completeRecord_deck, if_pos rfl]; exact h.tracker
  state := by rw [completeRecord_deck, if_pos rfl]; exact h.state
  due := by rw [completeRecord_deck, if_pos rfl]; exact h.due
  alone he := by simp [(h.alone he).1] at hx

theorem Downed.start (s : State) (n : Deck) : Downed s (s.onLink n Link.entered) n where
  aside := (Aside.refl s).onLink n _
  others m hm := State.onLink_deck_ne _ _ hm
  arbiter := by simp
  capture := by simp
  tracker := by simp
  state := by simp [Link.entered]
  due := by simp [Link.entered]
  alone he := by simp [he]

theorem Downed.faultHeldRecords (h : Downed s t n) : Downed s (t.faultHeldRecords n) n := by
  by_cases he : (s.deck n).list.queue = []
  · rw [faultHeldRecords_of_none (h.alone he).1]
    exact h
  · unfold State.faultHeldRecords
    refine List.foldlRecOn (motive := fun u => Downed s u n) _ _ h fun u hu x _ => ?_
    exact ⟨hu.aside.trans (completeRecord_aside u n x _), fun m hm => by rw [completeRecord_deck, if_neg hm, hu.others m hm],
      by rw [completeRecord_deck, if_pos rfl]; exact hu.arbiter, by rw [completeRecord_deck, if_pos rfl]; exact hu.capture,
      by rw [completeRecord_deck, if_pos rfl]; exact hu.tracker, by rw [completeRecord_deck, if_pos rfl]; exact hu.state,
      by rw [completeRecord_deck, if_pos rfl]; exact hu.due, fun h => absurd h he⟩

/-- The seek that ends at the entry to DOWN aborts the event, or leaves it alone (R129). -/
theorem lostOnDown_cases (s : State) (n : Deck) : ∃ x, Downed s x n ∧ (x.deck n).link.seek = none ∧
    (s.lostOnDown n = x ∨ s.engine.state = .cueing ∧ s.lostOnDown n = x.abort .deckFailed) := by
  have hx := (Downed.start s n).faultHeldRecords
  unfold State.lostOnDown
  generalize (s.onLink n Link.entered).faultHeldRecords n = x at hx
  cases hk : (x.deck n).link.seek with
  | none => exact ⟨x, hx, hk, .inl (endSeek_of_none hk _)⟩
  | some p =>
    rw [endSeek_of_some hk]
    have hy : Downed s (x.onLink n Link.unsought) n := hx.onDeck rfl rfl rfl rfl rfl id
    have hn : ((x.onLink n Link.unsought).deck n).link.seek = none := by simp [Link.unsought]
    generalize x.onLink n Link.unsought = y at hy hn
    cases hq : p.requester with
    | host =>
      rw [tellSeek_host hq]
      cases hr : (y.deck n).list.seeking with
      | none => exact ⟨y, hy, hn, .inl (by simp only [State.hostSeekEnd, hr])⟩
      | some r =>
        refine ⟨_, hy.completeRecord (x := r) (List.mem_of_find?_eq_some hr) _, ?_, .inl (hostSeekEnd_failed hr _)⟩
        rw [completeRecord_deck, if_pos rfl]
        exact hn
    | engine =>
      by_cases hv : p.live = true ∧ y.engine.state = .cueing
      · exact ⟨y, hy, hn, .inr ⟨hy.aside.engine ▸ hv.2, tellSeek_engine_failed hq hv.1 hv.2 _⟩⟩
      · have hv : p.live = false ∨ y.engine.state ≠ .cueing := by
          cases hl : p.live with
          | false => exact .inl rfl
          | true => exact .inr fun hc => hv ⟨hl, hc⟩
        exact ⟨y, hy, hn, .inl (tellSeek_engine_idle hq hv _)⟩
    | chase =>
      have hv : y.tellSeek n p (some .linkDown) = y.chaseSeekFailed n p false := by simp only [State.tellSeek, hq]; rfl
      rw [hv, State.chaseSeekFailed]
      split
      · exact ⟨_, hy.onDeck rfl rfl rfl rfl rfl id, by simpa using hn, .inl rfl⟩
      · exact ⟨y, hy, hn, .inl rfl⟩
    | tracker => exact ⟨y, hy, hn, .inl (by simp only [State.tellSeek, hq])⟩
    | poll => exact ⟨y, hy, hn, .inl (by simp only [State.tellSeek, hq])⟩

/-- The entry to DOWN of a claimed deck's link, with an event running, aborts the event: with its pending seek, or after
the loss has been recorded. -/
theorem enterDown_cases (hc : s.claimed n = true) (hr : s.engine.state.running = true) :
    ∃ x, Downed s x n ∧ (x.deck n).link.seek = none ∧
      (s.enterDown n = ((x.recordDown n).abort .deckFailed).examineSoon n ∨
        s.enterDown n = ((x.abort .deckFailed).recordDown n).examineSoon n) := by
  obtain ⟨x, hx, hk, hl | ⟨hq, hl⟩⟩ := lostOnDown_cases s n
  · refine ⟨x, hx, hk, .inl ?_⟩
    have hcx : (x.recordDown n).claimed n = true := by rw [← hc, State.claimed, State.claimed, ← hx.aside.engine]; rfl
    rw [enterDown_eq, hl, if_pos hcx]
  · refine ⟨x, hx, hk, .inr ?_⟩
    have hrx : x.engine.state.running = true := hx.aside.engine ▸ hr
    have ha := abort_aside (s := x) .deckFailed hrx
    rw [enterDown_of_free (.inr ?_), hl]
    rw [hl, ha.engine]
    rfl

theorem abort_claimed (code : FaultCode) (hr : s.engine.state.running = true) (hn : s.engine.claims.Nodup)
    (hm : m ∈ s.engine.claims) : (s.abort code).deck m = (s.deck m).aborted (s.abortQueue m) :=
  (abort_deck code hr hn m fun _ => hm).trans (if_pos hm)

theorem recordDown_deck (s : State) (n m : Deck) :
    (s.recordDown n).deck m =
      if m = n then
        { s.deck n with
          capture := (s.deck n).capture.offer 3 .linkDown 0 s.F
          tracker := (s.deck n).tracker.linkLost }
      else s.deck m := by
  unfold State.recordDown State.offerDeck
  by_cases h : m = n
  · subst h
    rw [if_pos rfl, State.onTracker_deck_self, State.raise_deck, State.onDeck_deck_self]
  · rw [if_neg h, State.onTracker_deck_ne _ _ h, State.raise_deck, State.onDeck_deck_ne _ _ h]

theorem recordDown_aside (s : State) (n : Deck) : Aside s (s.recordDown n) := by
  unfold State.recordDown State.offerDeck State.onTracker
  exact (((Aside.refl s).onDeck n _).raise _).onDeck n _

theorem abortQueue_congr (h : t.engine = s.engine) (m : Deck) : t.abortQueue m = s.abortQueue m := by
  unfold State.abortQueue State.recorder
  rw [h]

/-- What the entry to DOWN of a claimed deck leaves, with an event running. -/
structure DownAborted (s u : State) (n : Deck) : Prop where
  link : (u.deck n).link.state = .down ∧ (u.deck n).link.downDue = false ∧ (u.deck n).link.seek = none
  raised : u.iface.pending.get .deckFault = true
  capture : (u.deck n).capture = (s.deck n).capture.offer 3 .linkDown 0 s.timeline.F
  tracker : (u.deck n).tracker = (s.deck n).tracker.linkLost
  engine : u.engine = s.engine.aborted .deckFailed s.F
  claimed : ∀ m ∈ s.engine.claims, (u.deck m).chase.state = .off ∧ (u.deck m).arbiter.engineQueue = s.abortQueue m
  alone : (s.deck n).list.queue = [] → s.abandonsWritten u ∧ (u.deck n).list.queue = []

section
variable {x : State} (hx : Downed s x n) (hk : (x.deck n).link.seek = none) (hc : n ∈ s.engine.claims)
  (hr : s.engine.state.running = true) (hn : s.engine.claims.Nodup)
include hx hk hc hr hn

/-- The loss recorded, then the event aborted. -/
theorem Downed.record_abort : DownAborted s ((x.recordDown n).abort .deckFailed) n := by
  have hy : Aside s (x.recordDown n) := hx.aside.trans (recordDown_aside x n)
  have hyn := recordDown_deck x n n
  rw [if_pos rfl] at hyn
  have hraise : (x.recordDown n).iface.pending.get .deckFault = true := by simp [State.recordDown]
  have hmem : (x.recordDown n).mem = x.mem := rfl
  have hbases : (x.recordDown n).iface.bases = x.iface.bases := rfl
  have htop : (x.recordDown n).iface.topmem = x.iface.topmem := rfl
  have hF : x.F = s.timeline.F := congrArg Timeline.F hx.aside.timeline
  generalize x.recordDown n = y at *
  have hry : y.engine.state.running = true := hy.engine ▸ hr
  have ha (m : Deck) (hm : m ∈ s.engine.claims) : (y.abort .deckFailed).deck m = (y.deck m).aborted (s.abortQueue m) := by
    rw [abort_claimed .deckFailed hry (hy.engine ▸ hn) (hy.engine ▸ hm), abortQueue_congr hy.engine]
  have hlink := abort_link y .deckFailed n
  rw [hyn] at hlink
  refine ⟨⟨(congrArg Link.state hlink).trans hx.state, (congrArg Link.downDue hlink).trans hx.due,
    Link.seek_of_dropChase hlink hk⟩, ?_, ?_, ?_, ?_, fun m hm => ?_, fun he => ?_⟩
  · exact ((Calm.refl y).abort .deckFailed).causes _ hraise
  · rw [ha n hc, hyn, ← hF, ← hx.capture]
    simp [DeckUnit.aborted]
  · rw [ha n hc, hyn, DeckUnit.aborted_tracker, ← hx.tracker]
  · rw [(abort_aside (s := y) .deckFailed hry).engine]
    change y.engine.aborted _ _ = _
    rw [hy.engine, hy.F]
  · rw [ha m hm]
    exact ⟨DeckUnit.aborted_chase _ _, DeckUnit.aborted_queue _ _⟩
  · obtain ⟨hq, hm, hi⟩ := hx.alone he
    refine ⟨(abort_writes (s := y) .deckFailed hry).congr hy.engine (hmem.trans hm) (hbases.trans (by rw [hi]))
      (htop.trans (by rw [hi])), ?_⟩
    rw [ha n hc, DeckUnit.aborted_list, hyn]
    exact hq

/-- The event aborted with the pending seek, then the loss recorded. -/
theorem Downed.abort_record : DownAborted s ((x.abort .deckFailed).recordDown n) n := by
  have hrx : x.engine.state.running = true := hx.aside.engine ▸ hr
  have ha (m : Deck) (hm : m ∈ s.engine.claims) : (x.abort .deckFailed).deck m = (x.deck m).aborted (s.abortQueue m) := by
    rw [abort_claimed .deckFailed hrx (hx.aside.engine ▸ hn) (hx.aside.engine ▸ hm), abortQueue_congr hx.aside.engine]
  have hlink := abort_link x .deckFailed n
  have haside := abort_aside (s := x) .deckFailed hrx
  have hF : (x.abort .deckFailed).F = s.timeline.F :=
    (congrArg Timeline.F haside.timeline).trans (congrArg Timeline.F hx.aside.timeline)
  have hwr := abort_writes (s := x) .deckFailed hrx
  have hdeck := recordDown_deck (x.abort .deckFailed) n
  have hengine : ((x.abort .deckFailed).recordDown n).engine = (x.abort .deckFailed).engine := rfl
  have hmem : ((x.abort .deckFailed).recordDown n).mem = (x.abort .deckFailed).mem := rfl
  refine ⟨?_, ?_, ?_, ?_, ?_, fun m hm => ?_, fun he => ?_⟩
  · rw [hdeck, if_pos rfl]
    exact ⟨(congrArg Link.state hlink).trans hx.state, (congrArg Link.downDue hlink).trans hx.due,
      Link.seek_of_dropChase hlink hk⟩
  · simp [State.recordDown]
  · rw [hdeck, if_pos rfl, ← hF, ← hx.capture, ha n hc]
    simp [DeckUnit.aborted]
  · rw [hdeck, if_pos rfl, ← hx.tracker, ha n hc, DeckUnit.aborted_tracker]
  · rw [hengine, haside.engine]
    change x.engine.aborted _ _ = _
    rw [hx.aside.engine, hx.aside.F]
  · rw [hdeck]
    split
    · next h =>
      subst h
      rw [ha m hm]
      exact ⟨DeckUnit.aborted_chase _ _, DeckUnit.aborted_queue _ _⟩
    · rw [ha m hm]
      exact ⟨DeckUnit.aborted_chase _ _, DeckUnit.aborted_queue _ _⟩
  · obtain ⟨hq, hm, hi⟩ := hx.alone he
    refine ⟨(hwr.congr hx.aside.engine hm (by rw [hi]) (by rw [hi])).congr_mem hmem, ?_⟩
    rw [hdeck, if_pos rfl, ha n hc, DeckUnit.aborted_list]
    exact hq

end

theorem mem_claims (h : s.claimed n = true) : n ∈ s.engine.claims := by simpa [State.claimed] using h

/-! ## The timers -/

/-- A change that leaves a deck's list and whether its link is free keeps every link busy. -/
theorem State.linksBusy.onDeck_kept (h : s.linksBusy) (n : Deck) {f : DeckUnit → DeckUnit}
    (hf : ∀ d, (f d).list = d.list ∧ (f d).free = d.free) : (s.onDeck n f).linksBusy :=
  h.onDeck (hf _).1 ((hf _).2.trans (h n).2.2)

theorem State.linksBusy.offerDeck (h : s.linksBusy) (n : Deck) (v : Nat) (c : FaultCode) (o : Nat) :
    (s.offerDeck n v c o).linksBusy := by
  unfold State.offerDeck
  exact h.onDeck_kept n fun _ => ⟨rfl, rfl⟩

theorem State.linksBusy.onChase (h : s.linksBusy) (n : Deck) (f : Chase → Chase) : (s.onChase n f).linksBusy := by
  unfold State.onChase
  exact h.onDeck_kept n fun _ => ⟨rfl, rfl⟩

theorem State.linksBusy.unsought (h : s.linksBusy) (n : Deck) : (s.onLink n Link.unsought).linksBusy := by
  unfold State.onLink
  exact h.onDeck_kept n fun _ => ⟨rfl, rfl⟩

theorem State.onDeck_inUse (s : State) (k : Deck) {f : DeckUnit → DeckUnit} (hf : ∀ d, (f d).chase = d.chase) (n : Deck) :
    (s.onDeck k f).inUse n = s.inUse n := by
  have hc (m : Deck) : ((s.onDeck k f).deck m).chase = (s.deck m).chase := by
    by_cases hm : m = k
    · subst hm; rw [State.onDeck_deck_self, hf]
    · rw [State.onDeck_deck_ne _ _ hm]
  simp only [State.inUse, hc]
  rfl

/-- The request for a position at a poll timer's expiry (R88). -/
theorem pollRequest_of_present (h : (s.deck n).link.state ≠ .absent) :
    s.pollRequest n = s.onArbiter n fun a =>
      { a with positionRequest := a.positionRequest || ((s.deck n).tracker.asks && !s.inUse n) } := by
  unfold State.pollRequest State.requestPosition
  rw [if_neg h]
  cases hc : (s.deck n).tracker.asks && !s.inUse n with
  | true => simp
  | false => exact (State.onDeck_self (by simp)).symm

/-- The deck with its poll timer loaded, and a poll pending if `make` says so. -/
def DeckUnit.reloaded (make : Bool) (d : DeckUnit) : DeckUnit :=
  { d with link := { d.link with
    pollTimer := loadTimer d.settings.pollInterval, pollPending := d.link.pollPending || make } }

/-- The expiry of the poll timer makes a poll pending, but for a deck polled each frame (R52, R53). -/
theorem pollExpired_eq (h : (s.deck n).link.state ≠ .absent) :
    s.pollExpired n = (s.onDeck n (DeckUnit.reloaded !s.polledEachFrame n)).pollRequest n := by
  have hload : (s.onDeck n fun d =>
      { d with link := { d.link with pollTimer := loadTimer d.settings.pollInterval } }) =
      s.onDeck n (DeckUnit.reloaded false) := State.onDeck_congr (by simp [DeckUnit.reloaded])
  have hp : (s.onDeck n (DeckUnit.reloaded false)).polledEachFrame n = s.polledEachFrame n := by
    unfold State.polledEachFrame
    rw [State.onDeck_deck_self]
    rfl
  unfold State.pollExpired
  simp only [hload, hp]
  refine congrArg (fun t => State.pollRequest t n) ?_
  cases s.polledEachFrame n with
  | true => rfl
  | false =>
    unfold State.makePoll
    rw [if_neg Bool.false_ne_true, if_neg (by rw [State.onDeck_deck_self]; exact h)]
    exact (State.onDeck_onDeck s n _ _).trans (State.onDeck_congr (by simp [DeckUnit.reloaded]))

theorem pollExpired_of_present (h : (s.deck n).link.state ≠ .absent) :
    s.pollExpired n = s.onDeck n fun d =>
      { d.reloaded !s.polledEachFrame n with
        arbiter := { d.arbiter with
          positionRequest := d.arbiter.positionRequest || ((s.deck n).tracker.asks && !s.inUse n) } } := by
  rw [pollExpired_eq h, pollRequest_of_present (by rw [State.onDeck_deck_self]; exact h), State.onDeck_deck_self,
    State.onDeck_inUse s n (f := DeckUnit.reloaded !s.polledEachFrame n) (fun _ => rfl) n]
  exact State.onDeck_onDeck s n _ _

theorem exec_seekTimerExpiry {p : PendingSeek} (hs : s.ready) (ht : (s.deck n).link.seekTimer = some 0)
    (hk : (s.deck n).link.seek = some p) :
    exec (.seekTimerExpiry n) s = .next
      (((s.offerDeck n 2 .seekTimeout 0).onLink n Link.unsought).tellSeek n p (some .seekTimeout)).settleDecks := by
  have hdue : (Act.seek n).due s = true := by simp [Act.due, Link.seekDue, ht]
  refine (command_of_ready hs fun s => s.row (.seek n)).trans (congrArg Host.Outcome.next ?_)
  refine (row_of_due hdue).trans (congrArg State.settleDecks ?_)
  exact endSeek_of_some (s := s.offerDeck n 2 .seekTimeout 0) (by simpa using hk) _

theorem exec_pollTimerExpiry (hs : s.ready) (ht : (s.deck n).link.pollTimer = some 0) :
    exec (.pollTimerExpiry n) s = .next (s.pollExpired n).settleDecks := by
  have hdue : (Act.poll n).due s = true := by simp [Act.due, Link.pollDue, ht]
  exact (command_of_ready hs fun s => s.row (.poll n)).trans (congrArg Host.Outcome.next (row_of_due hdue))

/-- Settles O39. -/
theorem linkDownAndTimerExpiries : Obligations.LinkDownAndTimerExpiries := by
  refine ⟨fun s n h => ?_, fun s u n hs hd hc hk hu => ?_, fun s n hs hd hc hr hn => ?_, fun s n hs => ⟨fun h => ?_,
    fun p ht hk => ⟨fun h hq hsk => ?_, fun hq hv hc hb => ?_, fun hq hb hv => ?_⟩⟩, fun s n hs => ⟨fun h => ?_, fun h hb ha => ?_⟩⟩
  · exact congrArg Host.Outcome.next (if_neg (by simp [h]))
  · have hlost : s.lostOnDown n = u := by
      unfold State.lostOnDown
      rcases hu with ⟨hq, hu⟩ | ⟨h, c, hq, hm, hst, hu⟩
      · rw [faultHeldRecords_of_none (by simpa using hq), endSeek_of_none (by simpa [Link.entered] using hk), hu]
        rfl
      · rw [faultHeldRecords_of_one (s := s.onLink n Link.entered) (by simpa using hq) hm hst,
          endSeek_of_none (by simpa [completeRecord_deck, Link.entered] using hk), hu]
        rfl
    have hcu : (s.lostOnDown n).claimed n = false ∨ (s.lostOnDown n).engine.state.running = false := by
      have hg : (s.lostOnDown n).engine = s.engine := by
        rw [hlost]
        rcases hu with ⟨hq, hu⟩ | ⟨h, c, hq, hm, hst, hu⟩
        · rw [hu]; rfl
        · rw [hu]; exact (completeRecord_aside _ n h _).engine
      rw [State.claimed, hg]
      exact hc
    rw [exec_linkEntersDown hd, enterDown_of_free hcu, hlost]
    rfl
  · obtain ⟨x, hx, hk, h⟩ := enterDown_cases hc hr
    have hv : ∃ v, DownAborted s v n ∧ s.enterDown n = v.examineSoon n := by
      rcases h with h | h
      · exact ⟨_, hx.record_abort hk (mem_claims hc) hr hn, h⟩
      · exact ⟨_, hx.abort_record hk (mem_claims hc) hr hn, h⟩
    obtain ⟨v, ha, hv⟩ := hv
    obtain ⟨hl, hp, hcap, htr, he, hclaimed, halone⟩ := ha
    refine ⟨v.examineSoon n, by rw [exec_linkEntersDown hd, hv], ?_⟩
    have hself : (v.examineSoon n).deck n = { v.deck n with list := { (v.deck n).list with examine := true } } :=
      State.onList_deck_self v n _
    have hother (m : Deck) : ((v.examineSoon n).deck m).chase = (v.deck m).chase ∧
        ((v.examineSoon n).deck m).arbiter = (v.deck m).arbiter := by
      by_cases hm : m = n
      · subst hm; rw [hself]; exact ⟨rfl, rfl⟩
      · rw [State.examineSoon, State.onList_deck_ne _ _ hm]; exact ⟨rfl, rfl⟩
    have he' : (v.examineSoon n).engine = _ := he
    rw [hself, he']
    refine ⟨hl.1, hl.2.1, hl.2.2, hp, hcap, htr, rfl, rfl, rfl, rfl, fun m hm => ?_, fun hq => ?_⟩
    · rw [(hother m).1, (hother m).2]
      exact hclaimed m hm
    · exact ⟨(halone hq).1.congr_mem rfl, (halone hq).2⟩
  · exact (command_of_ready hs fun s => s.row (.seek n)).trans
      (congrArg Host.Outcome.next (if_neg (by simpa [Act.due, Link.seekDue] using h)))
  · rw [exec_seekTimerExpiry hs ht hk, tellSeek_host hq, hostSeekEnd_failed (by simpa using hsk)]
    rfl
  · rw [exec_seekTimerExpiry hs ht hk]
    have hbx : ((s.offerDeck n 2 .seekTimeout 0).onLink n Link.unsought).linksBusy :=
      (hb.offerDeck n _ _ _).unsought n
    have hside (m : Deck) : s.sidesKept ((s.offerDeck n 2 .seekTimeout 0).onLink n Link.unsought) m := by
      unfold State.sidesKept
      by_cases hm : m = n
      · subst hm; simp
      · rw [State.onLink_deck_ne _ _ hm, State.offerDeck, State.onDeck_deck_ne _ _ hm]
        exact ⟨rfl, rfl, rfl, rfl, rfl⟩
    have hcalm : Calm s ((s.offerDeck n 2 .seekTimeout 0).onLink n Link.unsought) :=
      ((Calm.refl s).offerDeck n 2 _ 0).onLink n _
    have hlink : (((s.offerDeck n 2 .seekTimeout 0).onLink n Link.unsought).deck n).link =
        (s.deck n).link.unsought := by simp
    have hwr : ∀ u, ((s.offerDeck n 2 .seekTimeout 0).onLink n Link.unsought).abandonsWritten u → s.abandonsWritten u :=
      fun u h => h.congr rfl rfl rfl rfl
    have haside : Aside s ((s.offerDeck n 2 .seekTimeout 0).onLink n Link.unsought) :=
      ((Aside.refl s).onDeck n _).onLink n _
    generalize (s.offerDeck n 2 .seekTimeout 0).onLink n Link.unsought = x at *
    have hcx : x.engine.state = .cueing := haside.engine ▸ hc
    have ha := abort_aside (s := x) .cueTimeout (running_of_cueing hcx)
    have hdrop := abort_link x .cueTimeout n
    rw [hlink] at hdrop
    have hquiet := abort_quiet x .cueTimeout
    rw [tellSeek_engine_failed hq hv hcx, if_pos rfl, settleDecks_of_busy (hquiet.linksBusy hbx)]
    exact ⟨_, rfl, Link.seek_of_dropChase hdrop rfl, congrArg Link.seekTimer hdrop, congrArg Engine.state ha.engine,
      congrArg Engine.abortCode ha.engine, fun m => (hside m).trans (hquiet m).1,
      hwr _ (abort_writes .cueTimeout (running_of_cueing hcx)),
      ⟨ha.marks.trans haside.marks, ha.log.trans haside.log, ha.gpi.trans haside.gpi⟩, (hcalm.abort _).standing⟩
  · rw [exec_seekTimerExpiry hs ht hk, tellSeek_chase_failed hq (by simpa using hv), settleDecks_of_busy]
    · rfl
    · exact ((hb.offerDeck n _ _ _).unsought n).onChase n _
  · exact (command_of_ready hs fun s => s.row (.poll n)).trans
      (congrArg Host.Outcome.next (if_neg (by simpa [Act.due, Link.pollDue] using h)))
  · rw [exec_pollTimerExpiry hs h, pollExpired_of_present ha, settleDecks_of_busy]
    · rfl
    · exact hb.onDeck_kept n fun _ => ⟨rfl, rfl⟩

end Sys2Proof.Machine
end

section
/-!
PROOFS. The writes of an event's results (R125, R195), with the event's slot below the limit; and a STATE reply, whose
arrival makes the first of them (R50, R87, R128).
-/

namespace Sys2Proof.Machine

variable {s t u v : State} {n m : Deck} {slot : Fin 64}

/-! ## The lengths of the result fields -/

@[simp] theorem length_punchBytes_eq (p : Option Punch) : (punchBytes p).length = 5 := length_punchBytes p

@[simp] theorem length_syncErrorBytes (r : Option SyncResult) : (syncErrorBytes r).length = 2 := by
  cases r with
  | none => rfl
  | some r => exact length_errorBytes r.error

@[simp] theorem length_actualOutBytes (e : Engine) : e.actualOutBytes.length = 5 := by
  unfold Engine.actualOutBytes
  split <;> rfl

theorem length_resultHead (e : Engine) (k : Nat) (c : FaultCode) (b : List Byte) :
    (e.resultHead k c b).length = 11 + b.length := by
  simp [Engine.resultHead]
  omega

@[simp] theorem length_resultTail (e : Engine) : e.resultTail.length = 20 := by simp [Engine.resultTail]

theorem length_resultWhole (e : Engine) (k : Nat) (c : FaultCode) {b : List Byte} (hb : b.length = 2) :
    (e.resultWhole k c b).length = 34 := by
  simp [Engine.resultWhole, length_resultHead, hb]

/-! ## Writes into the slot -/

/-- The first or a later write of a running state entered, as bytes at offset 30 of the slot (R125, R195). -/
def State.enteredBytes (s : State) (st : EngineState) : List Byte :=
  if s.engine.results.reached.isNone then s.engine.resultWhole st.code .none (half 0) else [byte st.code]

theorem length_enteredBytes (s : State) (st : EngineState) : (s.enteredBytes st).length ≤ 34 := by
  unfold State.enteredBytes
  split
  · rw [length_resultWhole _ _ _ rfl]
  · simp

/-- A running state entered, its write made in the slot (R125). -/
def State.entered (s : State) (slot : Fin 64) (st : EngineState) : State :=
  { s with
    mem := s.mem.store (s.eventSlot slot + 30) (s.enteredBytes st)
    engine := { s.engine with state := st, results := { s.engine.results with reached := some st } } }

theorem enterRunning_of_held (h : s.slotHeld slot) (st : EngineState) : s.enterRunning st = s.entered slot st := by
  obtain ⟨htaken, hlimit⟩ := h
  have hlen := length_enteredBytes s st
  unfold State.enterRunning
  split
  · next hnone => simp [hnone] at htaken
  · next k hk =>
    obtain rfl : k = slot := Option.some.inj (hk.symm.trans htaken)
    extract_lets a b w
    have hw : w = (s.eventSlot k + 30, s.enteredBytes st) := by
      unfold w State.enteredBytes
      split
      · next hr => rw [if_pos (by exact hr)]; rfl
      · next hr => rw [if_neg (by exact hr)]; rfl
    have hwrite : a.writeMem w.1 w.2 =
        (true, { a with mem := a.mem.store (s.eventSlot k + 30) (s.enteredBytes st) }) := by
      rw [hw]
      exact writeMem_of_limit (by change s.eventSlot k + 30 + (s.enteredBytes st).length ≤ s.iface.limit; omega)
    rw [hwrite]
    rfl

theorem enteredBytes_of_written (hr : s.engine.results.reached.isSome = true) (st : EngineState) :
    s.enteredBytes st = [byte st.code] := if_neg (by simp [Option.isSome_iff_ne_none.mp hr])

theorem enteredBytes_of_first (hr : s.engine.results.reached = none) (st : EngineState) :
    s.enteredBytes st = s.engine.resultWhole st.code .none (half 0) := if_pos (by simp [hr])

/-- A progress write once results stand in the slot: each field at its offset (R125). -/
theorem progress_of_written {fields : List (Nat × List Byte)} (h : s.slotHeld slot)
    (hr : s.engine.results.reached.isSome = true) (hst : s.engine.state ≠ .aborting)
    (hf : ∀ w ∈ fields, w.1 + w.2.length ≤ 64) :
    s.progress fields = { s with mem := s.mem.storeAll (fields.map fun w => (s.eventSlot slot + w.1, w.2)) } := by
  obtain ⟨htaken, hlimit⟩ := h
  have hn : s.engine.results.reached.isNone = false := by simpa using hr
  have hws : s.resultWrites slot fields = fields.map fun w => (s.eventSlot slot + w.1, w.2) := by
    simp only [State.resultWrites, hn, Bool.false_eq_true, if_false]
  have hall : ∀ w ∈ fields.map (fun w => (s.eventSlot slot + w.1, w.2)), w.1 + w.2.length ≤ s.iface.limit := by
    intro w hw
    obtain ⟨x, hx, rfl⟩ := List.mem_map.mp hw
    have := hf x hx
    simp only
    omega
  unfold State.progress
  simp only [htaken, if_neg hst, hws, writeAll_of_limit hall]

/-! ## A STATE reply -/

/-- The state once a STATE has been stored (R45). -/
def State.stateKept (s : State) (n : Deck) (d : DeckState) : State :=
  (s.heard n).onLink n fun l => { l with lastState := some d }

theorem deliverState_eq (s : State) (n : Deck) (d : DeckState) :
    (s.heard n).deliverState n d =
      ((if d.atTarget then (s.stateKept n d).endSeek n none else s.stateKept n d).onTracker n fun t =>
        t.takeState d).engineState n d := rfl

/-- A STATE concerns the engine when its deck is claimed and has no tape (R131). -/
theorem engineState_of_kept {d : DeckState} (h : s.claimed n = false ∨ d.tapeIn = true) : s.engineState n d = s := by
  unfold State.engineState
  rcases h with h | h <;> simp [h]

theorem Tracker.takeState_eq (t : Tracker) (d : DeckState) :
    t.takeState d =
      if d.tapeIn = false then
        { t with quality := .none, base := none, history := [], candidate := none, v := 0, limitDue := false }
      else if d.mode = .stopped ∨ d.mode = .still ∨ d.mode = .standbyOff then
        { t with
          v := 0, history := t.history.take 1, candidate := none, limitDue := false
          quality := if t.quality = .none then .none else .link }
      else t := by
  unfold Tracker.takeState
  cases d.tapeIn with
  | false => rfl
  | true =>
    simp only [Bool.not_true, Bool.false_eq_true, if_false, Bool.true_eq_false]
    split
    · cases t.quality <;> rfl
    · rfl

theorem SparesDecks.lastState (h : SparesDecks s t) (n : Deck) : (t.deck n).link.lastState = (s.deck n).link.lastState :=
  congrArg (fun x => x.2.2.2.2.2.2.1) (h n)

theorem SparesDecks.target (h : SparesDecks s t) (n : Deck) :
    (t.deck n).link.seek.map PendingSeek.target = (s.deck n).link.seek.map PendingSeek.target :=
  congrArg (fun x => x.2.2.2.2.2.2.2.2.2) (h n)

/-! ## An arrival told to the engine and to a chase -/

/-- The engine with deck `n` ARRIVED. -/
def Engine.arrived (n : Deck) (e : Engine) : Engine := { e with cue := e.cue.set n (some .arrived) }

/-- Every other claimed deck has ARRIVED. -/
def Engine.othersArrived (e : Engine) (n : Deck) : Prop := ∀ m ∈ e.claims, m ≠ n → e.cue.get m = some .arrived

theorem all_arrived_iff (e : Engine) (n : Deck) :
    ((e.arrived n).claims.all fun m => (e.arrived n).cue.get m == some .arrived) = true ↔ e.othersArrived n := by
  rw [List.all_eq_true]
  refine forall₂_congr fun m _ => ?_
  simp only [Engine.arrived, beq_iff_eq]
  by_cases hm : m = n
  · subst hm; simp
  · simp [Six.get_set_ne _ _ hm, hm]

theorem cueArrived_of_last (hst : s.engine.state = .cueing) (hc : s.claimed n = true) (h : s.engine.othersArrived n) :
    s.cueArrived n = (s.onEngine (Engine.arrived n)).enterRunning .cued := by
  unfold State.cueArrived
  rw [if_pos ⟨hst, hc⟩]
  exact if_pos ((all_arrived_iff s.engine n).mpr h)

theorem cueArrived_of_others (hst : s.engine.state = .cueing) (hc : s.claimed n = true)
    (h : ¬ s.engine.othersArrived n) : s.cueArrived n = s.onEngine (Engine.arrived n) := by
  unfold State.cueArrived
  rw [if_pos ⟨hst, hc⟩]
  exact if_neg (mt (all_arrived_iff s.engine n).mp h)

theorem tellSeek_engine_arrived {p : PendingSeek} (hq : p.requester = .engine) (hv : p.live = true) :
    s.tellSeek n p none = s.cueArrived n := by
  simp only [State.tellSeek, hq, hv, if_true]

theorem tellSeek_chase_arrived {p : PendingSeek} (hq : p.requester = .chase) :
    s.tellSeek n p none = s.chaseArrived n p := by
  simp only [State.tellSeek, hq]

theorem moveChase_unlocked {f : Chase → Chase} (h : (s.deck n).chase.state ≠ .locked)
    (hf : (f (s.deck n).chase).state ≠ .locked) : s.moveChase n f = s.onChase n f := by
  unfold State.moveChase
  simp [h, hf]

theorem offerTrim_of_absent (h : (s.deck n).link.state = .absent) (c : LinkCommand) : s.offerTrim n (some c) = s :=
  if_pos h

theorem offerTrim_of_present (h : (s.deck n).link.state ≠ .absent) (c : LinkCommand) :
    s.offerTrim n (some c) =
      s.onDeck n fun d => { d with link := d.link.replaceSeek, arbiter := { d.arbiter with trim := some c } } :=
  if_neg h

/-- Settles O35. -/
theorem stateReplyIsKeptAndExamined : Obligations.StateReplyIsKeptAndExamined := by
  refine ⟨fun s n e d f hs hc he hp hcmd hj hk => ?_, fun s n e d f p h hs hc he hp hcmd hj ha hk hq hsk => ?_,
    fun s n e d f hs he hp hcmd hj => ⟨fun p slot ha ht hk hq hv hst hc hslot hm hr => ?_,
      fun p k ha hc hk hq hv hsk hl => ?_, fun ht ha hc hr => ?_⟩⟩
  all_goals
    have hrep : Replied s n e (.state d) f := ⟨he, hp, hj, by simp [Reply.fits, Reply.finalFits, hcmd]⟩
    have hexec := exec_replyState hs hrep
    rw [deliverState_eq] at hexec
  · have hend : (if d.atTarget then (s.stateKept n d).endSeek n none else s.stateKept n d) = s.stateKept n d := by
      rcases hk with hk | hk
      · simp [hk]
      · rw [endSeek_of_none (by simpa [State.stateKept, State.heard] using hk), ite_self]
    rw [hend, engineState_of_kept (s := (s.stateKept n d).onTracker n _) (.inl hc)] at hexec
    have hsp := settleDecks_spares ((s.stateKept n d).onTracker n fun t => t.takeState d)
    have hcalm : Calm s ((s.stateKept n d).onTracker n fun t => t.takeState d).settleDecks :=
      ((((Calm.refl s).onLink n _).onLink n _).onTracker n _).settleDecks
    refine ⟨_, hexec, ?_, ?_, ?_, ?_, ?_, hcalm.standing⟩
    · rw [hsp.lastState]; simp [State.stateKept]
    · rw [hsp.failures]; simp [State.stateKept, State.heard]
    · rw [hsp.linkState]; simp [State.stateKept, State.heard]
    · rw [hsp.target]; simp [State.stateKept, State.heard]
    · rw [hsp.tracker, State.onTracker_deck_self, Tracker.takeState_eq]
      simp [State.stateKept, State.heard]
  · rw [if_pos ha, endSeek_of_some (p := p) (by simpa [State.stateKept, State.heard] using hk), tellSeek_host hq,
      hostSeekEnd_arrived (h := h) (by simpa [State.stateKept, State.heard] using hsk)] at hexec
    rw [engineState_of_kept (.inl ?_)] at hexec
    · rw [hexec]
      simp only [State.stateKept, State.heard, State.onLink_onLink]
      rfl
    · have hg := (completeRecord_aside ((s.stateKept n d).onLink n Link.unsought) n h ⟨true, 0x40, 0, .none, 0⟩).engine
      rw [State.claimed, State.onTracker_engine, hg]
      exact hc
  · rw [if_pos ha, endSeek_of_some (p := p) (by simpa [State.stateKept, State.heard] using hk),
      tellSeek_engine_arrived hq hv, engineState_of_kept (.inr ht)] at hexec
    by_cases ho : s.engine.othersArrived n
    · have hfirst : (((s.stateKept n d).onLink n Link.unsought).onEngine (Engine.arrived n)).enteredBytes .cued =
          (s.engine.arrived n).resultWhole 3 .none (half 0) := enteredBytes_of_first hr _
      have hlen := length_resultWhole (s.engine.arrived n) 3 .none (b := half 0) rfl
      have hbytes : ∃ rest, (s.engine.arrived n).resultWhole 3 .none (half 0) = 3 :: 0 :: 0 :: rest := ⟨_, rfl⟩
      rw [cueArrived_of_last (s := (s.stateKept n d).onLink n Link.unsought) hst hc ho,
        enterRunning_of_held (s := ((s.stateKept n d).onLink n Link.unsought).onEngine (Engine.arrived n)) hslot]
        at hexec
      have hmem : (((((s.stateKept n d).onLink n Link.unsought).onEngine (Engine.arrived n)).entered slot .cued).onTracker n
          fun t => t.takeState d).mem =
          s.mem.store (s.eventSlot slot + 30) ((s.engine.arrived n).resultWhole 3 .none (half 0)) := by
        rw [← hfirst]
        rfl
      obtain ⟨rest, hbytes⟩ := hbytes
      refine ⟨_, hexec, ?_, rfl, fun ⟨m, hm, hmn, hcue⟩ => absurd (ho m hm hmn) hcue, fun _ => ⟨rfl, rfl, ?_, ?_, ?_⟩⟩
      · simp only [State.onTracker_deck_self]
        change (((s.stateKept n d).onLink n Link.unsought).deck n).link.seek = none
        simp [Link.unsought]
      · rw [hmem]
        refine (Memory.read_store_inside (i := 0) _ _ hm (by omega)).trans ?_
        simp [hbytes]
      · rw [hmem]
        have h₁ := Memory.read_store_inside (i := 1) (s.eventSlot slot + 30) _ hm (by rw [hlen]; decide)
        have h₂ := Memory.read_store_inside (i := 2) (s.eventSlot slot + 30) _ hm (by rw [hlen]; decide)
        simp only [hbytes, List.getElem_cons_succ, List.getElem_cons_zero] at h₁ h₂ ⊢
        simp only [Memory.load, List.range_succ, List.range_zero, List.nil_append, List.map_append, List.map_cons,
          List.map_nil]
        exact congrArg₂ (fun a b => [a, b]) h₁ h₂
      · intro b hb
        rw [hmem]
        exact Memory.read_store_outside _ _ _ (by omega)
    · rw [cueArrived_of_others (s := (s.stateKept n d).onLink n Link.unsought) hst hc ho] at hexec
      refine ⟨_, hexec, ?_, rfl, fun _ => ⟨hst, rfl⟩, fun h => absurd h ho⟩
      simp [Link.unsought]
  · rw [if_pos ha, endSeek_of_some (p := p) (by simpa [State.stateKept, State.heard] using hk),
      tellSeek_chase_arrived hq] at hexec
    have hx : ((s.stateKept n d).onLink n Link.unsought).deck n = { s.deck n with
        link := { (s.deck n).link with
          judged := none, exchange := none, failures := 0, state := (s.deck n).link.state.heard, lastState := some d
          seek := none, seekTimer := none } } := by
      simp [State.stateKept, State.heard, Link.unsought]
    have hg : ((s.stateKept n d).onLink n Link.unsought).engine = s.engine := rfl
    have hmem : ((s.stateKept n d).onLink n Link.unsought).mem = s.mem := rfl
    have hcx : ((s.stateKept n d).onLink n Link.unsought).claimed n = false := hc
    generalize (s.stateKept n d).onLink n Link.unsought = x at *
    have hown : (x.deck n).chase.ownsSeek p = true := by simp [Chase.ownsSeek, hx, hv, hsk]
    have hst : (x.deck n).chase.state ≠ .locked := by rw [hx]; exact hl
    have hseeking : (x.deck n).chase.seeking .park = (k.purpose == .park) := by
      simp [Chase.seeking, hx, hsk]
    unfold State.chaseArrived at hexec
    simp only [hown, if_true, hseeking] at hexec
    cases hpur : k.purpose with
    | park =>
      rw [hpur, if_pos (beq_self_eq_true _), moveChase_unlocked hst (by simp),
        engineState_of_kept (.inl (by exact hcx))] at hexec
      refine ⟨_, hexec, hmem, hg, ?_, fun _ => ?_, fun h => absurd h (by simp)⟩
      · simp [hx]
      · simp [hx]
    | runOn =>
      rw [hpur, if_neg (by decide), moveChase_unlocked hst (by simp)] at hexec
      by_cases hab : (s.deck n).link.state = .absent
      · rw [offerTrim_of_absent (by simp [hx, hab, LinkState.heard]),
          engineState_of_kept (.inl (by exact hcx))] at hexec
        refine ⟨_, hexec, hmem, hg, ?_, fun h => absurd h (by simp), fun _ h => absurd hab h⟩
        simp [hx]
      · have hheard : (s.deck n).link.state.heard ≠ .absent := by
          unfold LinkState.heard
          split <;> simp_all
        rw [offerTrim_of_present (by simpa [hx] using hheard),
          engineState_of_kept (.inl (by exact hcx))] at hexec
        refine ⟨_, hexec, hmem, hg, ?_, fun h => absurd h (by simp), fun _ _ => ?_⟩
        · simp [hx, Link.replaceSeek]
        · simp [hx]
  · rw [ha, if_neg Bool.false_ne_true] at hexec
    have hcr : ((s.stateKept n d).onTracker n fun t => t.takeState d).claimed n = true ∧ (!d.tapeIn) = true :=
      ⟨hc, by rw [ht]; rfl⟩
    have hab := abort_aside (s := (s.stateKept n d).onTracker n fun t => t.takeState d) .deckFailed hr
    rw [State.engineState, if_pos hcr] at hexec
    exact ⟨_, hexec, congrArg Engine.state hab.engine, congrArg Engine.abortCode hab.engine⟩

end Sys2Proof.Machine
end

section
/-!
PROOFS. The engine's schedule row by row (Table 8-3): punches, record in and out, the end of postroll, the abandoned punch.
-/

namespace Sys2Proof.Machine

variable {s t u v : State} {n m : Deck} {slot : Fin 64}

/-! ## The rows of the schedule -/

theorem engineRow_of_due {a : Act} (hd : a.due s = true) (he : s.noEarlierAct a) :
    s.engineRow a = (a.run s).settleDecks := by
  have hfold : (engineActs.takeWhile (· ≠ a)).foldl State.actIfDue s = s :=
    foldl_of_none fun b hb => if_neg (by simp [he b hb])
  unfold State.engineRow
  rw [if_pos hd, hfold, row_of_due hd]

/-- The row of an act that is due, no earlier one being, on a ready part. -/
theorem command_engineRow {a : Act} (hs : s.ready) (hd : a.due s = true) (he : s.noEarlierAct a) :
    command (fun s => s.engineRow a) s = .next (a.run s).settleDecks :=
  (command_of_ready hs fun s => s.engineRow a).trans (congrArg Host.Outcome.next (engineRow_of_due hd he))

/-- A change of the engine's state leaves every link busy. -/
theorem State.linksBusy.onEngine (h : s.linksBusy) (f : Engine → Engine) : (s.onEngine f).linksBusy := h

theorem setPunch_of_some {p : PunchId} {x : Punch} (h : s.engine.punches.get p = some x) (st : PunchStatus) :
    s.setPunch p st = s.onEngine fun e => { e with punches := e.punches.set p (some { x with status := st }) } := by
  simp only [State.setPunch, State.onEngine, h, Option.map_some]

@[simp] theorem fieldAdd_zero (f : FieldCount) : fieldAdd f 0 = f := by
  simp [fieldAdd]

theorem offerEngine_of_room (h : (s.deck n).arbiter.engineQueue.length < 4) (r : EngineRequest) :
    s.offerEngine n r = (true, s.onArbiter n fun a => { a with engineQueue := a.engineQueue ++ [r] }) := if_pos h

theorem State.linksBusy.onArbiter (h : s.linksBusy) (n : Deck) (f : Arbiter → Arbiter) : (s.onArbiter n f).linksBusy := by
  unfold State.onArbiter
  exact h.onDeck_kept n fun _ => ⟨rfl, rfl⟩

/-- A punch offered to a recorder with room in its engine queue (R136, R139). -/
theorem offerPunch_of_room {p : PunchId} {x : Punch} (hx : s.engine.punches.get p = some x)
    (h : (s.deck n).arbiter.engineQueue.length < 4) (c : LinkCommand) :
    s.offerPunch p n c =
      (s.onArbiter n fun a => { a with engineQueue := a.engineQueue ++ [⟨c, true, some p⟩] }).onEngine fun e =>
        { e with punches := e.punches.set p (some { x with status := .queued }) } := by
  unfold State.offerPunch
  rw [offerEngine_of_room h]
  exact setPunch_of_some (s := s.onArbiter n _) hx _

/-- Settles O49. -/
theorem punchesOpenAndQueue : Obligations.PunchesOpenAndQueue := by
  intro s p x hs hb hx
  refine ⟨fun hst hsch he hF => ?_, fun ev hst hF hw hroom => ⟨fun hp hrun he => ?_, fun hp hrun he => ?_⟩⟩
  · have hdue : (Act.window p).due s = true := by
      simp [Act.due, hsch, State.punchAt, State.punch, hx, hst, State.F, hF]
    refine (command_engineRow hs hdue he).trans (congrArg Host.Outcome.next ?_)
    change (s.setPunch p .window).settleDecks = _
    rw [setPunch_of_some hx, settleDecks_of_busy (hb.onEngine _)]
  · have hdue : (Act.punchIn p).due s = true := by
      have hstat : (x.status == .planned || x.status == .window) = true := by rcases hst with h | h <;> simp [h]
      have hstate : (s.engine.state == .synced || s.engine.state == .recording) = true := by
        rcases hrun with h | h <;> simp [h]
      simp [Act.due, hp, hstate, State.punchAt, State.punch, hx, hstat, State.F, hF]
    refine (command_engineRow hs hdue he).trans (congrArg Host.Outcome.next ?_)
    have hrun : (Act.punchIn p).run s = s.offerPunch p ev.recorder (.punchIn x.mask) := by
      simp only [Act.run, State.onEvent, hw, State.punch, hx, Option.elim_some]
    rw [hrun, offerPunch_of_room hx hroom, settleDecks_of_busy ((hb.onArbiter _ _).onEngine _)]
  · subst hp
    have hdue : Act.punchOut.due s = true := by
      have hstat : (x.status == .planned || x.status == .window) = true := by rcases hst with h | h <;> simp [h]
      have hstate : (s.engine.state == .synced || s.engine.state == .recording || s.engine.state == .postroll) = true := by
        rcases hrun with h | h | h <;> simp [h]
      simp [Act.due, hstate, State.punchAt, State.punch, hx, hstat, State.F, hF]
    refine (command_engineRow hs hdue he).trans (congrArg Host.Outcome.next ?_)
    have hrun : Act.punchOut.run s = s.offerPunch .out ev.recorder (.punchOut 15) := by
      simp only [Act.run, State.onEvent, hw]
    rw [hrun, offerPunch_of_room hx hroom, settleDecks_of_busy ((hb.onArbiter _ _).onEngine _)]

/-! ## Record in, record out and the end of postroll -/

theorem Calm.eventSlot (h : Calm s t) (k : Fin 64) : t.eventSlot k = s.eventSlot k := by
  have hb : t.iface.bases = s.iface.bases := congrArg Standing.bases h.standing
  simp only [State.eventSlot, hb]

theorem Calm.slotHeld (h : Calm s t) (he : t.engine.takenSlot = s.engine.takenSlot) (hs : s.slotHeld slot) :
    t.slotHeld slot := by
  rw [State.slotHeld, he, h.eventSlot, h.toKept.limit]
  exact hs

theorem entered_of_written (hr : s.engine.results.reached.isSome = true) (st : EngineState) :
    s.entered slot st =
      { s with
        mem := s.mem.store (s.eventSlot slot + 30) [byte st.code]
        engine := { s.engine with state := st, results := { s.engine.results with reached := some st } } } := by
  rw [State.entered, enteredBytes_of_written hr]

/-- The chases of the claimed decks ended (R140). -/
theorem eachClaimed_endChase (hn : s.engine.claims.Nodup) (m : Deck) :
    (s.eachClaimed State.endChase).deck m = if m ∈ s.engine.claims then (s.deck m).chaseEnded else s.deck m :=
  eachClaimed_deck (f := State.endChase) (g := fun _ => DeckUnit.chaseEnded) (fun u k => (Aside.refl u).endChase k) hn
    (fun u k j _ => endChase_deck u k j) m

theorem DeckUnit.chaseEnded_arbiter (d : DeckUnit) :
    d.chaseEnded.arbiter = if d.chase.state = .off then d.arbiter else { d.arbiter with trim := none } := by
  unfold DeckUnit.chaseEnded
  split <;> rfl

/-- A HALT of ENDING offered where the engine queue has room (R140). -/
theorem offerEndingHalt_of_room (h : (s.deck n).arbiter.engineQueue.length < 4) :
    s.offerEndingHalt n = s.onArbiter n fun a => { a with engineQueue := a.engineQueue ++ [⟨.halt, true, none⟩] } := by
  unfold State.offerEndingHalt
  rw [offerEngine_of_room h]

/-- A deck with a HALT queued by the engine. -/
def DeckUnit.halted (d : DeckUnit) : DeckUnit :=
  { d with arbiter := { d.arbiter with engineQueue := d.arbiter.engineQueue ++ [⟨.halt, true, none⟩] } }

/-- The HALTs of ENDING offered to claimed decks with room: nothing else changes. -/
theorem eachClaimed_offerEndingHalt (hn : s.engine.claims.Nodup)
    (hq : ∀ n, (s.deck n).arbiter.engineQueue.length < 4) :
    (Aside s (s.eachClaimed State.offerEndingHalt) ∧ (s.eachClaimed State.offerEndingHalt).mem = s.mem) ∧
      ∀ m, (s.eachClaimed State.offerEndingHalt).deck m =
        if m ∈ s.engine.claims then (s.deck m).halted else s.deck m := by
  refine foldl_deck_of (f := State.offerEndingHalt) (P := fun u => Aside s u ∧ u.mem = s.mem)
    (Q := fun _ d => d.arbiter.engineQueue.length < 4) (g := fun _ => DeckUnit.halted)
    (fun u k hu hk => ?_) (fun u k j _ hk => ?_) hn ⟨.refl s, rfl⟩ fun k _ => hq k
  · rw [offerEndingHalt_of_room hk]
    exact ⟨hu.1.onArbiter k _, hu.2⟩
  · rw [offerEndingHalt_of_room hk]
    by_cases hj : j = k
    · subst hj; rw [State.onArbiter_deck_self, if_pos rfl, DeckUnit.halted]
    · rw [State.onArbiter_deck_ne _ _ hj, if_neg hj]

/-- The last completion is not made while a HALT is awaited (R141). -/
theorem tryComplete_of_awaited (h : s.engine.haltsAwaited ≠ []) : s.tryComplete = s := by
  unfold State.tryComplete
  rw [if_pos (by simp [h])]

/-- A change of decks that keeps lists and the readiness of links leaves every link busy. -/
theorem State.linksBusy.of_decks (h : s.linksBusy)
    (hd : ∀ n, (t.deck n).list = (s.deck n).list ∧ (t.deck n).free = (s.deck n).free) : t.linksBusy :=
  h.congr (fun n => by rw [(hd n).1]; exact ⟨rfl, rfl⟩) fun n => (hd n).2

/-- The HALTs of ENDING about to be offered: the claim set is awaited (R140). -/
def State.endingBegun (s : State) : State := s.onEngine fun e => { e with haltsAwaited := e.claims }

theorem endPostroll_eq (s : State) :
    s.endPostroll = ((s.enterRunning .ending).endingBegun.eachClaimed State.offerEndingHalt).tryComplete := rfl

/-- Settles O52. -/
theorem recordInOutAndEndFollowTheSchedule : Obligations.RecordInOutAndEndFollowTheSchedule := by
  refine ⟨fun s ev slot hs hb hslot hw hperf hst hr hF he => ?_, fun s slot hs hb hslot hn hr =>
    ⟨fun hst hF he => ?_, fun hst hF he hne hroom => ?_⟩⟩
  · have hdue : Act.rehearseIn.due s = true := by simp [Act.due, hst, hw, hperf, hF]
    refine (command_engineRow hs hdue he).trans (congrArg Host.Outcome.next ?_)
    change ((s.enterRunning .recording).raise .editProgress).settleDecks = _
    rw [enterRunning_of_held hslot, entered_of_written hr, settleDecks_of_busy]
    · rfl
    · exact hb
  · have hdue : Act.recordOut.due s = true := by
      have hstate : (s.engine.state == .synced || s.engine.state == .recording) = true := by
        rcases hst with h | h <;> simp [h]
      simp [Act.due, hstate, hF]
    have hexec := command_engineRow hs hdue he
    have hcalm := ((Calm.refl s).recordOut.settleDecks).standing
    change command _ s = .next (((s.eachClaimed State.endChase).enterRunning .postroll).settleDecks) at hexec
    change ((s.eachClaimed State.endChase).enterRunning .postroll).settleDecks.standing = _ at hcalm
    have ha : Aside s (s.eachClaimed State.endChase) := .eachClaimed (fun u k => (Aside.refl u).endChase k) s
    have hd := eachClaimed_endChase hn
    have hmem := eachClaimed_mem endChase_mem s
    have hcl : Calm s (s.eachClaimed State.endChase) := (Calm.refl s).eachClaimed fun n _ hu => hu.endChase n
    generalize s.eachClaimed State.endChase = a at *
    have hra : a.engine.results.reached.isSome = true := by rw [ha.engine]; exact hr
    rw [enterRunning_of_held (hcl.slotHeld (by rw [ha.engine]) hslot), entered_of_written hra, hcl.eventSlot,
      settleDecks_of_busy] at hexec
    · refine ⟨_, hexec, rfl, rfl,
        show a.engine.claims = _ from congrArg Engine.claims ha.engine, fun n hm => ?_, fun n hm => ?_, fun n => ?_,
        ha.generator, ⟨ha.marks, ha.log, ha.gpi⟩, congrArg (fun m => Memory.store m _ _) hmem, ?_⟩
      · change (a.deck n).chase.state = .off ∧ (a.deck n).arbiter = _
        rw [hd, if_pos hm]
        exact ⟨DeckUnit.chaseEnded_chase _, DeckUnit.chaseEnded_arbiter _⟩
      · exact (hd n).trans (if_neg hm)
      · change s.sidesKept a n
        rw [State.sidesKept, hd]
        split
        · simp
        · exact ⟨rfl, rfl, rfl, rfl, rfl⟩
      · have hstand := (hcl.enterRunning .postroll).standing
        rw [enterRunning_of_held (hcl.slotHeld (by rw [ha.engine]) hslot), entered_of_written hra, hcl.eventSlot] at hstand
        exact hstand
    · refine hb.of_decks fun n => ?_
      change (a.deck n).list = _ ∧ (a.deck n).free = _
      rw [hd]
      split
      · simp
      · exact ⟨rfl, rfl⟩
  · have hdue : Act.endPostroll.due s = true := by simp [Act.due, hst, hF]
    have hexec := command_engineRow hs hdue he
    have hcalm := (Calm.refl s).endPostroll.standing
    change command _ s = .next (s.endPostroll.settleDecks) at hexec
    rw [endPostroll_eq, enterRunning_of_held hslot, entered_of_written hr] at hexec hcalm
    obtain ⟨⟨ha, hmem⟩, hd⟩ := eachClaimed_offerEndingHalt (s := State.endingBegun
      { s with
        mem := s.mem.store (s.eventSlot slot + 30) [byte EngineState.ending.code]
        engine := { s.engine with
          state := .ending, results := { s.engine.results with reached := some .ending } } }) hn hroom
    generalize (State.endingBegun _).eachClaimed State.offerEndingHalt = a at *
    have hawaited : a.engine.haltsAwaited ≠ [] := by rw [ha.engine]; exact hne
    rw [tryComplete_of_awaited hawaited] at hexec hcalm
    rw [settleDecks_of_busy] at hexec
    · refine ⟨a, hexec, by rw [ha.engine]; rfl, by rw [ha.engine]; rfl, by rw [ha.engine]; rfl, by rw [ha.engine]; rfl,
        fun n hm => ?_, fun n hm => (hd n).trans (if_neg hm), fun n => ?_, ha.generator,
        ⟨ha.marks, ha.log, ha.gpi⟩, hmem, hcalm⟩
      · rw [(hd n).trans (if_pos hm)]
        rfl
      · rw [State.sidesKept, hd]
        split
        · exact ⟨rfl, rfl, rfl, rfl, rfl⟩
        · exact ⟨rfl, rfl, rfl, rfl, rfl⟩
    · refine hb.of_decks fun n => ?_
      rw [hd]
      split
      · exact ⟨rfl, rfl⟩
      · exact ⟨rfl, rfl⟩

end Sys2Proof.Machine
end

section
/-!
PROOFS. The punch abandoned because it is late (R136), and the answers to punches.
-/

namespace Sys2Proof.Machine

variable {s t u v : State} {n m : Deck} {slot : Fin 64}

/-! ## The results of one punch -/

theorem punchOffset_bound (i : PunchId) : 44 ≤ punchOffset i ∧ punchOffset i + 5 ≤ 59 := by cases i <;> decide

theorem writePunch_of_written (h : s.slotHeld slot) (hr : s.engine.results.reached.isSome = true)
    (hst : s.engine.state ≠ .aborting) (i : PunchId) :
    s.writePunch i = { s with
      mem := (s.mem.store (s.eventSlot slot + 42) [byte s.engine.punches.flags]).store
        (s.eventSlot slot + punchOffset i) (punchBytes (s.engine.punches.get i)) } := by
  have hi := punchOffset_bound i
  refine (progress_of_written (fields := s.engine.punchFields i) h hr hst ?_).trans rfl
  simp only [Engine.punchFields, List.forall_mem_cons, List.length_singleton, length_punchBytes]
  exact ⟨by omega, by omega, by simp⟩

theorem load_writePunch (hm : s.memoryOk) (h : s.slotHeld slot) (hr : s.engine.results.reached.isSome = true)
    (hst : s.engine.state ≠ .aborting) (i : PunchId) :
    (s.writePunch i).mem.load (s.eventSlot slot + punchOffset i) 5 = punchBytes (s.engine.punches.get i) := by
  rw [writePunch_of_written h hr hst]
  exact Memory.load_store_eq (Memory.wf_store _ _ hm) (length_punchBytes _)

theorem read_writePunch (hm : s.memoryOk) (h : s.slotHeld slot) (hr : s.engine.results.reached.isSome = true)
    (hst : s.engine.state ≠ .aborting) (i : PunchId) :
    (s.writePunch i).mem.read (s.eventSlot slot + 42) = byte s.engine.punches.flags := by
  have hi := punchOffset_bound i
  rw [writePunch_of_written h hr hst]
  exact (Memory.read_store_outside _ _ _ (by omega)).trans (Memory.read_store_one hm _ _)

theorem writePunch_outside (h : s.slotHeld slot) (hr : s.engine.results.reached.isSome = true)
    (hst : s.engine.state ≠ .aborting) (i : PunchId) : s.sameOutside (s.writePunch i) (s.eventSlot slot + 42) 17 := by
  intro b hb
  have hi := punchOffset_bound i
  rw [writePunch_of_written h hr hst]
  refine (Memory.read_store_outside _ _ _ ?_).trans (Memory.read_store_outside _ _ _ ?_)
  · rw [length_punchBytes]; omega
  · rw [List.length_singleton]; omega

/-! ## A late punch -/

theorem punchSent_abandoned {x : Punch} (h : x.actual = none) :
    punchSent (some { x with status := .abandoned }) = 0 := by
  simp [punchSent, Punch.sent, h]

theorem bit_video : ∀ a b : Bool, (byte (0 + 2 * a.toNat + 4 * b.toNat))[0] = false := by decide

theorem bit_audio : ∀ a b : Bool, (byte (a.toNat + 2 * 0 + 4 * b.toNat))[1] = false := by decide

theorem flags_video {p : PunchPlan} (h : punchSent p.video = 0) : (byte p.flags)[0] = false := by
  unfold PunchPlan.flags
  rw [h]
  exact bit_video _ _

theorem flags_audio {p : PunchPlan} (h : punchSent p.audio = 0) : (byte p.flags)[1] = false := by
  unfold PunchPlan.flags
  rw [h]
  exact bit_audio _ _

@[simp] theorem PunchPlan.get_set_self (p : PunchPlan) (i : PunchId) (x : Option Punch) : (p.set i x).get i = x := by
  cases i <;> rfl

/-- An abort leaves an entry that is not in its window as it is. -/
theorem get_aborted {e : Engine} {i : PunchId} {x : Punch} (hi : i ≠ .out) (h : e.punches.get i = some x)
    (hx : x.inWindow = false) (code : FaultCode) (f : FieldCount) :
    (e.aborted code f).punches.get i = some x := by
  have habandon : e.punches.abandonOpen.get i = some x := by
    rw [PunchPlan.get_abandonOpen, h]
    simp [hx]
  unfold Engine.aborted
  dsimp only
  split
  · rw [← habandon]
    cases i with
    | out => exact absurd rfl hi
    | _ => rfl
  · exact habandon

theorem command_of_mem_abortQueue {r : EngineRequest} (h : r ∈ s.abortQueue n) :
    r.command = .halt ∨ r.command = .punchOut 15 := by
  unfold State.abortQueue at h
  split at h
  · rcases List.mem_cons.mp h with rfl | h
    · exact .inr rfl
    · rw [List.mem_singleton.mp h]; exact .inl rfl
  · rw [List.mem_singleton.mp h]; exact .inl rfl

/-- Settles O51. -/
theorem latePunchIsAbandoned : Obligations.LatePunchIsAbandoned := by
  intro s p x ev slot hs hb hm hslot hw hp hx hst hF hr hstate he hn
  have hdue : (Act.abandon p).due s = true := by
    have hsch : s.engine.state.scheduled = true := by rcases hstate with h | h <;> rw [h] <;> rfl
    simp [Act.due, hp, hsch, State.punchAt, State.punch, hx, hst, State.F, hF]
  have hexec := command_engineRow hs hdue he
  have hrun : (Act.abandon p).run s = s.abandonPunch p ev.recorder := by simp only [Act.run, State.onEvent, hw]
  have hcalm := ((Calm.refl s).abandonPunch p ev.recorder).standing
  rw [hrun] at hexec
  have habort : s.abandonPunch p ev.recorder =
      (((s.withdrawPunch p ev.recorder).setPunch p .abandoned).writePunch p).abort .punchLate := by
    have hwritten := writePunch_of_written (s := (s.withdrawPunch p ev.recorder).setPunch p .abandoned) hslot hr
      (by change s.engine.state ≠ .aborting; rcases hstate with h | h <;> simp [h]) p
    unfold State.abandonPunch
    rw [hwritten]
    exact if_pos hstate
  rw [habort] at hexec hcalm
  have hget : ((s.withdrawPunch p ev.recorder).setPunch p .abandoned).engine.punches.get p =
      some { x with status := .abandoned } := by
    rw [setPunch_of_some (s := s.withdrawPunch p ev.recorder) hx]
    exact PunchPlan.get_set_self _ _ _
  have hquiet : Quiet s ((s.withdrawPunch p ev.recorder).setPunch p .abandoned) := fun n => by
    by_cases hn : n = ev.recorder
    · subst hn
      simp [State.sidesKept, State.setPunch, State.withdrawPunch, DeckUnit.free]
    · have hd : ((s.withdrawPunch p ev.recorder).setPunch p .abandoned).deck n = s.deck n := by
        unfold State.setPunch State.withdrawPunch
        rw [State.onEngine_deck, State.onArbiter_deck_ne _ _ hn]
      rw [State.sidesKept, hd]
      exact ⟨⟨rfl, rfl, rfl, rfl, rfl⟩, rfl⟩
  have hbx := hquiet.linksBusy hb
  have hmx : ((s.withdrawPunch p ev.recorder).setPunch p .abandoned).mem = s.mem := rfl
  have hsx : ((s.withdrawPunch p ev.recorder).setPunch p .abandoned).slotHeld slot := hslot
  have hex : ((s.withdrawPunch p ev.recorder).setPunch p .abandoned).eventSlot slot = s.eventSlot slot := rfl
  have hrx : ((s.withdrawPunch p ev.recorder).setPunch p .abandoned).engine.results.reached.isSome = true := hr
  have hstx : ((s.withdrawPunch p ev.recorder).setPunch p .abandoned).engine.state.running = true := by
    change s.engine.state.running = true
    rcases hstate with h | h <;> rw [h] <;> rfl
  have hcx : ((s.withdrawPunch p ev.recorder).setPunch p .abandoned).engine.claims = s.engine.claims := rfl
  have hux : s.unitsKept ((s.withdrawPunch p ev.recorder).setPunch p .abandoned) := ⟨rfl, rfl, rfl⟩
  generalize (s.withdrawPunch p ev.recorder).setPunch p .abandoned = y at *
  have hnx : y.engine.state ≠ .aborting := fun h => by rw [h] at hstx; exact absurd hstx (by decide)
  have hmy : y.memoryOk := by rw [State.memoryOk, hmx]; exact hm
  have hload := load_writePunch hmy hsx hrx hnx p
  have hread := read_writePunch hmy hsx hrx hnx p
  have hout (b : Nat) (hb : b < s.eventSlot slot + 42 ∨ s.eventSlot slot + 42 + 17 ≤ b) :
      (y.writePunch p).mem.read b = s.mem.read b :=
    (writePunch_outside hsx hrx hnx p b (by rw [hex]; exact hb)).trans (by rw [hmx])
  have hwf : (y.writePunch p).mem.wf = true := by
    rw [writePunch_of_written hsx hrx hnx]
    exact Memory.wf_store _ _ (Memory.wf_store _ _ hmy)
  have hz : y.writePunch p = { y with mem := (y.writePunch p).mem } := by rw [writePunch_of_written hsx hrx hnx]
  generalize (y.writePunch p).mem = w at *
  rw [hz] at hexec hcalm
  have ha := abort_aside (s := { y with mem := w }) .punchLate hstx
  have hab := abort_quiet { y with mem := w } .punchLate
  have hwr := abort_writes (s := { y with mem := w }) .punchLate hstx
  have hbz : State.linksBusy { y with mem := w } := hbx
  rw [settleDecks_of_busy (hab.linksBusy hbz)] at hexec
  obtain ⟨hnone, hsome⟩ := hwr
  have hsome := hsome slot hsx hwf hrx
  obtain ⟨hsame, -, hflags, hpunches⟩ := hsome
  have hkeep := (hpunches p).2 (by
    intro z hz
    rw [hget] at hz
    obtain rfl := Option.some.inj hz
    rfl)
  have hbit {k : Nat} (hk : k < 8)
      (hq : ∀ q : PunchPlan, q.get p = some { x with status := .abandoned } → (byte q.flags)[k] = false) :
      ((State.abort { y with mem := w } .punchLate).mem.read (s.eventSlot slot + 42))[k] = false := by
    cases hwin : y.engine.punches.window with
    | true =>
      have habandon : y.engine.punches.abandonOpen.get p = some { x with status := .abandoned } := by
        rw [PunchPlan.get_abandonOpen, hget]
        rfl
      rw [← hex]
      exact (congrArg (fun b : Byte => b[k]) (hflags hwin)).trans (hq _ habandon)
    | false =>
      rw [hnone hwin, ← hex]
      exact (congrArg (fun b : Byte => b[k]) hread).trans (hq _ hget)
  refine ⟨_, hexec, congrArg Engine.state ha.engine, congrArg Engine.abortCode ha.engine, ?_, fun n hn r hr => ?_,
    fun n => (hquiet n).1.trans (hab n).1, ?_, ?_, hcalm, fun hact => ⟨?_, fun hv => ?_, fun hv => ?_⟩⟩
  · rw [ha.engine]
    exact congrArg (Option.map Punch.status) (get_aborted hp hget rfl _ _)
  · rw [abort_claimed (s := { y with mem := w }) .punchLate hstx (by rw [hcx]; assumption) (by rw [hcx]; exact hn)] at hr
    rw [DeckUnit.aborted_queue] at hr
    exact command_of_mem_abortQueue hr
  · exact ⟨ha.marks.trans hux.1, ha.log.trans hux.2.1, ha.gpi.trans hux.2.2⟩
  · intro b hb
    refine (hsame b ?_).trans (hout b (by omega))
    change b < y.eventSlot slot + 42 ∨ y.eventSlot slot + 42 + 17 ≤ b
    rw [hex]
    omega
  · refine Eq.trans (congrArg (fun k => Memory.load _ (s.eventSlot slot + k) 5) (?_ : _ = punchOffset p)) ?_
    · cases p <;> rfl
    · rw [hget] at hload
      rw [← hex]
      exact hkeep.trans (hload.trans (punchBytes_abandoned hact))
  · refine hbit (k := 0) (by decide) fun q hq => flags_video (p := q) ?_
    subst hv
    exact (congrArg punchSent hq).trans (punchSent_abandoned hact)
  · refine hbit (k := 1) (by decide) fun q hq => flags_audio (p := q) ?_
    subst hv
    exact (congrArg punchSent hq).trans (punchSent_abandoned hact)

end Sys2Proof.Machine
end

section
/-!
PROOFS. What an append to the log can change, and the answers to the engine's punches (R130, R136 to R139).
-/

namespace Sys2Proof.Machine

variable {s t u v : State} {n m : Deck} {slot : Fin 64}

/-! ## What an append to the log leaves alone -/

section
variable {α : Type} {g : State → α} (hm : ∀ s m, g { s with mem := m } = g s) (hi : ∀ s f, g (State.onIface s f) = g s)
  (hl : ∀ s f, g (State.onLog s f) = g s)

include hm hi in
theorem limitFault_keeps (s : State) (a : Nat) : g (s.limitFault a) = g s := by
  have hw (s : State) : g s.writeDevice = g s := by
    unfold State.writeDevice
    extract_lets
    split
    · rfl
    · exact hm s _
  unfold State.limitFault State.offerDevice
  refine (hi _ _).trans ?_
  split
  · exact (hw _).trans (hi s _)
  · rfl

include hm hi in
theorem readMem_keeps (s : State) (a k : Nat) : g (s.readMem a k).2 = g s := by
  unfold State.readMem
  split
  · rfl
  · exact limitFault_keeps hm hi s a

include hm hi in
theorem writeMem_keeps (s : State) (a : Nat) (bs : List Byte) : g (s.writeMem a bs).2 = g s := by
  unfold State.writeMem
  split
  · exact hm s _
  · exact limitFault_keeps hm hi s a

include hm hi in
theorem writeAll_keeps (s : State) (ws : List (Nat × List Byte)) : g (s.writeAll ws).2 = g s := by
  induction ws generalizing s with
  | nil => rfl
  | cons w ws ih =>
    obtain ⟨a, bs⟩ := w
    have hw := writeMem_keeps hm hi s a bs
    unfold State.writeAll
    split
    · next e => rw [ih]; rwa [e] at hw
    · next e => rwa [e] at hw

include hm hi hl

theorem rereadLog_keeps (s : State) : g s.rereadLog = g s := by
  have hr := readMem_keeps hm hi s s.log.header 2
  unfold State.rereadLog
  split
  · rfl
  · split
    · next e => rw [e] at hr; exact (hl _ _).trans hr
    · next e => rw [e] at hr; exact (hl _ _).trans hr

theorem placeEntry_keeps (s : State) (x : LogEntry) : g (s.placeEntry x) = g s := by
  unfold State.placeEntry
  extract_lets k
  have hw := writeAll_keeps hm hi s [(s.log.slot s.log.writeIndex, x.bytes s.log.sequence), (s.log.header + 2, half k)]
  split
  · next e => rwa [e] at hw
  · next e =>
    rw [e] at hw
    unfold State.judgeThreshold
    split
    · exact (hi _ _).trans ((hl _ _).trans ((hl _ _).trans hw))
    · exact (hl _ _).trans hw

/-- An append to the log changes suite memory, the interface and the log. -/
theorem appendLog_keeps (s : State) (x : LogEntry) : g (s.appendLog x) = g s := by
  unfold State.appendLog
  split
  · rfl
  · split
    · have ha := rereadLog_keeps hm hi hl s
      generalize s.rereadLog = a at ha
      dsimp only
      split
      · unfold State.dropEntry State.raise
        exact (hi _ _).trans ((writeMem_keeps hm hi a _ _).trans ha)
      · exact (placeEntry_keeps hm hi hl a x).trans ha
    · exact placeEntry_keeps hm hi hl s x

end

theorem appendLog_engine (s : State) (x : LogEntry) : (s.appendLog x).engine = s.engine :=
  appendLog_keeps (g := State.engine) (fun _ _ => rfl) (fun _ _ => rfl) (fun _ _ => rfl) s x

theorem appendLog_generator (s : State) (x : LogEntry) : (s.appendLog x).generator = s.generator :=
  appendLog_keeps (g := State.generator) (fun _ _ => rfl) (fun _ _ => rfl) (fun _ _ => rfl) s x

/-! ## The answer to a punch, delivered -/

theorem deliverTaken_engine {e : Exchange} (hq : e.requester = .engine) (hv : e.live = true)
    (hk : e.command.isSeek = false) :
    s.deliverTaken n e = s.engineOutcome n e.command e.punch .taken := by
  have hs : (s.onDeck n fun d => { d with link := d.link.makeSeek e d.settings.seekLimit }) = s :=
    State.onDeck_self (by rw [Link.makeSeek_of_other hk])
  simp only [State.deliverTaken, hs, hq, hv, if_true]

theorem deliverRefused_engine {e : Exchange} (hq : e.requester = .engine) (hv : e.live = true) (r : RefusalReason) :
    s.deliverRefused n e r = s.engineOutcome n e.command e.punch (.refused r) := by
  simp only [State.deliverRefused, hq, hv, if_true]

theorem engineOutcome_punch (c : LinkCommand) (i : PunchId) (o : EngineOutcome) :
    s.engineOutcome n c (some i) o = s.punchEnded i o := rfl

theorem punchEnded_in_taken {i : PunchId} {ev : Event} (hi : i ≠ .out) (hw : s.engine.working = some ev) :
    s.punchEnded i .taken = s.punchInTaken i ev := by
  simp only [State.punchEnded, hw, if_neg hi]

/-- A PUNCH-IN is the event's first to be answered TAKEN. -/
def PunchPlan.untaken (p : PunchPlan) : Prop := ∀ j y, j ≠ .out → p.get j = some y → y.status ≠ .taken

theorem inTaken_eq_false {p : PunchPlan} (h : p.untaken) : p.inTaken = false := by
  have hv := h .video
  have ha := h .audio
  simp only [PunchPlan.get] at hv ha
  unfold PunchPlan.inTaken
  cases hx : p.video <;> cases hy : p.audio <;> simp_all

theorem inTaken_eq_true {p : PunchPlan} (h : ∃ j y, j ≠ .out ∧ p.get j = some y ∧ y.status = .taken) :
    p.inTaken = true := by
  obtain ⟨j, y, hj, hy, hs⟩ := h
  unfold PunchPlan.inTaken
  cases j with
  | video => simp [show p.video = some y from hy, hs]
  | audio => simp [show p.audio = some y from hy, hs]
  | out => exact absurd rfl hj

/-- The result bytes of a punch once it has been answered. -/
theorem punchBytes_of_known {x : Punch} {a : FieldCount} (hk : x.known = true) (ha : x.actual = some a) :
    punchBytes (some x) = halfOfField x.planned ++ halfOfField a ++ [byte (min 255 (fieldDiff a x.planned).toNat)] := by
  simp only [punchBytes, hk, if_true, ha]

theorem logEdit_eq (s : State) (k : Nat) (ev : Event) (f : Nat) (hslot : s.engine.takenSlot = some slot) :
    s.logEdit k ev f = if s.log.logEdits = true then
      s.appendLog ⟨k, some ev.recorder, s.timeline.F, addrOf ev.recordKind f, some ev.recordKind,
        (s.deck ev.recorder).tracker.quality, slot, 0⟩ else s := by
  simp only [State.logEdit, State.editEntry, hslot, Option.map_some, Option.getD_some]

/-- Suite memory with the results of punch `i`, now `x`, written into the slot (R136). -/
def State.punchMem (s : State) (slot : Fin 64) (i : PunchId) (x : Punch) : Memory :=
  (s.mem.store (s.eventSlot slot + 42) [byte (s.engine.punches.set i (some x)).flags]).store
    (s.eventSlot slot + punchOffset i) (punchBytes (some x))

/-- An entry of the plan changed, and its results written. -/
def State.punchWritten (s : State) (slot : Fin 64) (i : PunchId) (x : Punch) : State :=
  { s with mem := s.punchMem slot i x, engine := { s.engine with punches := s.engine.punches.set i (some x) } }

theorem setPunch_writePunch {i : PunchId} {x : Punch} (h : s.slotHeld slot)
    (hr : s.engine.results.reached.isSome = true) (hst : s.engine.state ≠ .aborting)
    (hx : s.engine.punches.get i = some x) (st : PunchStatus) :
    (s.setPunch i st).writePunch i = s.punchWritten slot i { x with status := st } := by
  rw [writePunch_of_written (s := s.setPunch i st) h hr hst, setPunch_of_some hx]
  simp only [State.onEngine_engine, PunchPlan.get_set_self]
  rfl

section
variable {i : PunchId} {x : Punch}

theorem load_punchMem (hm : s.memoryOk) : (s.punchMem slot i x).load (s.eventSlot slot + punchOffset i) 5 =
    punchBytes (some x) := Memory.load_store_eq (Memory.wf_store _ _ hm) (length_punchBytes _)

theorem wf_punchMem (hm : s.memoryOk) : (s.punchMem slot i x).wf = true := Memory.wf_store _ _ (Memory.wf_store _ _ hm)

theorem read_punchMem_outside {b : Nat} (hb : b < s.eventSlot slot + 42 ∨ s.eventSlot slot + 64 ≤ b) :
    (s.punchMem slot i x).read b = s.mem.read b := by
  have hi := punchOffset_bound i
  refine (Memory.read_store_outside _ _ _ ?_).trans (Memory.read_store_outside _ _ _ ?_)
  · rw [length_punchBytes]; omega
  · rw [List.length_singleton]; omega

variable {ev : Event} (h : s.slotHeld slot) (hr : s.engine.results.reached.isSome = true)
  (hx : s.engine.punches.get i = some x)
include h hr hx

/-- The state once the first PUNCH-IN answered TAKEN has made the record tally active, its results written. -/
theorem tally_writePunch (hst : s.engine.state ≠ .aborting) :
    ((s.setPunch i .taken).onGenerator fun g => { g with recordTally := true }).writePunch i =
      (s.punchWritten slot i { x with status := .taken }).onGenerator fun g => { g with recordTally := true } := by
  rw [← setPunch_writePunch h hr hst hx]
  rw [writePunch_of_written (s := (s.setPunch i .taken).onGenerator _) h hr hst,
    writePunch_of_written (s := s.setPunch i .taken) h hr hst]
  rfl

theorem punchInTaken_synced (hu : s.engine.punches.untaken) (hst : s.engine.state = .synced) :
    s.punchInTaken i ev =
      ({ s with
        mem := (s.punchMem slot i { x with status := .taken }).store (s.eventSlot slot + 30) [6]
        iface := { s.iface with pending := s.iface.pending.set .editProgress true }
        engine := { s.engine with
          state := .recording, punches := s.engine.punches.set i (some { x with status := .taken })
          results := { s.engine.results with reached := some .recording } }
        generator := { s.generator with recordTally := true } } : State).logEdit 3 ev ev.recordIn := by
  have hna : s.engine.state ≠ .aborting := by rw [hst]; decide
  have hfirst : (!s.engine.punches.inTaken) = true := by rw [inTaken_eq_false hu]; rfl
  unfold State.punchInTaken
  simp only [hfirst, if_true]
  rw [if_neg (by exact hna), tally_writePunch h hr hx hna, if_pos (by exact hst),
    enterRunning_of_held (s := (s.punchWritten slot i { x with status := .taken }).onGenerator _) h,
    entered_of_written (s := (s.punchWritten slot i { x with status := .taken }).onGenerator _) hr]
  rfl

theorem punchInTaken_ending (hu : s.engine.punches.untaken) (hst : s.engine.state = .ending) :
    s.punchInTaken i ev =
      ({ s with
        mem := s.punchMem slot i { x with status := .taken }
        engine := { s.engine with punches := s.engine.punches.set i (some { x with status := .taken }) }
        generator := { s.generator with recordTally := true } } : State).logEdit 3 ev ev.recordIn := by
  have hna : s.engine.state ≠ .aborting := by rw [hst]; decide
  have hfirst : (!s.engine.punches.inTaken) = true := by rw [inTaken_eq_false hu]; rfl
  unfold State.punchInTaken
  simp only [hfirst, if_true]
  rw [if_neg (by exact hna), tally_writePunch h hr hx hna,
    if_neg (by change s.engine.state ≠ .synced; rw [hst]; decide)]
  rfl

omit h hr in
theorem punchInTaken_aborting (hu : s.engine.punches.untaken) (hst : s.engine.state = .aborting) :
    s.punchInTaken i ev =
      { s with
        engine := { s.engine with punches := s.engine.punches.set i (some { x with status := .taken }) }
        generator := { s.generator with recordTally := true } } := by
  have hfirst : (!s.engine.punches.inTaken) = true := by rw [inTaken_eq_false hu]; rfl
  unfold State.punchInTaken
  simp only [hfirst, if_true]
  rw [if_pos (by exact hst), setPunch_of_some hx]
  rfl

theorem punchInTaken_second (ht : s.engine.punches.inTaken = true) (hst : s.engine.state ≠ .aborting) :
    s.punchInTaken i ev = s.punchWritten slot i { x with status := .taken } := by
  unfold State.punchInTaken
  simp only [ht, Bool.not_true, Bool.false_eq_true, if_false]
  rw [if_neg (by exact hst), setPunch_writePunch h hr hst hx]

end

/-- The five bytes of an actual out (R195). -/
def outBytes (ev : Event) (k : Nat) : List Byte := addrBytes (addrOf ev.recordKind k) ++ [byte ev.recordKind.flag]

theorem length_outBytes (ev : Event) (k : Nat) : (outBytes ev k).length = 5 := rfl

/-- The PUNCH-OUT answered and the actual out known, before they are written. -/
def State.outKnown (s : State) (x : Punch) (k : Nat) : State :=
  { s with engine := { s.engine with
    punches := s.engine.punches.set .out (some x), results := { s.engine.results with actualOut := some k } } }

section
variable {x : Punch} {ev : Event} (h : s.slotHeld slot) (hr : s.engine.results.reached.isSome = true)
  (hw : s.engine.working = some ev) (hx : s.engine.punches.get .out = some x)
include h hr hw hx

/-- The PUNCH-OUT answered TAKEN: its results and the actual out (R139). -/
theorem punchOutTaken_eq {sch : Schedule} {a : FieldCount} (hst : s.engine.state ≠ .aborting)
    (hsch : s.engine.schedule = some sch) (ha : x.actual = some a) :
    s.punchOutTaken ev =
      ({ s with
        mem := (s.punchMem slot .out { x with status := .taken }).store (s.eventSlot slot + 59)
          (outBytes ev (actualOut ev sch.fIn a))
        engine := { s.engine with
          punches := s.engine.punches.set .out (some { x with status := .taken })
          results := { s.engine.results with actualOut := some (actualOut ev sch.fIn a) } } } : State).logEdit 4 ev
        (actualOut ev sch.fIn a) := by
  have hbind : (s.setPunch .out .taken).engine.punches.out.bind Punch.actual = some a := by
    rw [setPunch_of_some hx]
    exact ha
  have hsch' : (s.setPunch .out .taken).engine.schedule = some sch := hsch
  unfold State.punchOutTaken
  simp only [hbind, hsch']
  refine congrArg (fun t => State.logEdit t 4 ev (actualOut ev sch.fIn a)) ?_
  have hbytes : Engine.actualOutBytes (s.outKnown { x with status := .taken } (actualOut ev sch.fIn a)).engine =
      outBytes ev (actualOut ev sch.fIn a) := by
    simp only [Engine.actualOutBytes, State.outKnown, hw]
    rfl
  have hp := progress_of_written (s := s.outKnown { x with status := .taken } (actualOut ev sch.fIn a)) (slot := slot)
    (fields := [(42, [byte (s.engine.punches.set .out (some { x with status := .taken })).flags]),
      (54, punchBytes (some { x with status := .taken })), (59, outBytes ev (actualOut ev sch.fIn a))]) h hr hst (by
      simp only [List.forall_mem_cons, List.length_singleton, length_punchBytes, length_outBytes]
      exact ⟨by omega, by omega, by omega, by simp⟩)
  rw [← hbytes] at hp ⊢
  rw [setPunch_of_some hx]
  exact hp

end

theorem tryComplete_of_running (h : s.engine.state ≠ .aborting ∧ s.engine.state ≠ .ending) : s.tryComplete = s := by
  unfold State.tryComplete
  simp only [h.1, h.2, false_and, if_false, ite_self]

theorem State.heard_tracker (s : State) (n m : Deck) : ((s.heard n).deck m).tracker = (s.deck m).tracker := by
  by_cases hm : m = n
  · subst hm; simp [State.heard]
  · rw [State.heard, State.onLink_deck_ne _ _ hm]

theorem punchEnded_refused {i : PunchId} (hi : i ≠ .out) (r : RefusalReason) :
    s.punchEnded i (.refused r) =
      if ((s.setPunch i .refused).writePunch i).engine.state.running then
        ((s.setPunch i .refused).writePunch i).abort .recordRefused
      else if ((s.setPunch i .refused).writePunch i).engine.state = .ending then
        ((s.setPunch i .refused).writePunch i).setEndFault .deckRefused
      else (s.setPunch i .refused).writePunch i := by
  simp only [State.punchEnded, if_neg hi]
  rfl

theorem punchEnded_out_taken {ev : Event} (hw : s.engine.working = some ev) :
    s.punchEnded .out .taken =
      ((s.punchOutTaken ev).onGenerator fun g => { g with recordTally := false }).tryComplete := by
  simp only [State.punchEnded, hw, if_true]

/-- The record tally made inactive after an entry that may have been logged (R139, R160). -/
theorem tryComplete_of_logged {b : Bool} {g : Generator} (h : s.engine.state ≠ .aborting ∧ s.engine.state ≠ .ending)
    (hg : s.generator = g) (x : LogEntry) :
    ((if b = true then s.appendLog x else s).onGenerator fun g => { g with recordTally := false }).tryComplete =
      { (if b = true then s.appendLog x else s) with generator := { g with recordTally := false } } := by
  subst hg
  cases b with
  | true =>
    simp only [if_true]
    rw [tryComplete_of_running (by rw [State.onGenerator_engine, appendLog_engine]; exact h), State.onGenerator,
      appendLog_generator]
  | false => exact tryComplete_of_running h

/-- Settles O50. -/
theorem punchAnswersMoveTheEvent : Obligations.PunchAnswersMoveTheEvent := by
  intro s v n e ev slot f a i x at_ done bytes hs hm hslot hw hr he hq hv hp hi hmo hseek hx hst ha hdone hat hbytes hvv
  have hfit (r : Reply) (hr : r = .taken ∨ ∃ w, r = .refused w) : r.fits e.command = true := by
    rcases hr with rfl | ⟨w, rfl⟩
    · simp [Reply.fits, Reply.finalFits, hmo]
    · rfl
  have hoff : at_ = s.eventSlot slot + punchOffset i := by rw [hat]; cases i <;> rfl
  have hob := punchOffset_bound i
  obtain rfl : v = s.heard n := hvv
  have hknown (st : PunchStatus) (hk : ({ x with status := st } : Punch).known = true) :
      punchBytes (some { x with status := st }) = bytes := by
    rw [punchBytes_of_known (a := a) hk ha, hbytes]
  have htaken (hj : (s.deck n).link.judged = some (.valid e.tag .taken, f)) :
      exec (.replyTaken n) s = .next ((s.heard n).punchEnded i .taken).settleDecks := by
    rw [exec_replyTaken hs ⟨he, hp, hj, hfit _ (.inl rfl)⟩, deliverTaken_engine hq hv hseek, hi]
    rfl
  have hload (u : Memory) (hu : u = (s.heard n).punchMem slot i done) : u.load at_ 5 = bytes := by
    rw [hoff, hu, ← hknown .taken rfl, hdone]
    exact load_punchMem (s := s.heard n) hm
  have hside {b : Nat} (hb : b < s.eventSlot slot + 42 ∨ s.eventSlot slot + 42 + 22 ≤ b) :
      ((s.heard n).punchMem slot i done).read b = s.mem.read b :=
    read_punchMem_outside (s := s.heard n) (by
      change b < s.eventSlot slot + 42 ∨ s.eventSlot slot + 64 ≤ b
      omega)
  have hlog (u : State) (k k' : Nat) (ht : u.engine.takenSlot = some slot) (hl : u.log = s.log) (hF : u.timeline = s.timeline)
      (hd : (u.deck ev.recorder).tracker = (s.deck ev.recorder).tracker) :
      u.logEdit k ev k' = if s.log.logEdits = true then
        u.appendLog ⟨k, some ev.recorder, s.timeline.F, addrOf ev.recordKind k', some ev.recordKind,
          (s.deck ev.recorder).tracker.quality, slot, 0⟩ else u := by
    rw [logEdit_eq u k ev k' ht, hl, hF, hd]
  have htr := State.heard_tracker s n ev.recorder
  subst hdone
  refine ⟨fun hj hio => ⟨fun hu => ⟨fun hsy => ?_, fun hen => ?_, fun hab => ?_⟩, fun ht hrec => ?_⟩, fun r hj hio hst => ?_,
    fun sch out hj hio hsch hstate hout => ?_⟩
  · rw [htaken hj, punchEnded_in_taken (s := s.heard n) hio hw,
      punchInTaken_synced (s := s.heard n) hslot hr hx hu hsy,
      hlog _ _ _ (by exact hslot.1) (by rfl) (by rfl) (by exact htr)]
    refine ⟨_, rfl, rfl, ?_, ?_, ?_⟩
    · exact Memory.read_store_one (wf_punchMem (s := s.heard n) (slot := slot) (i := i) hm) (s.eventSlot slot + 30) 6
    · refine (Memory.load_store_beside _ ?_).trans (hload _ rfl)
      rw [hoff, List.length_singleton]
      change _ ∨ s.eventSlot slot + 30 + 1 ≤ _
      omega
    · intro b hb
      refine (Memory.read_store_outside _ _ _ ?_).trans (hside (by omega))
      rw [List.length_singleton]
      change b < s.eventSlot slot + 30 ∨ s.eventSlot slot + 30 + 1 ≤ b
      omega
  · rw [htaken hj, punchEnded_in_taken (s := s.heard n) hio hw,
      punchInTaken_ending (s := s.heard n) hslot hr hx hu hen,
      hlog _ _ _ (by exact hslot.1) (by rfl) (by rfl) (by exact htr)]
    exact ⟨_, rfl, rfl, hload _ rfl, fun b hb => hside hb⟩
  · rw [htaken hj, punchEnded_in_taken (s := s.heard n) hio hw,
      punchInTaken_aborting (s := s.heard n) hx hu hab]
    rfl
  · rw [htaken hj, punchEnded_in_taken (s := s.heard n) hio hw,
      punchInTaken_second (s := s.heard n) hslot hr hx (inTaken_eq_true ht)
      (by change s.engine.state ≠ .aborting; rw [hrec]; decide)]
    exact ⟨_, rfl, rfl, hload _ rfl, fun b hb => hside hb⟩
  · have hna : s.engine.state ≠ .aborting := by rcases hst with h | h <;> rw [h] <;> decide
    have hrun : s.engine.state.running = true := by rcases hst with h | h <;> rw [h] <;> rfl
    rw [exec_replyRefused hs ⟨he, hp, hj, hfit _ (.inr ⟨r, rfl⟩)⟩, deliverRefused_engine hq hv, hi, engineOutcome_punch,
      punchEnded_refused hio, setPunch_writePunch (s := s.heard n) hslot hr hna hx, if_pos (by exact hrun)]
    have hab := abort_aside (s := (s.heard n).punchWritten slot i { x with status := .refused }) .recordRefused hrun
    have hwr := (abort_writes (s := (s.heard n).punchWritten slot i { x with status := .refused }) .recordRefused
      hrun).2 slot hslot (wf_punchMem (s := s.heard n) hm) hr
    obtain ⟨-, -, -, hpunches⟩ := hwr
    have hget : ((s.heard n).punchWritten slot i { x with status := .refused }).engine.punches.get i =
        some { x with status := .refused } := PunchPlan.get_set_self _ _ _
    refine ⟨_, rfl, congrArg Engine.state hab.engine, congrArg Engine.abortCode hab.engine, ?_, ?_⟩
    · rw [hab.engine]
      exact congrArg (Option.map Punch.status) (get_aborted hio hget rfl _ _)
    · rw [hoff, ← hknown .refused rfl]
      refine ((hpunches i).2 fun y hy => ?_).trans (load_punchMem (s := s.heard n) hm)
      obtain rfl := Option.some.inj (hget.symm.trans hy)
      rfl
  · subst hio
    obtain rfl : out = actualOut ev sch.fIn a := hout
    have hna : s.engine.state ≠ .aborting ∧ s.engine.state ≠ .ending := by
      rcases hstate with h | h <;> rw [h] <;> decide
    rw [htaken hj, punchEnded_out_taken (s := s.heard n) hw,
      punchOutTaken_eq (s := s.heard n) hslot hr hw hx hna.1 hsch ha, hlog _ _ _ (by exact hslot.1) (by rfl) (by rfl) (by exact htr)]
    refine ⟨{ s.heard n with
      mem := ((s.heard n).punchMem slot .out { x with status := .taken }).store (s.eventSlot slot + 59)
        (outBytes ev (actualOut ev sch.fIn a))
      engine := { s.engine with
        punches := s.engine.punches.set .out (some { x with status := .taken })
        results := { s.engine.results with actualOut := some (actualOut ev sch.fIn a) } } },
      congrArg (fun t => Host.Outcome.next (State.settleDecks t)) ?_, rfl, ?_, ?_, fun b hb => ?_⟩
    · refine tryComplete_of_logged (g := s.generator) ?_ ?_ _
      · exact hna
      · rfl
    · refine (Memory.load_store_beside _ ?_).trans (hload _ rfl)
      rw [hoff]
      change s.eventSlot slot + 54 + 5 ≤ _ ∨ _
      omega
    · exact Memory.load_store_eq (wf_punchMem (s := s.heard n) hm) (length_outBytes ev _)
    · refine (Memory.read_store_outside _ _ _ ?_).trans (hside hb)
      rw [length_outBytes]
      omega

end Sys2Proof.Machine
end

section
/-!
PROOFS. How an event completes (R141, R145).
-/

namespace Sys2Proof.Machine

variable {s t u v : State} {n m : Deck} {slot : Fin 64}

/-! ## The release of an event -/

theorem DeckUnit.dropEngine_free (d : DeckUnit) : d.dropEngine.free = d.free := by
  simp [DeckUnit.dropEngine, DeckUnit.free, Link.dropEngine]

/-- The state once an event has been released: its cause raised, the generator at rest, the requests, exchanges and seeks of
the engine its own no longer, the claims gone. -/
def State.freed (s : State) (c : Cause) (next : EngineState) : State :=
  (((s.raise c).onGenerator fun g => { g.rest with recordTally := false }).eachDeck fun n s =>
    s.onDeck n DeckUnit.dropEngine).onEngine fun e => e.release next

theorem finishEvent_of_fault {code : FaultCode} (h : s.engine.completionFault = some code) :
    s.finishEvent = s.freed .editFault .held := by
  simp only [State.finishEvent, h, Option.isNone_some, Bool.false_eq_true, if_false]
  rfl

theorem finishEvent_of_done (h : s.engine.completionFault = none) :
    s.finishEvent = (s.freed .editDone .idle).take := by
  simp only [State.finishEvent, h, Option.isNone_none, if_true]
  rfl

theorem dropEngine_aside (s : State) : Aside s (s.eachDeck fun n s => s.onDeck n DeckUnit.dropEngine) :=
  Aside.eachDeck (Aside.refl s) fun k _ hu => hu.onDeck k _

theorem freed_engine (s : State) (c : Cause) (next : EngineState) : (s.freed c next).engine = s.engine.release next := by
  unfold State.freed
  rw [State.onEngine_engine, (dropEngine_aside _).engine]
  rfl

theorem freed_generator (s : State) (c : Cause) (next : EngineState) :
    (s.freed c next).generator = { s.generator.rest with recordTally := false } := by
  unfold State.freed
  rw [State.onEngine_generator, (dropEngine_aside _).generator]
  rfl

theorem freed_units (s : State) (c : Cause) (next : EngineState) : s.unitsKept (s.freed c next) := by
  have ha := dropEngine_aside ((s.raise c).onGenerator fun g => { g.rest with recordTally := false })
  exact ⟨ha.marks, ha.log, ha.gpi⟩

theorem eachDeck_onDeck_deck (s : State) (f : DeckUnit → DeckUnit) (m : Deck) :
    (s.eachDeck fun n s => s.onDeck n f).deck m = f (s.deck m) :=
  eachDeck_deck (P := fun _ => True) (f := fun n s => s.onDeck n f) (g := fun _ => f) (fun _ _ _ => trivial)
    (fun u k j _ => (State.onDeck_deck u k j f).trans (by split <;> simp_all)) trivial m

theorem freed_deck (s : State) (c : Cause) (next : EngineState) (m : Deck) :
    (s.freed c next).deck m = (s.deck m).dropEngine := by
  unfold State.freed
  rw [State.onEngine_deck, eachDeck_onDeck_deck]
  rfl

theorem freed_mem (s : State) (c : Cause) (next : EngineState) : (s.freed c next).mem = s.mem := by
  unfold State.freed
  rw [State.onEngine_mem, eachDeck_mem (f := fun n s => s.onDeck n DeckUnit.dropEngine) fun _ _ => rfl]
  rfl

theorem freed_iface (s : State) (c : Cause) (next : EngineState) : (s.freed c next).iface = (s.raise c).iface := by
  unfold State.freed
  simp only [State.onEngine_iface, State.eachDeck, State.onDeck_iface]
  rfl

/-! ## The writes of a completion -/

/-- The result fields of a completion, before the event number and the state. -/
def State.completionResults (s : State) (slot : Fin 64) : List (Nat × List Byte) :=
  let e := s.engine
  let fault := e.completionFault.getD .none
  if e.results.reached.isNone then [(s.eventSlot slot + 30, e.resultWhole e.reachedCode fault (halfOfField s.F))]
  else
    [(s.eventSlot slot + 30, e.resultHead e.reachedCode fault (halfOfField s.F)), (s.eventSlot slot + 44, e.resultTail)]

/-- Suite memory once a completion has written its results (R141). -/
def State.resultMem (s : State) (slot : Fin 64) : Memory := s.mem.storeAll (s.completionResults slot)

/-- Suite memory once a completion has made every write (R141). -/
def State.completedMem (s : State) (slot : Fin 64) (number : Nat) : Memory :=
  ((s.resultMem slot).store (s.eventSlot slot + 2) (half number)).store (s.eventSlot slot)
    [byte (if s.engine.completionFault.isNone then 3 else 4)]

theorem completionWrites_eq (s : State) (slot : Fin 64) (number : Nat) :
    s.completionWrites slot number = s.completionResults slot ++ [(s.eventSlot slot + 2, half number),
      (s.eventSlot slot, [byte (if s.engine.completionFault.isNone then 3 else 4)])] := rfl

theorem completionResults_bound (s : State) (slot : Fin 64) :
    ∀ w ∈ s.completionResults slot, s.eventSlot slot + 30 ≤ w.1 ∧ w.1 + w.2.length ≤ s.eventSlot slot + 64 := by
  unfold State.completionResults
  have hlen : (halfOfField s.F).length = 2 := rfl
  dsimp only
  split
  · simp only [List.forall_mem_cons, length_resultWhole _ _ _ hlen]
    exact ⟨by omega, by simp⟩
  · simp only [List.forall_mem_cons, length_resultHead, hlen, length_resultTail]
    exact ⟨by omega, by omega, by simp⟩

theorem completeEvent_of_held {ev : Event} (h : s.slotHeld slot) (hw : s.engine.working = some ev) :
    s.completeEvent = State.finishEvent { s with mem := s.completedMem slot ev.number } := by
  obtain ⟨htaken, hlimit⟩ := h
  have hb := completionResults_bound s slot
  have hall : s.writeAll (s.completionWrites slot ev.number) =
      (true, { s with mem := s.mem.storeAll (s.completionWrites slot ev.number) }) := by
    refine writeAll_of_limit fun w hw => ?_
    rw [completionWrites_eq] at hw
    simp only [List.mem_append, List.mem_cons, List.not_mem_nil, or_false] at hw
    rcases hw with hw | rfl | rfl
    · have := (hb w hw).2; omega
    · simp only [length_half]; omega
    · simp only [List.length_singleton]; omega
  have hmem : s.mem.storeAll (s.completionWrites slot ev.number) = s.completedMem slot ev.number := by
    rw [completionWrites_eq, Memory.storeAll_append]
    rfl
  unfold State.completeEvent
  simp only [htaken, hw, hall, hmem]

section
variable (hm : s.memoryOk) (slot : Fin 64) (k : Nat)
include hm

theorem wf_resultMem : (s.resultMem slot).wf = true := Memory.wf_storeAll hm _

/-- The first bytes of the result fields, whichever way they were written (R195). -/
theorem read_resultMem {i : Nat} (hi : i < 13) :
    (s.resultMem slot).read (s.eventSlot slot + 30 + i) =
      (s.engine.resultHead s.engine.reachedCode (s.engine.completionFault.getD .none) (halfOfField s.F))[i]'(by
        rw [length_resultHead]; exact hi) := by
  have hlen : (s.engine.resultHead s.engine.reachedCode (s.engine.completionFault.getD .none)
      (halfOfField s.F)).length = 13 := by rw [length_resultHead]; rfl
  unfold State.resultMem State.completionResults
  dsimp only
  split
  · rw [Memory.storeAll_cons, Memory.storeAll_nil, Memory.read_store_inside _ _ hm (by
      rw [length_resultWhole _ _ _ rfl]; omega)]
    simp only [Engine.resultWhole, List.append_assoc]
    exact List.getElem_append_left (by omega)
  · rw [Memory.storeAll_cons, Memory.storeAll_cons, Memory.storeAll_nil, Memory.read_store_outside _ _ _ (by omega)]
    exact Memory.read_store_inside _ _ hm (by omega)

theorem read_completedMem {i : Nat} (hi : i < 13) :
    (s.completedMem slot k).read (s.eventSlot slot + 30 + i) =
      (s.engine.resultHead s.engine.reachedCode (s.engine.completionFault.getD .none) (halfOfField s.F))[i]'(by
        rw [length_resultHead]; exact hi) := by
  rw [← read_resultMem hm slot hi]
  refine (Memory.read_store_outside _ _ _ ?_).trans (Memory.read_store_outside _ _ _ ?_)
  · rw [List.length_singleton]; omega
  · rw [length_half]; omega

theorem read_completedMem_state : (s.completedMem slot k).read (s.eventSlot slot) =
    byte (if s.engine.completionFault.isNone then 3 else 4) :=
  Memory.read_store_one (Memory.wf_store _ _ (wf_resultMem hm slot)) _ _

theorem load_completedMem_number : (s.completedMem slot k).load (s.eventSlot slot + 2) 2 = half k := by
  refine (Memory.load_store_beside _ ?_).trans (Memory.load_store_eq (wf_resultMem hm slot) (length_half k))
  rw [List.length_singleton]
  omega

theorem read_completedMem_reached : (s.completedMem slot k).read (s.eventSlot slot + 30) = byte s.engine.reachedCode :=
  read_completedMem hm slot k (i := 0) (by decide)

theorem read_completedMem_fault : (s.completedMem slot k).read (s.eventSlot slot + 31) =
    byte (s.engine.completionFault.getD .none).num := read_completedMem hm slot k (i := 1) (by decide)

theorem load_completedMem_completion : (s.completedMem slot k).load (s.eventSlot slot + 34) 2 = halfOfField s.F := by
  have h₁ := read_completedMem hm slot k (i := 4) (by decide)
  have h₂ := read_completedMem hm slot k (i := 5) (by decide)
  simp only [Memory.load, List.range_succ, List.range_zero, List.nil_append, List.map_append, List.map_cons, List.map_nil]
  exact congrArg₂ (fun a b => [a, b]) h₁ h₂

omit hm in
theorem read_completedMem_outside {b : Nat} (hb : b < s.eventSlot slot ∨ s.eventSlot slot + 64 ≤ b) :
    (s.completedMem slot k).read b = s.mem.read b := by
  refine (Memory.read_store_outside _ _ _ ?_).trans ((Memory.read_store_outside _ _ _ ?_).trans
    (Memory.read_storeAll_outside _ fun w hw => ?_))
  · rw [List.length_singleton]; omega
  · rw [length_half]; omega
  · have := completionResults_bound s slot w hw
    omega

end

/-! ## The last HALT -/

theorem exec_completionRetry (hs : s.ready) (hd : s.engine.retryDue = true) (hf : s.engine.completionFailed = true) :
    exec .completionRetry s = .next s.completeEvent.settleDecks := by
  have hdue : Act.retry.due s = true := by simp [Act.due, hd, hf]
  exact (command_of_ready hs fun s => s.row .retry).trans (congrArg Host.Outcome.next (row_of_due hdue))

/-- The end of the engine's HALT on a deck, noted (R141). -/
def Engine.haltEnded (e : Engine) (n : Deck) (o : EngineOutcome) : Engine :=
  { e with haltOutcome := e.haltOutcome.set n (some o), haltsAwaited := e.haltsAwaited.erase n }

theorem completeFromEngine_of_none (h : ∀ r ∈ (s.deck n).list.queue, r.status ≠ .engine) (o : EngineOutcome) :
    s.completeFromEngine n o = s := by
  have hf : ((s.deck n).list.queue.find? fun r => r.status == .engine) = none :=
    List.find?_eq_none.mpr fun r hr => by simp [h r hr]
  simp only [State.completeFromEngine, hf]

theorem haltEnded_taken (hst : s.engine.state = .ending) (h : ∀ r ∈ (s.deck n).list.queue, r.status ≠ .engine) :
    s.haltEnded n .taken = (s.onEngine fun e => e.haltEnded n .taken).tryComplete := by
  have hc := completeFromEngine_of_none (s := s.onEngine fun e => e.haltEnded n .taken) (n := n) h .taken
  unfold State.haltEnded
  simp only [hst]
  exact congrArg State.tryComplete hc

theorem haltEnded_refused (hst : s.engine.state = .ending) (h : ∀ r ∈ (s.deck n).list.queue, r.status ≠ .engine)
    (r : RefusalReason) :
    s.haltEnded n (.refused r) =
      ((s.setEndFault .deckRefused).onEngine fun e => e.haltEnded n (.refused r)).tryComplete := by
  have hc := completeFromEngine_of_none
    (s := (s.setEndFault .deckRefused).onEngine fun e => e.haltEnded n (.refused r)) (n := n) h (.refused r)
  unfold State.haltEnded
  simp only [hst]
  exact congrArg State.tryComplete hc

/-- In ENDING nothing completes while a HALT is awaited or the PUNCH-OUT has not ended (R141). -/
theorem tryComplete_of_pending (hst : s.engine.state = .ending)
    (h : s.engine.haltsAwaited ≠ [] ∨ s.engine.punches.outEnded = false) : s.tryComplete = s := by
  unfold State.tryComplete
  rcases h with h | h
  · rw [if_pos (by simp [h])]
  · simp [hst, h]

theorem tryComplete_of_last (hst : s.engine.state = .ending) (hc : s.engine.completionFailed = false)
    (hh : s.engine.haltsAwaited = []) (ho : s.engine.punches.outEnded = true) : s.tryComplete = s.completeEvent := by
  unfold State.tryComplete
  simp [hst, hc, hh, ho]

theorem engineOutcome_halt (o : EngineOutcome) : s.engineOutcome n .halt none o = s.haltEnded n o := by
  unfold State.engineOutcome
  exact if_pos rfl

theorem setEndFault_eq (s : State) (c : FaultCode) :
    s.setEndFault c = s.onEngine fun e => { e with endFault := if e.endFault = none then some c else e.endFault } := by
  unfold State.setEndFault State.onEngine
  cases h : s.engine.endFault with
  | none => simp [h]
  | some d => simp [h]

theorem outEnded_eq_false {p : PunchPlan} {x : Punch} (h : p.out = some x) (hx : x.status = .queued ∨ x.status = .begun) :
    p.outEnded = false := by
  unfold PunchPlan.outEnded
  rw [h]
  rcases hx with hx | hx <;> simp [hx]

theorem outEnded_eq_true {p : PunchPlan} (h : ∀ x, p.out = some x → x.status ≠ .queued ∧ x.status ≠ .begun) :
    p.outEnded = true := by
  unfold PunchPlan.outEnded
  cases hx : p.out with
  | none => rfl
  | some x => simp [h x hx]

/-- Settles O53. -/
theorem eventsComplete : Obligations.EventsComplete := by
  refine ⟨fun s hs h => ?_, fun s slot ev code hs hb hm hslot hw hd hf hcode => ?_,
    fun s n e f hs hst he hq hv hp hpu hcmd hqueue hcf => ⟨fun hpend => ⟨fun hj => ?_, fun r hj => ?_⟩,
      fun slot ev hlast hout hfault hm hslot hw hl hposted hj => ?_⟩⟩
  · exact (command_of_ready hs fun s => s.row .retry).trans (congrArg Host.Outcome.next (if_neg (by simp [Act.due, h])))
  · have hfault : s.engine.completionFault = some code := by
      unfold Engine.completionFault
      rcases hcode with ⟨h, hc⟩ | ⟨h, hc⟩
      · rw [if_pos h, hc]
      · rw [if_neg h, hc]
    have hcalm := ((Calm.refl s).completeEvent).standing
    rw [exec_completionRetry hs hd hf]
    rw [completeEvent_of_held hslot hw, finishEvent_of_fault (by exact hfault)] at hcalm ⊢
    have hdeck := freed_deck { s with mem := s.completedMem slot ev.number } .editFault .held
    have hengine := freed_engine { s with mem := s.completedMem slot ev.number } .editFault .held
    have hgen := freed_generator { s with mem := s.completedMem slot ev.number } .editFault .held
    have hmem := freed_mem { s with mem := s.completedMem slot ev.number } .editFault .held
    have hiface := freed_iface { s with mem := s.completedMem slot ev.number } .editFault .held
    have hunits := freed_units { s with mem := s.completedMem slot ev.number } .editFault .held
    generalize State.freed _ .editFault .held = t at *
    have hbt : t.linksBusy := hb.of_decks fun n => by
      rw [hdeck]
      exact ⟨rfl, DeckUnit.dropEngine_free _⟩
    rw [settleDecks_of_busy hbt]
    refine ⟨t, rfl, ?_⟩
    rw [hengine, hgen, hmem, hiface]
    refine ⟨rfl, rfl, rfl, rfl, rfl, raise_pending _ _, rfl, rfl, rfl, ?_, ?_, ?_, ?_, fun n => ?_, hunits, fun b hb => ?_, hcalm⟩
    · rw [read_completedMem_state hm, hfault]
      rfl
    · exact load_completedMem_number hm slot _
    · rw [read_completedMem_fault hm, hfault]
      rfl
    · exact load_completedMem_completion hm slot _
    · rw [State.sidesKept, hdeck]
      exact ⟨⟨rfl, rfl, rfl, rfl, rfl⟩, rfl⟩
    · rw [hmem]
      exact read_completedMem_outside slot _ hb
  · have hrep : Replied s n e .taken f := ⟨he, hp, hj, by simp [Reply.fits, Reply.finalFits, hcmd, LinkCommand.isMotion]⟩
    have hq' : ∀ r ∈ ((s.heard n).deck n).list.queue, r.status ≠ .engine := by rw [State.heard_list]; exact hqueue
    rw [exec_replyTaken hs hrep, deliverTaken_engine hq hv (by rw [hcmd]; rfl), hpu, hcmd, engineOutcome_halt,
      haltEnded_taken (s := s.heard n) hst hq', tryComplete_of_pending]
    · rfl
    · exact hst
    · exact hpend.imp id fun ⟨x, hx, hxs⟩ => outEnded_eq_false hx hxs
  · have hrep : Replied s n e (.refused r) f := ⟨he, hp, hj, rfl⟩
    have hq' : ∀ r ∈ ((s.heard n).deck n).list.queue, r.status ≠ .engine := by rw [State.heard_list]; exact hqueue
    rw [exec_replyRefused hs hrep, deliverRefused_engine hq hv, hpu, hcmd, engineOutcome_halt,
      haltEnded_refused (s := s.heard n) hst hq', tryComplete_of_pending]
    · rw [setEndFault_eq]
      rfl
    · exact hst
    · exact hpend.imp id fun ⟨x, hx, hxs⟩ => outEnded_eq_false hx hxs
  · have hrep : Replied s n e .taken f := ⟨he, hp, hj, by simp [Reply.fits, Reply.finalFits, hcmd, LinkCommand.isMotion]⟩
    have hq' : ∀ r ∈ ((s.heard n).deck n).list.queue, r.status ≠ .engine := by rw [State.heard_list]; exact hqueue
    have hcomplete : ((s.heard n).onEngine fun e => e.haltEnded n .taken).tryComplete =
        ((s.heard n).onEngine fun e => e.haltEnded n .taken).completeEvent :=
      tryComplete_of_last hst hcf hlast (outEnded_eq_true hout)
    have hcalm : Calm s ((s.heard n).onEngine fun e => e.haltEnded n .taken).completeEvent :=
      ((Calm.refl s).onLink n _ |>.onEngine _).completeEvent
    rw [exec_replyTaken hs hrep, deliverTaken_engine hq hv (by rw [hcmd]; rfl), hpu, hcmd, engineOutcome_halt,
      haltEnded_taken (s := s.heard n) hst hq', hcomplete]
    have hfinish : ((s.heard n).onEngine fun e => e.haltEnded n .taken).engine.completionFault = none := by
      unfold Engine.completionFault
      exact (if_neg (by change s.engine.state ≠ .aborting; rw [hst]; decide)).trans hfault
    have hreached : ((s.heard n).onEngine fun e => e.haltEnded n .taken).engine.reachedCode = 8 := by
      unfold Engine.reachedCode
      exact if_neg (by change s.engine.state ≠ .aborting; rw [hst]; decide)
    rw [completeEvent_of_held (s := (s.heard n).onEngine fun e => e.haltEnded n .taken) hslot hw,
      finishEvent_of_done (by exact hfinish)] at hcalm ⊢
    have hmw : ((s.heard n).onEngine fun e => e.haltEnded n .taken).memoryOk := hm
    have hstate := read_completedMem_state hmw slot ev.number
    have hnumber := load_completedMem_number hmw slot ev.number
    have h30 := read_completedMem_reached hmw slot ev.number
    have h31 := read_completedMem_fault hmw slot ev.number
    have h34 := load_completedMem_completion hmw slot ev.number
    have houtside {b : Nat} := read_completedMem_outside (s := (s.heard n).onEngine fun e => e.haltEnded n .taken) slot
      ev.number (b := b)
    rw [hfinish] at hstate h31
    rw [hreached] at h30
    generalize State.completedMem _ slot ev.number = w at *
    have hengine := freed_engine { (s.heard n).onEngine fun e => e.haltEnded n .taken with mem := w } .editDone .idle
    have hgen := freed_generator { (s.heard n).onEngine fun e => e.haltEnded n .taken with mem := w } .editDone .idle
    have hmem := freed_mem { (s.heard n).onEngine fun e => e.haltEnded n .taken with mem := w } .editDone .idle
    have hiface := freed_iface { (s.heard n).onEngine fun e => e.haltEnded n .taken with mem := w } .editDone .idle
    generalize State.freed _ .editDone .idle = t at *
    have hnext : t.engine.nextEvent = s.engine.nextEvent := by rw [hengine]; rfl
    have hslots (k : Fin 64) : t.eventSlot k = s.eventSlot k := by unfold State.eventSlot; rw [hiface]; rfl
    have hlim : t.iface.limit = s.iface.limit := by rw [hiface]; rfl
    have hunposted : t.mem.read (s.eventSlot s.engine.nextEvent) ≠ 1 := by
      rw [hmem]
      by_cases hk : s.engine.nextEvent = slot
      · rw [hk]
        refine ne_of_eq_of_ne hstate ?_
        decide
      · refine ne_of_eq_of_ne (houtside ?_) hposted
        have hne : s.engine.nextEvent.val ≠ slot.val := fun h => hk (Fin.ext h)
        change s.eventSlot s.engine.nextEvent < s.eventSlot slot ∨ s.eventSlot slot + 64 ≤ s.eventSlot s.engine.nextEvent
        unfold State.eventSlot
        omega
    rw [take_of_unposted (by rw [hnext, hslots, hlim]; omega) (by rw [hnext, hslots]; exact hunposted)] at hcalm ⊢
    refine ⟨t, rfl, ?_⟩
    rw [hengine, hgen, hmem, hiface]
    exact ⟨rfl, rfl, rfl, rfl, rfl, raise_pending _ _, rfl, rfl, rfl, hstate, hnumber, h30, h31, h34,
      fun b hb => by rw [hmem]; exact houtside hb, hcalm.standing⟩

end Sys2Proof.Machine
end

section
/-!
PROOFS. The roll (R132): the schedule formed, the decks run and chasing, the generator carrying.
-/

namespace Sys2Proof.Machine

variable {s t u v : State} {n m : Deck} {slot : Fin 64}

/-! ## A chase started -/

theorem moveChase_mem (s : State) (n : Deck) (f : Chase → Chase) : (s.moveChase n f).mem = s.mem := by
  unfold State.moveChase
  extract_lets old a
  split <;> rfl

/-- A deck whose chase has been started (R95, R96). -/
def DeckUnit.chasing (starter : Starter) (master : Master) (offset : Int) (origin : Option (Nat × Kind))
    (f : FieldCount) (d : DeckUnit) : DeckUnit :=
  { d with
    chase :=
      { state := .seeking, starter := some starter, master := some master, offset := some offset, origin := origin
        startField := if master = .timeline then some f else none
        lastSpeed := none, seek := none, lockCount := 0, lastCounted := none, unlockRun := 0, lastError := none
        lockDue := false }
    link := d.link.dropChase
    arbiter := { d.arbiter with trim := none } }

section
variable (x : Starter) (k : Master) (o : Int) (g : Option (Nat × Kind))

theorem startChase_mem (s : State) (n : Deck) : (s.startChase n x k o g).mem = s.mem := moveChase_mem s n _

theorem startChase_aside (s : State) (n : Deck) : Aside s (s.startChase n x k o g) := by
  unfold State.startChase State.emptyTrim
  exact ((((Aside.refl s).moveChase n _).onDeck n _).onLink n _).onArbiter n _

theorem startChase_deck (s : State) (n m : Deck) :
    (s.startChase n x k o g).deck m = if m = n then (s.deck n).chasing x k o g s.F else s.deck m := by
  unfold State.startChase State.emptyTrim
  have hF : (s.moveChase n fun c => { c with state := .seeking }).F = s.F := ((Aside.refl s).moveChase n _).F
  simp only [hF]
  by_cases hm : m = n
  · subst hm
    simp [moveChase_deck, DeckUnit.chasing]
  · simp [State.onArbiter_deck_ne _ _ hm, State.onLink_deck_ne _ _ hm, State.onChase_deck_ne _ _ hm, moveChase_deck,
      hm]

end

theorem DeckUnit.chasing_free (x : Starter) (k : Master) (o : Int) (g : Option (Nat × Kind)) (f : FieldCount)
    (d : DeckUnit) : (d.chasing x k o g f).free = d.free := by
  simp [DeckUnit.chasing, DeckUnit.free, Link.dropChase]

/-! ## The claimed decks at the roll -/

/-- A deck with a RUN queued by the engine. -/
def DeckUnit.run (d : DeckUnit) : DeckUnit :=
  { d with arbiter := { d.arbiter with engineQueue := d.arbiter.engineQueue ++ [⟨.run, true, none⟩] } }

theorem offerRunning_of_room (hr : s.engine.state.running = true) (h : (s.deck n).arbiter.engineQueue.length < 4)
    (c : LinkCommand) :
    s.offerRunning n c = s.onArbiter n fun a => { a with engineQueue := a.engineQueue ++ [⟨c, true, none⟩] } := by
  unfold State.offerRunning
  rw [if_pos hr, offerEngine_of_room h]

theorem eachClaimed_offerRun (hn : s.engine.claims.Nodup) (hr : s.engine.state.running = true)
    (hq : ∀ n, (s.deck n).arbiter.engineQueue.length < 4) :
    (Aside s (s.eachClaimed fun s n => s.offerRunning n .run) ∧
        (s.eachClaimed fun s n => s.offerRunning n .run).mem = s.mem) ∧
      ∀ m, (s.eachClaimed fun s n => s.offerRunning n .run).deck m =
        if m ∈ s.engine.claims then (s.deck m).run else s.deck m := by
  refine foldl_deck_of (f := fun s n => s.offerRunning n .run) (P := fun u => Aside s u ∧ u.mem = s.mem)
    (Q := fun _ d => d.arbiter.engineQueue.length < 4) (g := fun _ => DeckUnit.run)
    (fun u k hu hk => ?_) (fun u k j hu hk => ?_) hn ⟨.refl s, rfl⟩ fun k _ => hq k
  · rw [offerRunning_of_room (by rw [hu.1.engine, hr]) hk]
    exact ⟨hu.1.onArbiter k _, hu.2⟩
  · rw [offerRunning_of_room (by rw [hu.1.engine, hr]) hk]
    by_cases hj : j = k
    · subst hj; rw [State.onArbiter_deck_self, if_pos rfl, DeckUnit.run]
    · rw [State.onArbiter_deck_ne _ _ hj, if_neg hj]

theorem eachClaimed_chaseIdeal (hn : s.engine.claims.Nodup) (hc : s.engine.state = .cued) (ev : Event) :
    (Aside s (s.eachClaimed fun s n => s.chaseIdeal ev n) ∧
        (s.eachClaimed fun s n => s.chaseIdeal ev n).mem = s.mem) ∧
      ∀ m, (s.eachClaimed fun s n => s.chaseIdeal ev n).deck m =
        if m ∈ s.engine.claims then (s.deck m).chasing .engine .timeline 0 (some (ev.cueOf m)) s.F else s.deck m := by
  refine foldl_deck_of (f := fun s n => s.chaseIdeal ev n) (P := fun u => Aside s u ∧ u.mem = s.mem)
    (Q := fun _ _ => True) (g := fun n => DeckUnit.chasing .engine .timeline 0 (some (ev.cueOf n)) s.F)
    (fun u k hu _ => ?_) (fun u k j hu _ => ?_) hn ⟨.refl s, rfl⟩ fun _ _ => trivial
  · have hk : u.chaseIdeal ev k = u.startChase k .engine .timeline 0 (some (ev.cueOf k)) :=
      if_pos (by rw [hu.1.engine, hc])
    rw [hk]
    exact ⟨hu.1.trans (startChase_aside _ _ _ _ u k), (startChase_mem _ _ _ _ u k).trans hu.2⟩
  · have hk : u.chaseIdeal ev k = u.startChase k .engine .timeline 0 (some (ev.cueOf k)) :=
      if_pos (by rw [hu.1.engine, hc])
    rw [hk, startChase_deck, hu.1.F]

/-! ## The schedule and the punch plan -/

/-- A punch as the roll leaves it: in its window at once when that opens before F0 (R134, R135). -/
def Punch.rolled (mask : BitVec 4) (f f0 : FieldCount) : Punch :=
  ⟨mask, f, if fieldDiff f f0 < 4 then .window else .planned, none⟩

theorem atRoll_eq (mask : BitVec 4) (f f0 : FieldCount) :
    Punch.atRoll ⟨mask, f, .planned, none⟩ f0 = .rolled mask f f0 := by
  unfold Punch.atRoll Punch.rolled
  split <;> rfl

/-- The plan an event rolls with. -/
def rolledPlan (ev : Event) (sch : Schedule) (f0 : FieldCount) : PunchPlan :=
  (punchPlan ev sch.fIn sch.fOut).atRoll f0

section
variable {ev : Event} {sch : Schedule} {f0 : FieldCount}

theorem rolledPlan_rehearse (hp : ev.perform = false) : rolledPlan ev sch f0 = ⟨none, none, none⟩ := by
  simp [rolledPlan, punchPlan, hp, PunchPlan.atRoll]

theorem rolledPlan_out (hp : ev.perform = true) :
    (rolledPlan ev sch f0).out = some (.rolled 15 (fieldAdd sch.fOut (-(2 * (ev.editDelay : Int)))) f0) := by
  rw [← atRoll_eq]
  simp only [rolledPlan, punchPlan, hp, if_true]
  split
  · rfl
  · split <;> rfl

theorem rolledPlan_video (hp : ev.perform = true) :
    (rolledPlan ev sch f0).video = some (.rolled
      (if ev.insert = false then 15 else if ev.split = 0 then ev.mask else ev.mask &&& 9)
      (fieldAdd sch.fIn (-(2 * (ev.editDelay : Int)))) f0) := by
  rw [← atRoll_eq]
  simp only [rolledPlan, punchPlan, hp, if_true]
  cases ev.insert with
  | false => rfl
  | true =>
    simp only [Bool.not_true, Bool.false_eq_true, if_false, Bool.true_eq_false]
    split <;> rfl

theorem rolledPlan_audio (hp : ev.perform = true) (hi : ev.insert = false → ev.split = 0) :
    (rolledPlan ev sch f0).audio = if ev.split = 0 then none
      else some (.rolled (ev.mask &&& 6) (fieldAdd sch.fIn (2 * ev.split - 2 * (ev.editDelay : Int))) f0) := by
  rw [← atRoll_eq]
  simp only [rolledPlan, punchPlan, hp, if_true]
  cases hin : ev.insert with
  | false => exact (if_pos (hi hin)).symm
  | true =>
    simp only [Bool.not_true, Bool.false_eq_true, if_false]
    split <;> rfl

end

/-! ## The roll -/

/-- The engine with an event's schedule formed (R132). -/
def Engine.scheduled (e : Engine) (ev : Event) (sch : Schedule) (f0 : FieldCount) : Engine :=
  { e with
    schedule := some sch, punches := rolledPlan ev sch f0, rollDue := false
    triggers := ev.triggers.map fun t => ⟨t.line, fieldAdd sch.fIn (2 * t.offset), t.width, .planned⟩ }

/-- A claimed deck at the roll: a RUN queued, its chase started on its ideal. -/
def DeckUnit.rolled (ev : Event) (f : FieldCount) (n : Deck) (d : DeckUnit) : DeckUnit :=
  d.run.chasing .engine .timeline 0 (some (ev.cueOf n)) f

theorem inputOf_congr {d : Source} (hsuite : t.suite = s.suite)
    (hdecks : ∀ m, (t.deck m).settings = (s.deck m).settings) : t.inputOf d = s.inputOf d := by
  cases d with
  | deck k => exact congrArg DeckSettings.input (hdecks k)
  | black => exact congrArg SuiteSettings.blackInput hsuite

theorem generatorEvent_congr (hsuite : t.suite = s.suite) (hdecks : ∀ m, (t.deck m).settings = (s.deck m).settings)
    (ev : Event) (sch : Schedule) : t.generatorEvent ev sch = s.generatorEvent ev sch := by
  have h : t.inputOf = s.inputOf := funext fun d => inputOf_congr hsuite hdecks
  simp only [State.generatorEvent, h]

/-- What the roll makes of the part, before ROLLING is entered. -/
structure Rolled (s : State) (ev : Event) (sch : Schedule) (t : State) : Prop where
  aside : Aside { s with engine := s.engine.scheduled ev sch s.F } t
  calm : Calm s t
  mem : t.mem = s.mem
  decks : ∀ m, t.deck m = if m ∈ s.engine.claims then (s.deck m).rolled ev s.F m else s.deck m

theorem Rolled.settings {ev : Event} {sch : Schedule} (h : Rolled s ev sch t) (m : Deck) :
    (t.deck m).settings = (s.deck m).settings := by
  rw [h.decks]
  split
  · rfl
  · rfl

/-- Start-pending cleared and the generator carrying an event record. -/
def State.carrying (t : State) (g : GeneratorEvent) (f : FieldCount) : State :=
  (t.onGenerator fun x => x.carry g f).onEngine fun e => { e with startPending := false }

theorem rollEvent_eq {ev : Event} (hn : s.engine.claims.Nodup) (hc : s.engine.state = .cued)
    (hq : ∀ n, (s.deck n).arbiter.engineQueue.length < 4) :
    ∃ t, Rolled s ev (ev.schedule s.suite.syncMargin s.F) t ∧
      s.rollEvent ev =
        (t.carrying (s.generatorEvent ev (ev.schedule s.suite.syncMargin s.F)) s.F).enterRunning .rolling := by
  unfold State.rollEvent
  extract_lets sch plan trig a b c g f x
  have ha : a = { s with engine := s.engine.scheduled ev sch s.F } := rfl
  have hac : Calm s a := (Calm.refl s).onEngine _
  clear_value a
  subst ha
  obtain ⟨⟨hya, hym⟩, hyd⟩ := eachClaimed_offerRun (s := { s with engine := s.engine.scheduled ev sch s.F })
    hn (by change s.engine.state.running = true; rw [hc]; rfl) hq
  have hbc : Calm s b := hac.eachClaimed fun n _ hu => hu.offerRunning n _
  have hbe : b.engine = s.engine.scheduled ev sch s.F := hya.engine
  obtain ⟨⟨hza, hzm⟩, hzd⟩ := eachClaimed_chaseIdeal (s := b) (by rw [hbe]; exact hn) (by rw [hbe]; exact hc) ev
  have hcc : Calm s c := hbc.eachClaimed fun n u hu => by
    unfold State.chaseIdeal
    split
    · exact hu.startChase n _ _ _ _
    · exact hu
  have hr : Rolled s ev sch c := by
    refine ⟨hya.trans hza, hcc, hzm.trans hym, fun m => (hzd m).trans ?_⟩
    rw [hbe, hyd m, hya.F]
    change (if m ∈ s.engine.claims then DeckUnit.chasing _ _ _ _ s.F (if m ∈ s.engine.claims then _ else _) else
      (if m ∈ s.engine.claims then _ else _)) = _
    by_cases hm : m ∈ s.engine.claims
    · simp only [if_pos hm]; rfl
    · simp only [if_neg hm]; rfl
  have hce : c.engine.state = .cued := (congrArg Engine.state hr.aside.engine).trans hc
  refine ⟨c, hr, ?_⟩
  rw [if_pos hce]
  have hg : g = s.generatorEvent ev sch := generatorEvent_congr hr.aside.suite hr.settings ev sch
  have hf : f = s.F := hr.aside.F
  rw [← hg, ← hf]
  rfl

theorem content_before {g : GeneratorEvent} {f : FieldCount} (h : fieldDiff f g.fT < 0) : g.content f = g.before := by
  unfold GeneratorEvent.content
  exact if_pos (.inr h)

theorem DeckUnit.rolled_kept (ev : Event) (f : FieldCount) (n : Deck) (d : DeckUnit) :
    (d.rolled ev f n).list = d.list ∧ (d.rolled ev f n).free = d.free :=
  ⟨rfl, DeckUnit.chasing_free _ _ _ _ _ _⟩

theorem engineRow_of_idle {a : Act} (h : a.due s = false) : s.engineRow a = s :=
  if_neg (by rw [h]; exact Bool.false_ne_true)

theorem roll_noEarlierAct (s : State) : s.noEarlierAct .roll := by
  intro b hb
  simp [engineActs] at hb

theorem Rolled.carrying {ev : Event} {sch : Schedule} (h : Rolled s ev sch t) (g : GeneratorEvent) :
    Calm s (t.carrying g s.F) := (h.calm.onGenerator _).onEngine _

theorem Rolled.carrying_engine {ev : Event} {sch : Schedule} (h : Rolled s ev sch t) (g : GeneratorEvent) :
    (t.carrying g s.F).engine = { s.engine.scheduled ev sch s.F with startPending := false } :=
  congrArg (fun e : Engine => { e with startPending := false }) h.aside.engine

theorem Rolled.linksBusy {ev : Event} {sch : Schedule} (h : Rolled s ev sch t) (hb : s.linksBusy) : t.linksBusy := by
  refine hb.of_decks fun n => ?_
  rw [h.decks]
  split
  · exact DeckUnit.rolled_kept _ _ _ _
  · exact ⟨rfl, rfl⟩

/-- Settles O47. -/
theorem rollFormsTheSchedule : Obligations.RollFormsTheSchedule := by
  refine ⟨fun s hs hd => ?_, fun s ev slot program preset first at_ hs hb hslot hw hc hd hp hreach hn hq hprogram
    hpreset hfirst hat => ?_⟩
  · exact (command_of_ready hs fun s => s.engineRow .roll).trans
      (congrArg Host.Outcome.next (engineRow_of_idle (by simp [Act.due, hd])))
  · have hdue : Act.roll.due s = true := by simp [Act.due, hd, hc, hp]
    have hexec := command_engineRow hs hdue (roll_noEarlierAct s)
    obtain ⟨t, ht, hroll⟩ := rollEvent_eq (ev := ev) hn hc hq
    have hrun : Act.roll.run s = s.rollEvent ev := by
      change s.onEvent State.rollEvent = _
      unfold State.onEvent
      rw [hw]
    have hat' : at_ = fun mask f => Punch.rolled mask f s.F := funext fun mask => funext fun f => hat mask f
    have hpr : s.inputOf ev.sourceA = program := by rw [hprogram]; cases ev.sourceA <;> rfl
    have hps : (ev.sourceB.map s.inputOf).getD program = preset := by
      rw [hpreset]
      rcases ev.sourceB with _ | _ | _ <;> rfl
    have hgen : s.generatorEvent ev (ev.schedule s.suite.syncMargin s.F) = ⟨program, preset, ev.sourceB.isSome,
        ev.transition, ev.pattern, 2 * ev.transitionFrames, ev.curve, (ev.schedule s.suite.syncMargin s.F).fT⟩ := by
      simp only [State.generatorEvent, hpr, hps]
    rw [hrun, hroll, hgen] at hexec
    generalize hg : (⟨program, preset, ev.sourceB.isSome, ev.transition, ev.pattern, 2 * ev.transitionFrames,
      ev.curve, (ev.schedule s.suite.syncMargin s.F).fT⟩ : GeneratorEvent) = g at hexec
    have hcalm := ht.carrying g
    have hengine := ht.carrying_engine g
    have hreached : (t.carrying g s.F).engine.results.reached.isSome = true := by
      rw [hengine]
      exact Option.isSome_iff_exists.mpr ⟨_, hreach⟩
    have hstand := (hcalm.enterRunning .rolling).standing
    have hentered := (enterRunning_of_held (hcalm.slotHeld (by rw [hengine]; rfl) hslot) .rolling).trans
      (entered_of_written hreached .rolling)
    rw [hcalm.eventSlot] at hentered
    rw [hentered] at hexec hstand
    rw [settleDecks_of_busy (by exact ht.linksBusy hb)] at hexec
    have hplan : ∀ f : PunchPlan → Option Punch,
        f (t.carrying g s.F).engine.punches = f (rolledPlan ev (ev.schedule s.suite.syncMargin s.F) s.F) := by
      intro f; rw [hengine]; rfl
    refine ⟨_, ev.schedule s.suite.syncMargin s.F, hexec, rfl, rfl, rfl, rfl, rfl, fun hperf => ⟨?_, ?_⟩,
        fun hperf hins => ⟨?_, (hplan PunchPlan.video).trans ?_, (hplan PunchPlan.audio).trans ?_,
          (hplan PunchPlan.out).trans ?_⟩, rfl, ?_, rfl, ?_, rfl, ?_, ?_, ?_, fun n hm => ?_, fun n hm => ?_, rfl,
        ?_, fun hbefore => ?_, fun n => ?_, ⟨ht.aside.marks, ht.aside.log, ht.aside.gpi⟩, ?_, hstand⟩
    · simp [Event.schedule, syncLead, hperf]
    · exact (congrArg Engine.punches hengine).trans (rolledPlan_rehearse hperf)
    · simp [Event.schedule, syncLead, hperf, hfirst]
    · rw [hat', rolledPlan_video hperf]
    · rw [hat', rolledPlan_audio hperf hins]
    · rw [hat', rolledPlan_out hperf]
    · exact congrArg Engine.schedule hengine
    · exact congrArg Engine.rollDue hengine
    · exact (congrArg Engine.working hengine).trans hw
    · exact (congrArg Engine.claims hengine :)
    · exact congrArg Engine.triggers hengine
    · have hdeck := (ht.decks n).trans (if_pos hm)
      change (t.deck n).arbiter.engineQueue = _ ∧ (t.deck n).chase.state = _ ∧ (t.deck n).chase.starter = _ ∧
        (t.deck n).chase.master = _ ∧ (t.deck n).chase.offset = _ ∧ (t.deck n).chase.origin = _ ∧
        (t.deck n).chase.startField = _
      rw [hdeck]
      exact ⟨rfl, rfl, rfl, rfl, rfl, rfl, rfl⟩
    · exact (ht.decks n).trans (if_neg hm)
    · exact congrArg some hg.symm
    · subst hg
      exact content_before hbefore
    · change s.sidesKept t n
      rw [State.sidesKept, ht.decks]
      split
      · exact ⟨rfl, rfl, rfl, rfl, rfl⟩
      · exact ⟨rfl, rfl, rfl, rfl, rfl⟩
    · exact congrArg (fun m => Memory.store m _ _) ht.mem

end Sys2Proof.Machine
end

section
/-!
PROOFS. The sync check (R133).
-/

namespace Sys2Proof.Machine

variable {s t u v : State} {n m : Deck} {slot : Fin 64}

/-! ## The sync results and their write -/

/-- The bytes of the sync errors, for the recorder and the two sources. -/
def Results.syncErrors (r : Results) : List Byte :=
  syncErrorBytes r.syncRecorder ++ syncErrorBytes r.syncA ++ syncErrorBytes r.syncB

theorem length_syncErrors (r : Results) : r.syncErrors.length = 6 := by
  simp [Results.syncErrors]

/-- Suite memory with the sync results written into a slot. -/
def State.syncMem (s : State) (slot : Fin 64) (r : Results) : Memory :=
  (s.mem.store (s.eventSlot slot + 33) [byte r.syncFlags]).store (s.eventSlot slot + 36) r.syncErrors

/-- The part with the sync results held and written. -/
def State.synced (s : State) (slot : Fin 64) (r : Results) : State :=
  { s with mem := s.syncMem slot r, engine := { s.engine with results := r } }

section
variable {r : Results}

theorem wf_syncMem (hm : s.memoryOk) (slot : Fin 64) (r : Results) : (s.syncMem slot r).wf = true :=
  Memory.wf_store _ _ (Memory.wf_store _ _ hm)

theorem syncMem_outside {b : Nat} (hb : b < s.eventSlot slot + 33 ∨ s.eventSlot slot + 42 ≤ b) :
    (s.syncMem slot r).read b = s.mem.read b := by
  refine (Memory.read_store_outside _ _ _ ?_).trans (Memory.read_store_outside _ _ _ ?_)
  · rw [length_syncErrors]; omega
  · rw [List.length_singleton]; omega

theorem read_syncMem (hm : s.memoryOk) : (s.syncMem slot r).read (s.eventSlot slot + 33) = byte r.syncFlags :=
  (Memory.read_store_outside _ _ _ (by omega)).trans (Memory.read_store_one hm _ _)

theorem load_syncMem (hm : s.memoryOk) : (s.syncMem slot r).load (s.eventSlot slot + 36) 6 = r.syncErrors :=
  Memory.load_store_eq (Memory.wf_store _ _ hm) (length_syncErrors r)

end

/-! ## The check -/

/-- The claimed decks not locked. -/
def State.unlocked (s : State) : List Deck := s.engine.claims.filter fun n => !(s.syncOf n).locked

theorem mem_unlocked : n ∈ s.unlocked ↔ n ∈ s.engine.claims ∧ (s.syncOf n).locked = false := by
  simp [State.unlocked]

/-- The check with its results written: the policy decides (R133). -/
theorem syncCheck_of_written (h : s.slotHeld slot) (hr : s.engine.results.reached.isSome = true)
    (hst : s.engine.state = .rolling) (ev : Event) :
    s.syncCheck ev =
      let a := s.synced slot (s.syncResults ev s.engine.results)
      if s.unlocked.isEmpty then a.enterSynced
      else if s.suite.syncPolicy = .abort then a.abort .syncFail else a.proceedUnlocked s.unlocked := by
  have hp := progress_of_written
    (s := s.onEngine fun e => { e with results := s.syncResults ev s.engine.results })
    (fields := [(33, [byte (s.syncResults ev s.engine.results).syncFlags]),
      (36, (s.syncResults ev s.engine.results).syncErrors)])
    h hr (by change s.engine.state ≠ _; rw [hst]; decide) (by
      simp only [List.forall_mem_cons, List.length_singleton, length_syncErrors]
      exact ⟨by omega, by omega, by simp⟩)
  simp only [List.map_cons, List.map_nil, Memory.storeAll_cons, Memory.storeAll_nil] at hp
  change _ = s.synced slot (s.syncResults ev s.engine.results) at hp
  unfold State.syncCheck
  extract_lets r x y z a
  have hz : z = a := hp
  clear_value z
  subst hz
  refine (if_pos hst).trans ?_
  change (if s.unlocked.isEmpty then _ else _) = _
  by_cases hu : s.unlocked.isEmpty = true
  · simp only [if_pos hu]
  · simp only [if_neg hu]
    change (match s.suite.syncPolicy with | .abort => _ | .proceed => _) = _
    cases s.suite.syncPolicy <;> rfl

/-- The capture offered SYNC_UNLOCKED. -/
def DeckUnit.unlockOffered (f : FieldCount) (d : DeckUnit) : DeckUnit :=
  { d with capture := d.capture.offer 2 .syncUnlocked 0 f }

theorem offerUnlocked_fold {l : List Deck} (hl : l.Nodup) (s : State) :
    (Aside s (l.foldl (fun s n => s.offerDeck n 2 .syncUnlocked 0) s) ∧
        (l.foldl (fun s n => s.offerDeck n 2 .syncUnlocked 0) s).mem = s.mem ∧
        (l.foldl (fun s n => s.offerDeck n 2 .syncUnlocked 0) s).iface = s.iface) ∧
      ∀ m, (l.foldl (fun s n => s.offerDeck n 2 .syncUnlocked 0) s).deck m =
        if m ∈ l then (s.deck m).unlockOffered s.F else s.deck m := by
  refine foldl_deck_of (f := fun s n => s.offerDeck n 2 .syncUnlocked 0)
    (P := fun u => Aside s u ∧ u.mem = s.mem ∧ u.iface = s.iface)
    (Q := fun _ _ => True) (g := fun _ => DeckUnit.unlockOffered s.F) (fun u k hu _ => ?_) (fun u k j hu _ => ?_) hl
    ⟨.refl s, rfl, rfl⟩ fun _ _ => trivial
  · exact ⟨hu.1.onDeck k _, (State.offerDeck_mem u k _ _ _).trans hu.2.1,
      (State.offerDeck_iface u k _ _ _).trans hu.2.2⟩
  · by_cases hj : j = k
    · subst hj
      rw [State.offerDeck_deck_self, if_pos rfl, hu.1.F, DeckUnit.unlockOffered]
    · rw [if_neg hj]
      exact State.onDeck_deck_ne _ _ hj

section
variable {a : State}

/-- The results when the check is passed with a deck not locked. -/
def Results.proceeded (r : Results) : Results := { r with reached := some .synced, advisory := true }

/-- The part as PROCEED leaves it before SYNC_UNLOCKED is offered. -/
def State.proceeded (a : State) (slot : Fin 64) : State :=
  State.raise
    { a with
      mem := (a.mem.store (a.eventSlot slot + 30) [5]).store (a.eventSlot slot + 33)
        [byte a.engine.results.proceeded.syncFlags]
      engine := { a.engine with state := .synced, results := a.engine.results.proceeded } } .editProgress

theorem proceedUnlocked_of_written (h : a.slotHeld slot) (hr : a.engine.results.reached.isSome = true) (l : List Deck) :
    a.proceedUnlocked l = l.foldl (fun s n => s.offerDeck n 2 .syncUnlocked 0) (a.proceeded slot) := by
  have he : a.enterRunning .synced = _ := (enterRunning_of_held h .synced).trans (entered_of_written hr .synced)
  have hp := progress_of_written (s := (a.enterRunning .synced).onEngine fun e =>
      { e with results := { e.results with advisory := true } })
    (slot := slot) (fields := [(33, [byte a.engine.results.proceeded.syncFlags])]) (by rw [he]; exact h)
    (by rw [he]; rfl) (by rw [he]; change EngineState.synced ≠ _; decide) (by
      simp only [List.forall_mem_cons, List.length_singleton]
      exact ⟨by omega, by simp⟩)
  unfold State.proceedUnlocked
  extract_lets x y
  have hx : x.engine.results.syncFlags = a.engine.results.proceeded.syncFlags := by
    change (Results.syncFlags { (a.enterRunning .synced).engine.results with advisory := true }) = _
    rw [he]
    rfl
  have hy : y = a.proceeded slot := by
    change (x.progress [(33, [byte x.engine.results.syncFlags])]).raise .editProgress = _
    rw [hx]
    refine (congrArg (State.raise · .editProgress) hp).trans ?_
    rw [he]
    rfl
  rw [hy]

end

/-! ## The three outcomes -/

/-- What the check leaves whatever the policy: the results written, and the rest of the part beside the engine. -/
structure SyncWritten (s : State) (slot : Fin 64) (r : Results) (w : State) : Prop where
  quiet : Quiet s w
  outside : s.sameOutside w (s.eventSlot slot + 30) 34
  units : s.unitsKept w
  errors : w.mem.load (s.eventSlot slot + 36) 6 = r.syncErrors

/-- The sync results stand in a memory that is the written one outside bytes 30 and 33 and the flags of the punches. -/
theorem syncErrors_of_beside {w : Memory} {r : Results} (hm : s.memoryOk)
    (h : ∀ b, s.eventSlot slot + 36 ≤ b → b < s.eventSlot slot + 42 → w.read b = (s.syncMem slot r).read b) :
    w.load (s.eventSlot slot + 36) 6 = r.syncErrors :=
  (Memory.load_congr fun b hl hb => h b hl (by omega)).trans (load_syncMem hm)

section
variable {r : Results} (hm : s.memoryOk) (hslot : s.slotHeld slot) (hr : r.reached.isSome = true)
include hm hslot hr

/-- Every claimed deck locked: SYNCED is entered. -/
theorem synced_passed (hi : (s.synced slot r).enterSynced = u) :
    SyncWritten s slot r u ∧ u.engine.state = .synced ∧ u.iface.pending.get .editProgress = true ∧
      u.mem.read (s.eventSlot slot + 30) = 5 ∧ u.mem.read (s.eventSlot slot + 33) = byte r.syncFlags := by
  subst hi
  unfold State.enterSynced
  rw [(enterRunning_of_held (s := s.synced slot r) hslot .synced).trans
    (entered_of_written (s := s.synced slot r) hr .synced)]
  have hout (b : Nat) (hb : b < s.eventSlot slot + 30 ∨ s.eventSlot slot + 31 ≤ b) :
      ((s.syncMem slot r).store (s.eventSlot slot + 30) [byte EngineState.synced.code]).read b =
        (s.syncMem slot r).read b :=
    Memory.read_store_outside _ _ _ (by rw [List.length_singleton]; omega)
  refine ⟨⟨.of_decks fun _ => rfl, fun b hb => ?_, ⟨rfl, rfl, rfl⟩, ?_⟩, rfl, raise_pending _ _, ?_, ?_⟩
  · exact (hout b (by omega)).trans (syncMem_outside (by omega))
  · exact syncErrors_of_beside hm fun b _ _ => hout b (by omega)
  · exact Memory.read_store_one (wf_syncMem hm slot r) (s.eventSlot slot + 30) (byte EngineState.synced.code)
  · exact (hout _ (by omega)).trans (read_syncMem hm)

/-- PROCEED with decks not locked. -/
theorem synced_proceeded {l : List Deck} (hl : l.Nodup) (hi : (s.synced slot r).proceedUnlocked l = u) :
    SyncWritten s slot r u ∧ u.engine.state = .synced ∧ u.engine.results.advisory = true ∧
      u.iface.pending.get .editProgress = true ∧ u.mem.read (s.eventSlot slot + 30) = 5 ∧
      u.mem.read (s.eventSlot slot + 33) = byte r.proceeded.syncFlags ∧
      ∀ n ∈ l, (u.deck n).capture = (s.deck n).capture.offer 2 .syncUnlocked 0 s.F := by
  subst hi
  rw [proceedUnlocked_of_written (a := s.synced slot r) hslot hr]
  obtain ⟨⟨ha, hmem, hiface⟩, hd⟩ := offerUnlocked_fold hl ((s.synced slot r).proceeded slot)
  generalize l.foldl _ ((s.synced slot r).proceeded slot) = w at *
  change w.mem = ((s.syncMem slot r).store (s.eventSlot slot + 30) [5]).store (s.eventSlot slot + 33)
    [byte r.proceeded.syncFlags] at hmem
  change ∀ m, w.deck m = if m ∈ l then (s.deck m).unlockOffered s.F else s.deck m at hd
  have hout (b : Nat) (hb : b < s.eventSlot slot + 30 ∨ s.eventSlot slot + 34 ≤ b) :
      w.mem.read b = (s.syncMem slot r).read b := by
    rw [hmem]
    exact (Memory.read_store_outside _ _ _ (by rw [List.length_singleton]; omega)).trans
      (Memory.read_store_outside _ _ _ (by rw [List.length_singleton]; omega))
  refine ⟨⟨fun n => ?_, fun b hb => ?_, ⟨ha.marks, ha.log, ha.gpi⟩, ?_⟩, congrArg Engine.state ha.engine,
    congrArg (fun e : Engine => e.results.advisory) ha.engine, ?_, ?_, ?_, fun n hn => ?_⟩
  · rw [State.sidesKept, hd]
    split
    · exact ⟨⟨rfl, rfl, rfl, rfl, rfl⟩, rfl⟩
    · exact ⟨⟨rfl, rfl, rfl, rfl, rfl⟩, rfl⟩
  · exact (hout b (by omega)).trans (syncMem_outside (by omega))
  · exact syncErrors_of_beside hm fun b _ _ => hout b (by omega)
  · rw [hiface]
    exact raise_pending _ _
  · rw [hmem]
    exact (Memory.read_store_outside _ _ _ (by omega)).trans (Memory.read_store_one (wf_syncMem hm slot r) _ _)
  · rw [hmem]
    exact Memory.read_store_one (Memory.wf_store _ _ (wf_syncMem hm slot r)) _ _
  · rw [hd, if_pos hn]
    rfl

/-- ABORT with a deck not locked. -/
theorem synced_aborted (hst : s.engine.state = .rolling) (hi : (s.synced slot r).abort .syncFail = u) :
    SyncWritten s slot r u ∧ u.engine.state = .aborting ∧ u.engine.abortCode = some .syncFail ∧
      u.mem.read (s.eventSlot slot + 30) = s.mem.read (s.eventSlot slot + 30) ∧
      u.mem.read (s.eventSlot slot + 33) = byte r.syncFlags := by
  subst hi
  have hrun : (s.synced slot r).engine.state.running = true := by
    change s.engine.state.running = true
    rw [hst]
    rfl
  have ha := abort_aside .syncFail hrun
  obtain ⟨-, hwritten⟩ := abort_writes .syncFail hrun
  obtain ⟨hout, -, -, -⟩ := hwritten slot hslot (wf_syncMem hm slot r) hr
  have hq : Quiet s (s.synced slot r) := .of_decks fun _ => rfl
  have hquiet := hq.trans (abort_quiet (s.synced slot r) .syncFail)
  generalize (s.synced slot r).abort .syncFail = w at *
  replace hout (b : Nat) (hb : b < s.eventSlot slot + 42 ∨ s.eventSlot slot + 59 ≤ b) :
      w.mem.read b = (s.syncMem slot r).read b := hout b (by
    change b < s.eventSlot slot + 42 ∨ s.eventSlot slot + 42 + 17 ≤ b
    omega)
  refine ⟨⟨hquiet, fun b hb => ?_, ⟨ha.marks, ha.log, ha.gpi⟩, ?_⟩, congrArg Engine.state ha.engine,
    congrArg Engine.abortCode ha.engine, ?_, ?_⟩
  · exact (hout b (by omega)).trans (syncMem_outside (by omega))
  · exact syncErrors_of_beside hm fun b _ hb => hout b (by omega)
  · exact (hout _ (by omega)).trans (syncMem_outside (by omega))
  · exact (hout _ (by omega)).trans (read_syncMem hm)

end

/-! ## The obligation -/

section
variable {ev : Event} {lock : Deck → Bool} {flag : Deck → Nat} {of_ : Option Source → (Deck → Nat) → Nat}

theorem syncCode_of_lock (hlock : ∀ n, lock n = ((s.deck n).chase.state == .locked &&
      (s.deck n).chase.starter == some .engine))
    (hflag : ∀ n, flag n = if lock n = true then 1 else if (s.deck n).chase.lastError ≠ none then 2 else 3) (n : Deck) :
    syncCode (some (s.syncOf n)) = flag n := by
  rw [hflag, hlock]
  simp only [syncCode, State.syncOf, Option.isSome_iff_ne_none]

theorem syncCode_of_source (hcode : ∀ n, syncCode (some (s.syncOf n)) = flag n)
    (hof : ∀ f, of_ none f = 0 ∧ of_ (some .black) f = 0 ∧ ∀ n, of_ (some (.deck n)) f = f n) (x : Option Source) :
    syncCode ((x.bind Source.deck?).map s.syncOf) = of_ x flag := by
  obtain ⟨hnone, hblack, hdeck⟩ := hof flag
  cases x with
  | none => exact hnone.symm
  | some x =>
    cases x with
    | black => exact hblack.symm
    | deck n => exact (hcode n).trans (hdeck n).symm

theorem syncErrorBytes_of_source {error : Option Source → List Byte}
    (herror : error none = [0, 0] ∧ error (some .black) = [0, 0] ∧
      ∀ n, error (some (.deck n)) = errorBytes (s.deck n).chase.lastError) (x : Option Source) :
    syncErrorBytes ((x.bind Source.deck?).map s.syncOf) = error x := by
  obtain ⟨hnone, hblack, hdeck⟩ := herror
  cases x with
  | none => exact hnone.symm
  | some x =>
    cases x with
    | black => exact hblack.symm
    | deck n => exact (hdeck n).symm

end

/-- Settles O48. -/
theorem syncCheckFollowsThePolicy : Obligations.SyncCheckFollowsThePolicy := by
  intro s ev slot lock flag of_ error flags hs hb hslot hm hw hst hreach hadv hF he hn hlock hflag hof herror hflags
  have hdue : Act.sync.due s = true := by simp [Act.due, hst, hF]
  have hexec := command_engineRow hs hdue he
  have hrun : Act.sync.run s = s.syncCheck ev := by
    change s.onEvent State.syncCheck = _
    unfold State.onEvent
    rw [hw]
  have hstand := ((Calm.refl s).syncCheck ev).settleDecks.standing
  rw [hrun] at hexec
  have hr : s.engine.results.reached.isSome = true := Option.isSome_iff_exists.mpr ⟨_, hreach⟩
  have hcheck := syncCheck_of_written hslot hr hst ev
  have hcode := syncCode_of_lock hlock hflag
  have hcodes := syncCode_of_source hcode hof
  have herrors := syncErrorBytes_of_source herror
  have hall : (s.syncResults ev s.engine.results).syncErrors =
      error (some (.deck ev.recorder)) ++ error (some ev.sourceA) ++ error ev.sourceB := by
    rw [← herrors, ← herrors, ← herrors]
    rfl
  have hsum : (s.syncResults ev s.engine.results).syncFlags = flags := by
    rw [hflags, ← hcodes, ← hcodes, ← hcode]
    simp [Results.syncFlags, State.syncResults, hadv]
  have hsum' : (s.syncResults ev s.engine.results).proceeded.syncFlags = flags + 64 := by
    rw [hflags, ← hcodes, ← hcodes, ← hcode]
    rfl
  have hr' : (s.syncResults ev s.engine.results).reached.isSome = true := hr
  have hunlocked (n : Deck) : n ∈ s.unlocked ↔ n ∈ s.engine.claims ∧ lock n = false := by
    rw [mem_unlocked, hlock]
    rfl
  have hnodup : s.unlocked.Nodup := hn.filter _
  generalize s.syncResults ev s.engine.results = r at *
  generalize s.syncCheck ev = w at *
  have done (hk : SyncWritten s slot r w) : ∃ t, exec .syncCheck s = .next t ∧ t = w ∧
      s.sameOutside t (s.eventSlot slot + 30) 34 ∧ t.standing = s.standing ∧ (∀ n, s.sidesKept t n) ∧ s.unitsKept t ∧
      t.mem.load (s.eventSlot slot + 36) 6 =
        error (some (.deck ev.recorder)) ++ error (some ev.sourceA) ++ error ev.sourceB := by
    rw [settleDecks_of_busy (hk.quiet.linksBusy hb)] at hexec hstand
    exact ⟨w, hexec, rfl, hk.outside, hstand, fun n => (hk.quiet n).1, hk.units, hk.errors.trans hall⟩
  by_cases hu : s.unlocked.isEmpty = true
  · have hpass := hcheck.trans (if_pos hu)
    obtain ⟨hk, hstate, hcause, h30, h33⟩ := synced_passed hm hslot hr' hpass.symm
    obtain ⟨t, ht, rfl, hout, hs', hsides, hunits, herr⟩ := done hk
    refine ⟨t, ht, hout, hs', hsides, hunits, herr, fun _ => ⟨hstate, hcause, h30, by rw [h33, hsum]⟩,
      fun n hc hl => ?_⟩
    have := (hunlocked n).mpr ⟨hc, hl⟩
    rw [List.isEmpty_iff.mp hu] at this
    simp at this
  · have hfail := hcheck.trans (if_neg hu)
    have hone : ¬ ∀ n ∈ s.engine.claims, lock n = true := fun h => hu <| List.isEmpty_iff.mpr <|
      List.eq_nil_iff_forall_not_mem.mpr fun n hn => by
        obtain ⟨hc, hl⟩ := (hunlocked n).mp hn
        simp [h n hc] at hl
    cases hpol : s.suite.syncPolicy with
    | abort =>
      obtain ⟨hk, hstate, habort, h30, h33⟩ := synced_aborted hm hslot hr' hst (hfail.trans (if_pos hpol)).symm
      obtain ⟨t, ht, rfl, hout, hs', hsides, hunits, herr⟩ := done hk
      exact ⟨t, ht, hout, hs', hsides, hunits, herr, fun h => absurd h hone,
        fun n _ _ => ⟨fun _ => ⟨hstate, habort, h30, by rw [h33, hsum]⟩, fun h => by simp at h⟩⟩
    | proceed =>
      obtain ⟨hk, hstate, hadvisory, hcause, h30, h33, hcapture⟩ :=
        synced_proceeded hm hslot hr' hnodup (hfail.trans (if_neg (by rw [hpol]; decide))).symm
      obtain ⟨t, ht, rfl, hout, hs', hsides, hunits, herr⟩ := done hk
      exact ⟨t, ht, hout, hs', hsides, hunits, herr, fun h => absurd h hone,
        fun n hc hl => ⟨fun h => by simp at h, fun _ =>
          ⟨hstate, hadvisory, hcause, h30, by rw [h33, hsum'], hcapture n ((hunlocked n).mpr ⟨hc, hl⟩)⟩⟩⟩

end Sys2Proof.Machine
end

section
/-!
PROOFS. The chase controllers (chapter 6): the entry to LOCKED, the bounds of the trim, the evaluation of samples.
-/

namespace Sys2Proof.Machine

variable {s t u v : State} {n m : Deck} {slot : Fin 64}

/-! ## LOCKED entered and left -/

/-- A move of a chase into or out of LOCKED raises CHASE if the host began it (R106). -/
theorem moveChase_of_host {f : Chase → Chase} (hh : (s.deck n).chase.starter = some .host)
    (hl : ((s.deck n).chase.state = .locked) ≠ ((f (s.deck n).chase).state = .locked)) :
    s.moveChase n f = (s.onChase n f).raise .chase := by
  unfold State.moveChase
  exact if_pos ⟨hh, hl⟩

theorem moveChase_of_other {f : Chase → Chase} (hh : (s.deck n).chase.starter ≠ some .host) :
    s.moveChase n f = s.onChase n f := by
  unfold State.moveChase
  exact if_neg fun h => hh h.1

/-! ## The commanded speed (R101) -/

theorem roundDiv_nonneg {x : Int} (h : 0 ≤ x) : 0 ≤ roundDiv x 16 := by
  simp only [roundDiv, if_pos h]
  omega

theorem roundDiv_nonpos {x : Int} (h : x ≤ 0) : roundDiv x 16 ≤ 0 := by
  unfold roundDiv
  split <;> omega

/-- The trim of row 6 before the speed is clamped. -/
def trimOf (d : DeckSettings) (e : Int) : Int :=
  if e.natAbs ≤ d.lockWindow then 0 else clamp (-(d.vmax : Int)) d.vmax (roundDiv (d.gain * e) 16)

theorem trimSpeed_eq (d : DeckSettings) (vm e : Int) : trimSpeed d vm e = clamp (-3000) 3000 (vm - trimOf d e) := rfl

theorem trimOf_bounds (d : DeckSettings) (e : Int) : (trimOf d e).natAbs ≤ d.vmax := by
  unfold trimOf clamp
  split_ifs <;> omega

theorem trimOf_nonneg (d : DeckSettings) {e : Int} (h : 0 ≤ e) : 0 ≤ trimOf d e := by
  have := roundDiv_nonneg (Int.mul_nonneg (Int.natCast_nonneg d.gain) h)
  unfold trimOf clamp
  split_ifs <;> omega

theorem trimOf_nonpos (d : DeckSettings) {e : Int} (h : e ≤ 0) : trimOf d e ≤ 0 := by
  have := roundDiv_nonpos (Int.mul_nonpos_of_nonneg_of_nonpos (Int.natCast_nonneg d.gain) h)
  unfold trimOf clamp
  split_ifs <;> omega

theorem clamp_bounds {a b : Int} (h : a ≤ b) (x : Int) : a ≤ clamp a b x ∧ clamp a b x ≤ b := by
  unfold clamp
  split_ifs <;> omega

/-- Settles O43. -/
theorem chaseLocksAndTrimBounds : Obligations.ChaseLocksAndTrimBounds := by
  refine ⟨fun s n h => ?_, fun s n _ hd hl => ⟨fun hh => ?_, fun hh => ?_⟩, fun s n h => ?_,
    fun s n _ hl hu => ⟨fun hh => ?_, fun hh => ?_⟩, fun d vm e => ?_⟩
  · exact congrArg Host.Outcome.next (if_neg (by simp [h]))
  · exact congrArg Host.Outcome.next ((if_pos hd).trans (moveChase_of_host hh (by simp [hl])))
  · exact congrArg Host.Outcome.next ((if_pos hd).trans (moveChase_of_other hh))
  · exact congrArg Host.Outcome.next (if_neg (by tauto))
  · exact congrArg Host.Outcome.next ((if_pos ⟨hl, hu⟩).trans (moveChase_of_host hh (by simp [hl])))
  · exact congrArg Host.Outcome.next ((if_pos ⟨hl, hu⟩).trans (moveChase_of_other hh))
  · have hb := trimOf_bounds d e
    have hpos := trimOf_nonneg d (e := e)
    have hneg := trimOf_nonpos d (e := e)
    have hwindow : e.natAbs ≤ d.lockWindow → trimOf d e = 0 := fun h => if_pos h
    obtain ⟨hlo, hhi⟩ := clamp_bounds (a := -3000) (b := 3000) (by decide) (vm - trimOf d e)
    rw [trimSpeed_eq]
    refine ⟨hlo, hhi, fun h₁ h₂ => ?_, fun h₁ h₂ hw => ?_, fun h₁ h₂ he => ?_, fun h₁ h₂ he => ?_⟩
    · unfold clamp; split_ifs <;> omega
    · rw [hwindow hw]; unfold clamp; split_ifs <;> omega
    · have := hpos he; unfold clamp; split_ifs <;> omega
    · have := hneg he; unfold clamp; split_ifs <;> omega

end Sys2Proof.Machine
end

section
/-!
PROOFS. The evaluation of a chase's samples by Table 6-4 (R97, R99 to R105).
-/

namespace Sys2Proof.Machine

variable {s t u v : State} {n m : Deck} {slot : Fin 64}

/-! ## The controller in the part -/

theorem offerTrim_mem (s : State) (n : Deck) (c : Option LinkCommand) : (s.offerTrim n c).mem = s.mem := by
  unfold State.offerTrim
  split
  · rfl
  · split <;> rfl

theorem offerTrim_iface (s : State) (n : Deck) (c : Option LinkCommand) : (s.offerTrim n c).iface = s.iface := by
  unfold State.offerTrim
  split
  · rfl
  · split <;> rfl

theorem Aside.offerTrim (h : Aside s t) (n : Deck) (c : Option LinkCommand) : Aside s (t.offerTrim n c) := by
  unfold State.offerTrim
  split
  · exact h
  · split
    · exact h
    · exact h.onDeck n _

theorem offerTrim_deck_ne (s : State) {n m : Deck} (h : m ≠ n) (c : Option LinkCommand) :
    (s.offerTrim n c).deck m = s.deck m := by
  unfold State.offerTrim
  split
  · rfl
  · split
    · rfl
    · exact State.onDeck_deck_ne _ _ h

/-- The deck of a link that is not ABSENT takes the offer, or keeps its slot. -/
theorem offerTrim_deck_self (h : (s.deck n).link.state ≠ .absent) (c : Option LinkCommand) :
    (((s.offerTrim n c).deck n).chase = (s.deck n).chase ∧ ((s.offerTrim n c).deck n).tracker = (s.deck n).tracker) ∧
      ((s.offerTrim n c).deck n).arbiter.trim = c.or (s.deck n).arbiter.trim := by
  unfold State.offerTrim
  split
  · exact ⟨⟨rfl, rfl⟩, rfl⟩
  · rw [if_neg h, State.onDeck_deck_self]
    exact ⟨⟨rfl, rfl⟩, rfl⟩

/-- What the evaluation of a sample makes of the part: the controller moved, its command offered. -/
structure ChaseEvaluated (s : State) (n : Deck) (r : Chase × Option LinkCommand) (t : State) : Prop where
  others : ∀ m, m ≠ n → t.deck m = s.deck m
  mem : t.mem = s.mem
  engine : t.engine = s.engine
  tracker : (t.deck n).tracker = (s.deck n).tracker
  chase : (t.deck n).chase = r.1
  trim : (t.deck n).arbiter.trim = r.2.or (s.deck n).arbiter.trim
  cause : (s.deck n).chase.starter = some .host → (s.deck n).chase.state = .locked → r.1.state ≠ .locked →
    t.iface.pending.get .chase = true

theorem evaluateChase_of_running (hoff : (s.deck n).chase.state ≠ .off) (hl : (s.deck n).link.state ≠ .absent)
    (x : Sample) :
    ChaseEvaluated s n ((s.deck n).chase.evaluate (s.deck n).settings x (s.masterAt (s.deck n).chase x.stamp))
      (s.evaluateChase n x) := by
  unfold State.evaluateChase
  extract_lets c r
  rw [if_neg hoff]
  change ChaseEvaluated s n r _
  have hcause (hh : c.starter = some .host) (hk : c.state = .locked) (hr : r.1.state ≠ .locked) :
      (s.moveChase n fun _ => r.1).iface.pending.get .chase = true := by
    rw [moveChase_of_host hh (by rw [eq_true hk, eq_false hr]; simp)]
    exact raise_pending _ _
  have hd := moveChase_deck s n (f := fun _ => r.1)
  have hm := moveChase_mem s n fun _ => r.1
  have ha := (Aside.refl s).moveChase n fun _ => r.1
  clear_value r
  generalize s.moveChase n (fun _ => r.1) = a at *
  have hself : a.deck n = { s.deck n with chase := r.1 } := (hd n).trans (if_pos rfl)
  obtain ⟨⟨hchase, htracker⟩, htrim⟩ := offerTrim_deck_self (s := a) (n := n) (by rw [hself]; exact hl) r.2
  rw [hself] at hchase htracker htrim
  exact ⟨fun m h => (offerTrim_deck_ne a h r.2).trans ((hd m).trans (if_neg h)), (offerTrim_mem a n r.2).trans hm,
    (ha.offerTrim n r.2).engine, htracker, hchase, htrim, fun hh hk hr => by
      rw [offerTrim_iface]; exact hcause hh hk hr⟩

/-! ## The master's position and the target -/

theorem Kind.dayFields_pos (k : Kind) : 0 < (k.dayFields : Int) := by cases k <;> decide

theorem displacePos_eq (k : Kind) (p : Nat) (d : Int) : (displacePos k p d : Int) = ((p : Int) + d) % k.dayFields :=
  Int.toNat_of_nonneg (Int.emod_nonneg _ (Kind.dayFields_pos k).ne')

section
variable {c : Chase} {f : FieldCount}

theorem masterAt_none {m : Deck} (hm : c.master = some (.deck m))
    (h : (s.deck m).tracker.quality = .none ∨ (s.deck m).tracker.base = none) : s.masterAt c f = none := by
  simp only [State.masterAt, hm]
  split
  · rfl
  · next hq => simp [Tracker.predict, h.resolve_left hq]

theorem masterAt_timeline {o : Nat × Kind} {g : FieldCount} (hm : c.master = some .timeline) (ho : c.origin = some o)
    (hf : c.startField = some g) : s.masterAt c f = some (2 * (o.1 : Int) + fieldDiff f g, 1000) := by
  simp only [State.masterAt, hm, ho, hf]

theorem masterAt_deck {m : Deck} {b : Sample} (hm : c.master = some (.deck m))
    (hq : (s.deck m).tracker.quality ≠ .none) (hb : (s.deck m).tracker.base = some b) :
    s.masterAt c f = some (((b.pos : Int) + roundDiv ((s.deck m).tracker.v * fieldDiff f b.stamp) 1000) %
      b.kind.dayFields, (s.deck m).tracker.v) := by
  simp only [State.masterAt, hm, if_neg hq, Tracker.predict, hb, Option.map_some, displacePos_eq]

/-- The target as R97 gives it. -/
theorem target_eq {k : Kind} {position offset : Int} {T : Nat} (ho : c.offset = some offset)
    (hT : (T : Int) = (position + 2 * offset) % k.dayFields) : c.target k position = T := by
  have h : (c.target k position : Int) = T := by
    rw [Chase.target, displacePos_eq, ho, hT]
    simp
  exact_mod_cast h

end

/-! ## The rows of Table 6-4 -/

/-- An offer that is made unless a condition holds. -/
theorem offering_unless (c : Chase) (p : Prop) [Decidable p] (w : LinkCommand) :
    c.offering (if p then none else some w) =
      ({ c with seek := if p then c.seek else none }, if p then none else some w) := by
  unfold Chase.offering
  split
  · rfl
  · rfl

theorem or_unless (p : Prop) [Decidable p] (w : LinkCommand) (a : Option LinkCommand) :
    (if p then none else some w : Option LinkCommand).or a = if p then a else some w := by
  split
  · rfl
  · rfl

/-- The controller of rows 1 to 5, F_k written out. -/
theorem unlockedTo_eq {c : Chase} {f : FieldCount} {stamped : Option FieldCount}
    (h : (if c.counts f then some f else c.lastCounted) = stamped) (st : ChaseState) (e : Option Int) :
    c.unlockedTo st f e = { c with
      state := st, lockCount := 0, unlockRun := 0, lockDue := false, lastCounted := stamped, lastError := e } := by
  rw [← h]
  rfl

section
variable {c : Chase} {d : DeckSettings} {x : Sample} {p vm e : Int} {T : Nat}

/-- The rows, by the master's speed and the error. -/
theorem chaseRow_tooFast (h : 3000 < vm.natAbs) : chaseRow d vm e = .tooFast := if_pos h

theorem chaseRow_send (h : vm = 0) (he : d.lockWindow < e.natAbs) : chaseRow d vm e = .send := by
  simp [chaseRow, h, he]

theorem chaseRow_hold (h : vm = 0) (he : e.natAbs ≤ d.lockWindow) : chaseRow d vm e = .hold := by
  simp [chaseRow, h, he]

theorem chaseRow_far (h : vm.natAbs ≤ 3000) (h0 : vm ≠ 0) (he : 2 * d.windThreshold < e.natAbs) :
    chaseRow d vm e = .far := by
  simp [chaseRow, h, h0, he]

theorem chaseRow_trim (h : vm.natAbs ≤ 3000) (h0 : vm ≠ 0) (he : e.natAbs ≤ 2 * d.windThreshold) :
    chaseRow d vm e = .trim := by
  simp only [chaseRow, if_neg (Nat.not_lt.mpr h), if_neg h0, if_neg (Nat.not_lt.mpr he)]

section
variable (hT : c.target x.kind p = T) (he : e = sdiff x.kind.dayFields x.pos T)
include hT he

theorem evaluate_tooFast (hr : chaseRow d vm e = .tooFast) : c.evaluate d x (some (p, vm)) =
    (c.unlockedTo .seeking x.stamp (some e)).offering (c.unlessSent vm (.wind vm)) := by
  simp only [Chase.evaluate, hT, ← he, hr]

theorem evaluate_send (hr : chaseRow d vm e = .send) : c.evaluate d x (some (p, vm)) =
    if c.seek = some ⟨.park, T / 2, x.kind⟩ then (c.unlockedTo .seeking x.stamp (some e), none)
    else (c.unlockedTo .seeking x.stamp (some e)).offeringSeek .park x.kind (T / 2) := by
  simp only [Chase.evaluate, hT, ← he, hr]

theorem evaluate_hold (hr : chaseRow d vm e = .hold) : c.evaluate d x (some (p, vm)) =
    (c.unlockedTo .parked x.stamp (some e)).offering
      (if c.lastSpeed = some 0 ∨ c.seeking .park then none else some .halt) := by
  simp only [Chase.evaluate, hT, ← he, hr]

theorem evaluate_far (hr : chaseRow d vm e = .far) : c.evaluate d x (some (p, vm)) =
    if c.seeking .runOn then ({ c with lastError := some e }, none)
    else (c.unlockedTo .seeking x.stamp (some e)).offeringSeek .runOn x.kind
      (displacePos x.kind T (if 0 < vm then 2 * d.seekLead else -(2 * d.seekLead)) / 2) := by
  simp only [Chase.evaluate, hT, ← he, hr]

theorem evaluate_trim (hr : chaseRow d vm e = .trim) : c.evaluate d x (some (p, vm)) =
    if c.seeking .runOn then ({ c with lastError := some e }, none) else c.trimRow d x.stamp vm e := by
  simp only [Chase.evaluate, hT, ← he, hr]

end

theorem seeking_iff {c : Chase} {q : SeekPurpose} : c.seeking q = true ↔ ∃ k, c.seek = some k ∧ k.purpose = q := by
  simp [Chase.seeking]

theorem counts_iff {c : Chase} {f : FieldCount} :
    c.counts f = true ↔ ∀ k, c.lastCounted = some k → 2 ≤ fieldDiff f k := by
  unfold Chase.counts
  split
  · next h => simp [h]
  · next k h => simp [h]

end

/-- The lock count of row 6, at a sample counted or not (R104). -/
def Chase.countOf (c : Chase) (d : DeckSettings) (f : FieldCount) (e : Int) : Nat :=
  if c.counts f then c.countAfter d f e else c.lockCount

/-- What row 6 makes of the controller (R101, R104, R105). -/
structure TrimRow (c : Chase) (d : DeckSettings) (f : FieldCount) (e v : Int) (u : Chase) : Prop where
  state : u.state = if c.state = .locked then .locked else .closing
  error : u.lastError = some e
  count : u.lockCount = c.countOf d f e
  stamp : u.lastCounted = if c.counts f then some f else c.lastCounted
  run : u.unlockRun = if c.state ≠ .locked then c.unlockRun
    else if d.unlockWindow < e.natAbs then c.unlockRun + 1 else 0
  due : u.lockDue = true ↔
    c.state ≠ .locked ∧ c.counts f = true ∧ e.natAbs ≤ d.lockWindow ∧ d.lockCount ≤ c.countOf d f e
  seek : u.seek = if c.lastSpeed = some v then c.seek else none

theorem trimRow_eq (c : Chase) (d : DeckSettings) (f : FieldCount) (vm e : Int) :
    TrimRow c d f e (trimSpeed d vm e) (c.trimRow d f vm e).1 ∧
      (c.trimRow d f vm e).2 =
        if c.lastSpeed = some (trimSpeed d vm e) then none else some (.runVar (trimSpeed d vm e)) := by
  unfold Chase.trimRow
  extract_lets v counted count locked run c'
  have hoff := offering_unless c' (c.lastSpeed = some v) (.runVar v)
  change (c'.offering (c.unlessSent v (.runVar v))) = _ at hoff
  rw [hoff]
  refine ⟨⟨?_, rfl, rfl, rfl, ?_, ?_, rfl⟩, rfl⟩
  · change (if locked = true then _ else _) = _
    simp only [locked, beq_iff_eq]
  · change (if locked = true then _ else _) = _
    by_cases h : c.state = .locked
    · simp only [locked, h, beq_self_eq_true, if_true, ne_eq, not_true_eq_false, if_false]
    · simp [locked, h]
  · change (!locked && counted && decide (e.natAbs ≤ d.lockWindow) && decide (d.lockCount ≤ count)) = true ↔ _
    simp [locked, counted, count, Chase.countOf, and_assoc]

/-- Settles O42. -/
theorem chaseSamplesFollowTheLaw : Obligations.ChaseSamplesFollowTheLaw := by
  intro s t n x c u d offset counted stamped hc hd ht hu hoff ho hl hcounted hyes hno
  have hev := evaluateChase_of_running (hc ▸ hoff) hl x
  rw [← ht, ← hc, ← hd] at hev
  obtain ⟨hothers, hmem, hengine, htracker, hchase, htrim, hcause⟩ := hev
  rw [← hu] at hchase
  rw [← hc] at hcause
  have hcounts : c.counts x.stamp = true ↔ counted := counts_iff.trans hcounted.symm
  have hstamped : (if c.counts x.stamp then some x.stamp else c.lastCounted) = stamped := by
    by_cases h : counted
    · rw [if_pos (hcounts.mpr h), hyes h]
    · rw [if_neg (fun k => h (hcounts.mp k)), hno h]
  have hrow := unlockedTo_eq hstamped
  refine ⟨hothers, hmem, hengine, htracker, fun hh hk hn => hcause hh hk (hchase ▸ hn), fun m hm hnone => ?_,
    fun position vm e T hmaster hT he => ?_⟩
  · rw [masterAt_none hm hnone] at hchase htrim
    have heval : c.evaluate d x none = (c.unlockedTo .wait x.stamp none).offering
      (if c.state = .wait ∨ c.resumed = true then none else some .halt) := rfl
    rw [heval, offering_unless, hrow] at hchase htrim
    exact ⟨hchase, htrim.trans (or_unless _ _ _)⟩
  · have hat : s.masterAt c x.stamp = some (position, vm) := by
      rcases hmaster with ⟨o, f, hm, hor, hf, rfl, rfl⟩ | ⟨m, b, hm, hq, hb, rfl, rfl⟩
      · exact masterAt_timeline hm hor hf
      · exact masterAt_deck hm hq hb
    have htarget := target_eq ho hT
    rw [hat] at hchase htrim
    clear hcause hat hmaster
    refine ⟨fun hfast => ?_, fun hv hw => ?_, fun hv hw quiet hquiet => ⟨fun hq => ?_, fun hq => ?_⟩,
      fun hv h0 => ⟨fun hrun => ?_, fun hrun hw frame hframe => ?_, fun hrun hw v trim count htr hvv hc0 hc1 hc2 => ?_⟩⟩
    · rw [evaluate_tooFast htarget he (chaseRow_tooFast hfast), Chase.unlessSent, offering_unless, hrow] at hchase htrim
      exact ⟨hchase, htrim.trans (or_unless _ _ _)⟩
    · rw [evaluate_send htarget he (chaseRow_send hv hw), hrow] at hchase htrim
      by_cases hp : c.seek = some ⟨.park, T / 2, x.kind⟩
      · rw [if_pos hp] at hchase htrim
        rw [if_pos hp, ← hp]
        exact ⟨hchase, htrim⟩
      · rw [if_neg hp] at hchase htrim
        rw [if_neg hp]
        exact ⟨hchase, htrim⟩
    · have hquiet' : c.lastSpeed = some 0 ∨ c.seeking .park = true := by rw [seeking_iff]; exact hquiet.mp hq
      rw [evaluate_hold htarget he (chaseRow_hold hv hw), if_pos hquiet', hrow] at hchase htrim
      exact ⟨hchase, htrim⟩
    · have hquiet' : ¬(c.lastSpeed = some 0 ∨ c.seeking .park = true) := by
        rw [seeking_iff]
        exact fun h => hq (hquiet.mpr h)
      rw [evaluate_hold htarget he (chaseRow_hold hv hw), if_neg hquiet', hrow] at hchase htrim
      exact ⟨hchase, htrim⟩
    · have hseek : c.seeking .runOn = true := seeking_iff.mpr hrun
      by_cases hw : 2 * d.windThreshold < e.natAbs
      · rw [evaluate_far htarget he (chaseRow_far hv h0 hw), if_pos hseek] at hchase htrim
        exact ⟨hchase, htrim⟩
      · rw [evaluate_trim htarget he (chaseRow_trim hv h0 (Nat.not_lt.mp hw)), if_pos hseek] at hchase htrim
        exact ⟨hchase, htrim⟩
    · have hseek : ¬c.seeking .runOn = true := fun h => by
        obtain ⟨k, hk, hp⟩ := seeking_iff.mp h
        exact hrun k hk hp
      have hf : displacePos x.kind T (if 0 < vm then 2 * d.seekLead else -(2 * d.seekLead)) / 2 = frame := by
        rw [hframe]
        rfl
      rw [evaluate_far htarget he (chaseRow_far hv h0 hw), if_neg hseek, hrow, hf] at hchase htrim
      exact ⟨hchase, htrim⟩
    · have hseek : ¬c.seeking .runOn = true := fun h => by
        obtain ⟨k, hk, hp⟩ := seeking_iff.mp h
        exact hrun k hk hp
      obtain ⟨hu', hcmd⟩ := trimRow_eq c d x.stamp vm e
      have hspeed : trimSpeed d vm e = v := by rw [hvv, htr]; rfl
      rw [evaluate_trim htarget he (chaseRow_trim hv h0 hw), if_neg hseek] at hchase htrim
      rw [hspeed] at hu' hcmd
      rw [← hchase] at hu'
      have hcount : c.countOf d x.stamp e = count := by
        unfold Chase.countOf Chase.countAfter
        by_cases h : counted
        · rw [if_pos (hcounts.mpr h)]
          by_cases hwin : d.lockWindow < e.natAbs
          · rw [if_pos hwin, hc0 h hwin]
          · rw [if_neg hwin]
            refine Eq.trans ?_ (hc1 h (Nat.not_lt.mp hwin)).symm
            cases c.lastCounted <;> rfl
        · rw [if_neg fun k => h (hcounts.mp k), hc2 h]
      exact ⟨hu'.state, hu'.error, hu'.count.trans hcount, hu'.stamp.trans hstamped, hu'.run,
        by rw [hu'.due, hcount, hcounts], hu'.seek, by rw [htrim, hcmd, or_unless]⟩

end Sys2Proof.Machine
end

section
/-!
PROOFS. Timecode words judged by a tracker (R76 to R83), and the flywheel (R84, R85).
-/

namespace Sys2Proof.Machine

variable {s t u v : State} {n m : Deck} {slot : Fin 64}

/-! ## A word's sample judged -/

theorem wordSample_eq (w : LtcWord) (f : FieldCount) : wordSample w f =
    ⟨(if w.direction = .forward then 2 * (w.frame + 1) else 2 * w.frame) % w.kind.dayFields, w.kind,
      f, .ltc⟩ := by
  unfold wordSample displacePos
  cases w.direction with
  | forward =>
    have h : (((0 : Nat) : Int) + 2 * ((w.frame : Int) + 1)) % (w.kind.dayFields : Int) =
        ((2 * (w.frame + 1) % w.kind.dayFields : Nat) : Int) := by push_cast; rw [Int.zero_add]
    simp only [h, Int.toNat_natCast, if_true]
  | reverse =>
    have h : (((0 : Nat) : Int) + 2 * (w.frame : Int)) % (w.kind.dayFields : Int) =
        ((2 * w.frame % w.kind.dayFields : Nat) : Int) := by push_cast; rw [Int.zero_add]
    simp only [h, Int.toNat_natCast, reduceCtorEq, if_false]

section
variable {tr : Tracker} {x b c : Sample} {dir : Direction}

theorem judge_of_none (h : tr.candidate = none) (x : Sample) (dir : Direction) :
    tr.judge x dir = tr.judgeBase x dir := by
  simp only [Tracker.judge, h]

theorem judge_of_fitting {k : Direction} (h : tr.candidate = some (c, k)) (hf : fitsCandidate c x dir = true) :
    tr.judge x dir = (true, tr.jump c x dir) := by
  simp only [Tracker.judge, h, hf, if_true]

theorem judgeBase_of_fresh (h : tr.base = none) : tr.judgeBase x dir = (true, tr.acceptPlain [] x) := by
  simp [Tracker.judgeBase, Tracker.fresh, h]

/-- How far a sample lies from the prediction (R80). -/
def Tracker.miss (tr : Tracker) (b x : Sample) : Nat :=
  (sdiff x.kind.dayFields x.pos (displacePos b.kind b.pos (roundDiv (tr.v * fieldDiff x.stamp b.stamp) 1000))).natAbs

theorem judgeBase_of_base (h : tr.base = some b) (hk : b.kind = x.kind) : tr.judgeBase x dir =
    if tr.miss b x ≤ 2 then (true, tr.acceptPlain tr.history x)
    else (false, { tr with candidate := some (x, dir) }) := by
  have hfresh : tr.fresh x = false := by simp [Tracker.fresh, h, hk]
  have hcons : tr.consistent x = decide (tr.miss b x ≤ 2) := by
    simp [Tracker.consistent, Tracker.predict, h, hk, Tracker.miss]
  simp [Tracker.judgeBase, hfresh, hcons]

/-- The history after a sample has joined, from R83. -/
theorem joinHistory_one (c x : Sample) : joinHistory [c] x = if c.stamp = x.stamp then [x] else [x, c] := rfl

/-- Whatever is judged, the user bits and the colour flag stay as they were set. -/
theorem judge_bits (tr : Tracker) (x : Sample) (dir : Direction) :
    (tr.judge x dir).2.userBits = tr.userBits ∧ (tr.judge x dir).2.colour = tr.colour := by
  have haccept (h : List Sample) (v : Int) : (tr.accept h v x).userBits = tr.userBits ∧
      (tr.accept h v x).colour = tr.colour := by
    unfold Tracker.accept
    split
    · exact ⟨rfl, rfl⟩
    · exact ⟨rfl, rfl⟩
  have hbase : (tr.judgeBase x dir).2.userBits = tr.userBits ∧ (tr.judgeBase x dir).2.colour = tr.colour := by
    unfold Tracker.judgeBase
    split
    · exact haccept _ _
    · split
      · exact haccept _ _
      · exact ⟨rfl, rfl⟩
  unfold Tracker.judge
  split
  · split
    · exact haccept _ _
    · exact hbase
  · exact hbase

end

/-! ## A word taken by the part -/

/-- A tracker with a word's user bits and colour flag. -/
def Tracker.worded (tr : Tracker) (w : LtcWord) : Tracker := { tr with userBits := w.userBits, colour := w.colour }

section
variable {w : LtcWord} {tr : Tracker}

theorem takeWord_accepted
    (h : ((s.deck n).tracker.worded w).judge (wordSample w s.F) w.direction = (true, tr)) :
    s.takeWord n w = (s.onTracker n fun _ => tr).handOn n (wordSample w s.F) := by
  unfold Tracker.worded at h
  unfold State.takeWord
  simp only [h]

theorem takeWord_kept (h : ((s.deck n).tracker.worded w).judge (wordSample w s.F) w.direction = (false, tr)) :
    s.takeWord n w = s.onTracker n fun _ => tr := by
  unfold Tracker.worded at h
  unfold State.takeWord
  simp only [h]

theorem takeWord_spares (s : State) (n : Deck) (w : LtcWord) :
    SparesDecks (s.onTracker n fun _ => (((s.deck n).tracker.worded w).judge (wordSample w s.F) w.direction).2)
      (s.takeWord n w) := by
  cases h : ((s.deck n).tracker.worded w).judge (wordSample w s.F) w.direction with
  | mk accepted tr =>
    cases accepted with
    | true =>
      rw [takeWord_accepted h]
      exact handOn_spares _ n _
    | false =>
      rw [takeWord_kept h]
      exact .refl _

/-- A sample not made by the flywheel handed on, as R89 and R98 give it. -/
theorem handOn_eq {x : Sample} (h : x.source ≠ .flywheel) (s : State) (n : Deck) : s.handOn n x =
    ((s.evaluateChase n x).eachDeck fun m s =>
      if (s.deck m).chase.master = some (.deck n) ∧ (s.deck m).chase.state = .wait then
        s.onChase m fun c => { c with state := .seeking }
      else s).compareMarks n x := by
  have hmaster : (fun m (s : State) => s.masterSample n m) = fun m s =>
      if (s.deck m).chase.master = some (.deck n) ∧ (s.deck m).chase.state = .wait then
        s.onChase m fun c => { c with state := .seeking }
      else s := by
    funext m u
    unfold State.masterSample
    extract_lets c
    split
    · next hw => exact moveChase_unlocked (by rw [hw.2]; decide) (ChaseState.noConfusion)
    · rfl
  unfold State.handOn
  rw [hmaster]
  exact if_neg h

end

theorem exec_wordArrival (hs : s.ready) {bits : BitVec 80} {w : LtcWord} (hw : ltcWord s.standard bits = some w) :
    exec (.wordArrival n bits) s = .next (s.takeWord n w).settleDecks := by
  change execWordArrival n bits s = _
  rw [execWordArrival, command_of_ready hs]
  simp only [hw]

/-- A word accepted: the tracker set, the sample handed on, everything settled. -/
theorem exec_wordArrival_accepted (hs : s.ready) {bits : BitVec 80} {w : LtcWord} {x : Sample} {tr : Tracker}
    (hw : ltcWord s.standard bits = some w) (hx : x = wordSample w s.F)
    (h : ((s.deck n).tracker.worded w).judge x w.direction = (true, tr)) :
    exec (.wordArrival n bits) s = .next ((((s.onTracker n fun _ => tr).evaluateChase n x).eachDeck fun m s =>
      if (s.deck m).chase.master = some (.deck n) ∧ (s.deck m).chase.state = .wait then
        s.onChase m fun c => { c with state := .seeking }
      else s).compareMarks n x).settleDecks := by
  subst hx
  rw [exec_wordArrival hs hw, takeWord_accepted h, handOn_eq (by simp [wordSample])]

theorem acceptPlain_ltc (tr : Tracker) (h : List Sample) {x : Sample} (hx : x.source = .ltc) : tr.acceptPlain h x =
    { tr with
      latest := some x, base := some x, history := joinHistory h x, v := speedFrom (joinHistory h x) x tr.v
      kind := some x.kind, quality := .ltc, lastWord := some x.stamp, flywheelCount := 0, candidate := none
      limitDue := false } := by
  simp only [Tracker.acceptPlain, Tracker.accept, hx]

theorem jump_ltc (tr : Tracker) (c : Sample) {x : Sample} (hx : x.source = .ltc) (dir : Direction) : tr.jump c x dir =
    { tr with
      latest := some x, base := some x, history := joinHistory [c] x
      v := if dir = .forward then 1000 else -1000
      kind := some x.kind, quality := .ltc, lastWord := some x.stamp, flywheelCount := 0, candidate := none
      limitDue := false } := by
  cases dir with
  | forward => simp only [Tracker.jump, Tracker.accept, hx, if_true]
  | reverse => simp only [Tracker.jump, Tracker.accept, hx, reduceCtorEq, if_false]

theorem fieldDiff_self (f : FieldCount) : fieldDiff f f = 0 := by simp [fieldDiff, sdiff]

theorem speedFrom_eq (h : List Sample) (x : Sample) (v : Int) : speedFrom h x v =
    (h.find? fun y => 4 ≤ fieldDiff x.stamp y.stamp).elim v fun y => clamp (-50000) 50000
      (roundDiv (1000 * sdiff x.kind.dayFields x.pos y.pos) (fieldDiff x.stamp y.stamp).toNat) := by
  unfold speedFrom
  cases h.find? fun y => decide (4 ≤ fieldDiff x.stamp y.stamp) <;> rfl

/-- A fresh history gives no speed. -/
theorem speedFrom_one (x : Sample) (v : Int) : speedFrom [x] x v = v := by
  simp [speedFrom, fieldDiff_self]

/-- Settles O40. -/
theorem wordArrivalIsJudged : Obligations.WordArrivalIsJudged := by
  refine fun s n bits hs => ⟨fun hnone => ?_, fun w x hw hcand hx => ?_, fun w x hw hx handed hhanded =>
    ⟨fun c dir hcand hk hfit => ?_, fun b history hcand hb hk hfit hhist => ?_⟩⟩
  · change execWordArrival n bits s = _
    rw [execWordArrival, command_of_ready hs]
    simp only [hnone]
  · replace hx : x = wordSample w s.F := hx.trans (wordSample_eq w s.F).symm
    have hkind : x.kind = w.kind := by rw [hx]; rfl
    have hstamp : x.stamp = s.timeline.F := by rw [hx]; rfl
    have hj := judge_of_none (tr := (s.deck n).tracker.worded w) hcand x w.direction
    have hsp := (takeWord_spares s n w).trans (settleDecks_spares _)
    have hself := (hsp.tracker n).trans (congrArg DeckUnit.tracker (State.onDeck_deck_self _ _ _))
    have hbits := judge_bits ((s.deck n).tracker.worded w) x w.direction
    rw [← hx] at hself
    refine ⟨_, exec_wordArrival hs hw, ((Calm.refl s).takeWord n w).settleDecks.standing, fun m hm => ?_, ?_, ?_,
      fun hbase => ?_, fun b hb hk => ⟨fun hfit => ?_, fun hmiss hrest => ?_⟩⟩
    · exact (hsp.tracker m).trans (congrArg DeckUnit.tracker (State.onDeck_deck_ne _ _ hm))
    · rw [hself]; exact hbits.1
    · rw [hself]; exact hbits.2
    · have hjudge := hj.trans (judgeBase_of_fresh (by exact hbase))
      rw [acceptPlain_ltc _ _ (by rw [hx]; rfl)] at hjudge
      rw [hself, hjudge]
      exact ⟨rfl, rfl, rfl, congrArg some hkind, rfl, congrArg some hstamp, speedFrom_one x _, rfl⟩
    · have hmiss : ((s.deck n).tracker.worded w).miss b x ≤ 2 := by
        unfold Tracker.miss
        rw [hkind, hstamp]
        exact hfit
      have hjudge := hj.trans ((judgeBase_of_base (tr := (s.deck n).tracker.worded w) hb (hk.trans hkind.symm)).trans
        (if_pos hmiss))
      rw [acceptPlain_ltc _ _ (by rw [hx]; rfl)] at hjudge
      rw [hself, hjudge]
      exact ⟨rfl, rfl, rfl, rfl⟩
    · have hmiss' : ¬((s.deck n).tracker.worded w).miss b x ≤ 2 := by
        unfold Tracker.miss
        rw [hkind, hstamp]
        exact Nat.not_le.mpr hmiss
      have hjudge := hj.trans ((judgeBase_of_base (tr := (s.deck n).tracker.worded w) hb (hk.trans hkind.symm)).trans
        (if_neg hmiss'))
      rw [hx] at hjudge
      rw [takeWord_kept hjudge, ← hx]
      refine (settleDecks_of_rest ?_).trans (State.onDeck_congr rfl)
      unfold State.onTracker
      exact hrest.onDeck fun _ => rfl
  · replace hx : x = wordSample w s.F := hx.trans (wordSample_eq w s.F).symm
    have hkind : x.kind = w.kind := by rw [hx]; rfl
    have hstamp : x.stamp = s.timeline.F := by rw [hx]; rfl
    have hfits : fitsCandidate c x w.direction = true := by
      rw [← hstamp, ← hkind] at hfit
      unfold fitsCandidate
      rw [Bool.and_eq_true, beq_iff_eq, decide_eq_true_eq]
      refine ⟨hkind.trans hk.symm, ?_⟩
      cases hd : w.direction with
      | forward => rw [hd, if_pos rfl] at hfit; exact hfit
      | reverse => rw [hd, if_neg (by decide)] at hfit; exact hfit
    have hjudge := (judge_of_fitting (tr := (s.deck n).tracker.worded w) hcand hfits).trans
      (congrArg (Prod.mk true) (jump_ltc _ c (by rw [hx]; rfl) w.direction))
    rw [joinHistory_one, hkind, hstamp] at hjudge
    rw [exec_wordArrival_accepted hs hw hx hjudge, hhanded]
    rfl
  · replace hx : x = wordSample w s.F := hx.trans (wordSample_eq w s.F).symm
    have hkind : x.kind = w.kind := by rw [hx]; rfl
    have hstamp : x.stamp = s.timeline.F := by rw [hx]; rfl
    have hjoined : joinHistory (s.deck n).tracker.history x = history := by
      rw [hhist, ← hstamp]
      unfold joinHistory
      cases (s.deck n).tracker.history <;> rfl
    have hjudge := (judge_of_none (tr := (s.deck n).tracker.worded w) hcand x w.direction).trans
      ((judgeBase_of_base (tr := (s.deck n).tracker.worded w) hb (hk.trans hkind.symm)).trans (if_pos (by
        unfold Tracker.miss
        rw [hkind, hstamp]
        exact hfit)))
    rw [acceptPlain_ltc _ _ (by rw [hx]; rfl)] at hjudge
    change _ = (true, { (s.deck n).tracker.worded w with
      latest := some x, base := some x, history := joinHistory (s.deck n).tracker.history x
      v := speedFrom (joinHistory (s.deck n).tracker.history x) x (s.deck n).tracker.v
      kind := some x.kind, quality := .ltc, lastWord := some x.stamp, flywheelCount := 0, candidate := none
      limitDue := false }) at hjudge
    rw [hjoined, hkind, hstamp] at hjudge
    have hexec (speed : Int) (hspeed : speedFrom history x (s.deck n).tracker.v = speed) :
        exec (.wordArrival n bits) s = .next (handed { (s.deck n).tracker with
          userBits := w.userBits, colour := w.colour, latest := some x, base := some x, kind := some w.kind
          history := history, v := speed, quality := .ltc, lastWord := some s.timeline.F, flywheelCount := 0
          candidate := none, limitDue := false }) := by
      subst hspeed
      rw [exec_wordArrival_accepted hs hw hx hjudge, hhanded]
      rfl
    refine hexec _ ?_
    rw [speedFrom_eq, hkind, hstamp]
    cases history.find? fun y => decide (4 ≤ fieldDiff s.timeline.F y.stamp) <;> rfl

end Sys2Proof.Machine
end

section
/-!
PROOFS. The flywheel (R84, R85): entered after a gap, its samples, and its end beyond the limit.
-/

namespace Sys2Proof.Machine

variable {s t u v : State} {n m : Deck} {slot : Fin 64}

theorem row_of_idle {a : Act} (h : a.due s = false) : s.row a = s := if_neg (by rw [h]; exact Bool.false_ne_true)

theorem State.decksAtRest.onTracker (h : s.decksAtRest) (n : Deck) (f : Tracker → Tracker) :
    (s.onTracker n f).decksAtRest := by
  unfold State.onTracker
  exact h.onDeck fun _ => rfl

/-- The request of a frame boundary from a tracker that asks (R88, R48). -/
theorem boundaryRequest_of_asks (h : (s.deck n).tracker.asks = true) :
    s.boundaryRequest n = s.onArbiter n fun a =>
      { a with positionRequest := a.positionRequest || (s.inUse n && (s.deck n).link.state != .absent) } := by
  unfold State.boundaryRequest State.requestPosition
  rw [h, Bool.true_and]
  have hself : s.onArbiter n (fun a => { a with positionRequest := a.positionRequest || false }) = s :=
    State.onDeck_self (by simp)
  cases s.inUse n with
  | false =>
    simp only [Bool.false_eq_true, if_false, Bool.false_and]
    exact hself.symm
  | true =>
    by_cases hl : (s.deck n).link.state = .absent
    · simp only [hl, if_true, bne_self_eq_false, Bool.and_false]
      exact hself.symm
    · have hne : ((s.deck n).link.state != .absent) = true := bne_iff_ne.mpr hl
      simp only [if_neg hl, if_true, hne, Bool.and_true, Bool.or_true]

/-- A deck whose tracker has left FLYWHEEL, with the request of the same boundary. -/
def DeckUnit.flywheelLeft (used : Bool) (d : DeckUnit) : DeckUnit :=
  { d with
    tracker := { d.tracker with
      quality := if d.link.state = .up then .link else .none
      candidate := none
      limitDue := false }
    arbiter := { d.arbiter with
      positionRequest := d.arbiter.positionRequest || (used && d.link.state != .absent) } }

theorem leaveFlywheel_asks (tr : Tracker) (up : Bool) : (tr.leaveFlywheel up).asks = true := by cases up <;> rfl

theorem leaveFlywheel_eq (s : State) (n : Deck) : (s.onTracker n fun t => t.leaveFlywheel (s.linkUp n)) =
    s.onTracker n fun t =>
      { t with
        quality := if (s.deck n).link.state = .up then .link else .none
        candidate := none
        limitDue := false } := by
  refine State.onDeck_congr ?_
  simp [Tracker.leaveFlywheel, State.linkUp]

theorem onTracker_inUse (s : State) (k : Deck) (f : Tracker → Tracker) (n : Deck) :
    (s.onTracker k f).inUse n = s.inUse n := by
  unfold State.onTracker
  refine s.onDeck_inUse k ?_ n
  exact fun _ => rfl

theorem State.linksBusy.flywheelLeft (h : s.linksBusy) (n : Deck) (used : Bool) :
    (s.onDeck n (DeckUnit.flywheelLeft used)).linksBusy :=
  h.onDeck_kept n (f := DeckUnit.flywheelLeft used) fun _ => ⟨rfl, rfl⟩

theorem endFlywheel_eq (s : State) (n : Deck) : s.endFlywheel n = s.onDeck n (DeckUnit.flywheelLeft (s.inUse n)) := by
  have hasks : ((s.onTracker n fun t => t.leaveFlywheel (s.linkUp n)).deck n).tracker.asks = true := by
    rw [State.onTracker_deck_self]
    exact leaveFlywheel_asks _ _
  have huse : (s.onTracker n fun t => t.leaveFlywheel (s.linkUp n)).inUse n = s.inUse n := onTracker_inUse s n _ n
  unfold State.endFlywheel
  rw [boundaryRequest_of_asks hasks, huse, leaveFlywheel_eq, State.onTracker_deck_self]
  exact State.onDeck_onDeck s n _ _

/-- A sample of the flywheel handed on, with no chase running. -/
theorem handOn_flywheel {x : Sample} (hoff : ∀ m, (s.deck m).chase.state = .off) (hx : x.source = .flywheel) :
    s.handOn n x = s := by
  have heval : s.evaluateChase n x = s := if_pos (hoff n)
  have hmaster (m : Deck) : s.masterSample n m = s := if_neg (by rw [hoff m]; simp)
  unfold State.handOn
  rw [if_pos hx, heval]
  simp only [State.eachDeck, hmaster]

/-- The entry to FLYWHEEL (R84). -/
def Tracker.flying (tr : Tracker) : Tracker := { tr with quality := .flywheel, flywheelCount := 0, limitDue := false }

section
variable (hlim : (s.deck n).settings.flywheelLimit = 0)
include hlim

theorem enterFlywheel_zero_first (hf : s.timeline.field = .first) :
    s.enterFlywheel n = s.onDeck n (DeckUnit.flywheelLeft (s.inUse n)) := by
  unfold State.enterFlywheel
  rw [if_pos hlim, hf]
  exact endFlywheel_eq s n

theorem enterFlywheel_zero_second (hf : s.timeline.field = .second) :
    s.enterFlywheel n = s.onTracker n fun t => t.leaveFlywheel (s.linkUp n) := by
  unfold State.enterFlywheel
  rw [if_pos hlim, hf]
  rfl

end

section
variable (hlim : (s.deck n).settings.flywheelLimit ≠ 0)
include hlim

theorem enterFlywheel_first (hf : s.timeline.field = .first) :
    s.enterFlywheel n = (s.onTracker n Tracker.flying).flywheelBoundary n := by
  unfold State.enterFlywheel
  rw [if_neg hlim, hf]
  rfl

theorem enterFlywheel_second (hf : s.timeline.field = .second) : s.enterFlywheel n = s.onTracker n Tracker.flying := by
  unfold State.enterFlywheel
  rw [if_neg hlim, hf]
  rfl

end

/-- Settles O41. -/
theorem flywheelIsEnteredAndLeft : Obligations.FlywheelIsEnteredAndLeft := by
  refine ⟨fun s n w hs hrest hq hw => ?_, fun s n b count hq hb hcount hoff => ⟨fun hle => ?_, fun hlt => ?_⟩,
    fun s n hs => ⟨fun hd => ?_, fun hd hbusy => ?_⟩⟩
  · have hgap : (Act.gap n).due s = decide (3 ≤ fieldDiff s.timeline.F w) := by
      simp only [Act.due, Tracker.gap, hq, hw, State.F]
    have hexec : exec (.ltcGap n) s = .next (s.row (.gap n)) := command_of_ready hs fun s => s.row (.gap n)
    have hrow (hd : 3 ≤ fieldDiff s.timeline.F w) : exec (.ltcGap n) s = .next (s.enterFlywheel n).settleDecks :=
      hexec.trans (congrArg Host.Outcome.next (row_of_due (hgap.trans (decide_eq_true hd))))
    refine ⟨fun hd => ?_, fun hd hf => ⟨fun hlim => ?_, fun hlim => ?_⟩, fun hd hf hbusy => ⟨fun hlim => ?_,
      fun hlim => ?_⟩⟩
    · rw [hexec, row_of_idle (hgap.trans (decide_eq_false (not_le.mpr hd)))]
    · rw [hrow hd, enterFlywheel_second hlim hf, settleDecks_of_rest (hrest.onTracker n _)]
      rfl
    · rw [hrow hd, enterFlywheel_zero_second hlim hf, settleDecks_of_rest (hrest.onTracker n _), leaveFlywheel_eq]
    · rw [hrow hd, enterFlywheel_zero_first hlim hf, settleDecks_of_busy (hbusy.flywheelLeft n _)]
      rfl
    · rw [hrow hd, enterFlywheel_first hlim hf]
      rfl
  · have hp : (s.deck n).tracker.predict s.F = some (displacePos b.kind b.pos
        (roundDiv ((s.deck n).tracker.v * fieldDiff s.F b.stamp) 1000), b.kind) := by
      simp only [Tracker.predict, hb]
    unfold State.flywheelBoundary
    simp only [hq, if_true, ← hcount, if_pos hle, hp]
    refine handOn_flywheel (fun m => ?_) rfl
    by_cases hm : m = n
    · subst hm; rw [State.onTracker_deck_self]; exact hoff m
    · rw [State.onTracker_deck_ne _ _ hm]; exact hoff m
  · unfold State.flywheelBoundary
    simp only [hq, if_true, ← hcount, if_neg (Nat.not_le.mpr hlt)]
  · exact (command_of_ready hs fun s => s.row (.limit n)).trans (congrArg Host.Outcome.next (row_of_idle hd))
  · have hdue : (Act.limit n).due s = true := hd
    refine (command_of_ready hs fun s => s.row (.limit n)).trans
      (congrArg Host.Outcome.next ((row_of_due hdue).trans ?_))
    change (s.endFlywheel n).settleDecks = _
    rw [endFlywheel_eq, settleDecks_of_busy (hbusy.flywheelLeft n _)]
    rfl

end Sys2Proof.Machine
end

section
/-!
PROOFS. The GPI inputs (R170) and the writer of the log (R175 to R177).
-/

namespace Sys2Proof.Machine

variable {s t u v : State} {n m : Deck} {slot : Fin 64}

/-! ## An input that is no chord member -/

/-- The part with an input's level recorded. -/
def State.levelled (s : State) (l : Line) (high : Bool) : State :=
  { s with gpi := { s.gpi with levels := s.gpi.levels.set l high } }

section
variable {l : Line} {high : Bool}

theorem judgeChord_of_none {g : GpiUnit} (ha : g.armed = true) (hc : ∀ k, (g.inputs.get k).function ≠ .chord) :
    g.judgeChord = (false, g) := by
  have hclosed : g.chordClosed = false := by
    rw [← Bool.not_eq_true, GpiUnit.chordClosed_iff]
    rintro ⟨⟨k, hk⟩, -⟩
    exact hc k hk
  simp [GpiUnit.judgeChord, ha, hclosed]

theorem edge_gpi (s : State) (l : Line) (high : Bool) : (s.edge l high).gpi = s.gpi := by
  unfold State.edge
  split
  · rfl
  · unfold State.startRequest
    split <;> rfl
  · exact appendLog_keeps (g := State.gpi) (fun _ _ => rfl) (fun _ _ => rfl) (fun _ _ => rfl) s _
  · rfl

theorem exec_inputChange (hs : s.ready) (l : Line) (high : Bool) :
    exec (.gpiInputChange l high) s = .next (s.inputChange l high).settleDecks :=
  command_of_ready hs fun s => (s.inputChange l high).settleDecks

section
variable (hl : s.gpi.levels.get l ≠ high) (ha : s.gpi.armed = true) (hc : ∀ k, (s.gpi.inputs.get k).function ≠ .chord)
include hl ha hc

/-- With no chord member a level change is its edge's act, if it is one (R170). -/
theorem inputChange_of_unchorded :
    s.inputChange l high =
      if s.gpi.isEdge l high = true then (s.levelled l high).edge l high else s.levelled l high := by
  unfold State.inputChange
  rw [if_neg hl]
  extract_lets a b
  have hb : b = if s.gpi.isEdge l high = true then (s.levelled l high).edge l high else s.levelled l high := rfl
  have hg : b.gpi = (s.levelled l high).gpi := by
    rw [hb]
    split
    · exact edge_gpi _ l high
    · rfl
  have hj := judgeChord_of_none (g := b.gpi) (by rw [hg]; exact ha) (by rw [hg]; exact hc)
  simp only [hj]
  exact hb

end

theorem State.decksAtRest.levelled (h : s.decksAtRest) (l : Line) (high : Bool) : (s.levelled l high).decksAtRest :=
  h.congr rfl rfl rfl

end

/-- Settles O44. -/
theorem inputChangeActsByFunction : Obligations.InputChangeActsByFunction := by
  intro s l high hs
  refine ⟨fun hl hrest => ?_, fun hl hrest ha hc => ⟨fun hnone => ?_, fun hf hedge hst ⟨ev, hw, hk⟩ => ?_⟩⟩
  · rw [exec_inputChange hs, State.inputChange, if_pos hl, settleDecks_of_rest hrest]
  · have hact : (if s.gpi.isEdge l high = true then (s.levelled l high).edge l high else s.levelled l high) =
        s.levelled l high := by
      rcases hnone with hf | he
      · have hedge : (s.levelled l high).edge l high = s.levelled l high := by
          have hf' : ((s.levelled l high).gpi.inputs.get l).function = .none := hf
          simp only [State.edge, hf']
        rw [hedge, ite_self]
      · have hno : s.gpi.isEdge l high = false := by
          unfold GpiUnit.isEdge
          rw [he]
          cases high <;> rfl
        rw [hno]
        rfl
    rw [exec_inputChange hs, inputChange_of_unchorded hl ha hc, hact, settleDecks_of_rest (hrest.levelled l high)]
    rfl
  · have hyes : s.gpi.isEdge l high = true := by
      unfold GpiUnit.isEdge
      rcases hedge with h | h
      · rw [h]
      · rw [h]
        cases high <;> rfl
    have hf' : ((s.levelled l high).gpi.inputs.get l).function = .start := hf
    have hact : (s.levelled l high).edge l high =
        (s.levelled l high).onEngine fun e => { e with startPending := true } := by
      simp only [State.edge, hf']
      refine if_pos ⟨hst, ?_⟩
      change s.engine.working.any _ = true
      simp [hw, hk]
    rw [exec_inputChange hs, inputChange_of_unchorded hl ha hc, if_pos hyes, hact,
      settleDecks_of_rest ((hrest.levelled l high).onEngine rfl rfl rfl (.inl rfl))]
    rfl

/-! ## The writer of the log -/

section
variable {e : LogEntry} {next : Nat}

theorem length_entryBytes (e : LogEntry) (q : Half) : (e.bytes q).length = 16 := by
  simp [LogEntry.bytes, addrBytes]

/-- The writer with one entry more (R175). -/
def LogWriter.wrote (l : LogWriter) (next : Nat) : LogWriter :=
  { l with writeIndex := next, sequence := l.sequence + 1 }

/-- The part with an entry in its slot and the new index in the header (R175). -/
def State.entryPlaced (s : State) (e : LogEntry) (next : Nat) : State :=
  { s with
    mem := (s.mem.store (s.log.slot s.log.writeIndex) (e.bytes s.log.sequence)).store (s.log.header + 2) (half next)
    log := s.log.wrote next }

theorem placeEntry_of_limit (hn : next = (s.log.writeIndex + 1) % s.log.count) (hw : s.log.writeIndex < s.log.count)
    (hl : s.log.header + 16 + 16 * s.log.count ≤ s.iface.limit) (e : LogEntry) :
    s.placeEntry e = (s.entryPlaced e next).judgeThreshold := by
  subst hn
  have hall := writeAll_of_limit (s := s)
    (ws := [(s.log.slot s.log.writeIndex, e.bytes s.log.sequence),
      (s.log.header + 2, half ((s.log.writeIndex + 1) % s.log.count))]) (by
    simp only [List.forall_mem_cons, length_entryBytes, length_half]
    refine ⟨?_, ?_, by simp⟩
    · unfold LogWriter.slot
      unfold LogWriter.header at hl
      omega
    · omega)
  unfold State.placeEntry
  extract_lets k
  simp only [k, hall]
  rfl

theorem judgeThreshold_of_below (h : s.log.threshold = 0 ∨ s.log.armed = false ∨ s.log.fill < s.log.threshold) :
    s.judgeThreshold = s := by
  refine if_neg ?_
  rintro ⟨h0, ha, hf⟩
  rcases h with h | h | h
  · exact h0 h
  · rw [ha] at h; cases h
  · omega

theorem judgeThreshold_of_reached (h0 : s.log.threshold ≠ 0) (ha : s.log.armed = true)
    (hf : s.log.threshold ≤ s.log.fill) :
    s.judgeThreshold = (s.onLog fun l => { l with armed := false }).raise .log := if_pos ⟨h0, ha, hf⟩

theorem appendLog_of_off (h : s.log.count = 0) (e : LogEntry) : s.appendLog e = s := if_pos h

theorem appendLog_of_room (h : s.log.count ≠ 0) (hf : (s.log.writeIndex + 1) % s.log.count ≠ s.log.consumed)
    (e : LogEntry) : s.appendLog e = s.placeEntry e := by
  have hfull : ¬s.log.full = true := by simpa [LogWriter.full] using hf
  unfold State.appendLog
  rw [if_neg h, if_neg hfull]

theorem appendLog_of_full (h : s.log.count ≠ 0) (hf : (s.log.writeIndex + 1) % s.log.count = s.log.consumed)
    (e : LogEntry) :
    s.appendLog e = if s.rereadLog.log.full = true then s.rereadLog.dropEntry else s.rereadLog.placeEntry e := by
  have hfull : s.log.full = true := by simpa [LogWriter.full] using hf
  unfold State.appendLog
  rw [if_neg h, if_pos hfull]

theorem dropEntry_of_limit (hl : s.log.header + 5 ≤ s.iface.limit) :
    s.dropEntry = State.raise { s with mem := s.mem.store (s.log.header + 4) [1] } .log := by
  unfold State.dropEntry
  rw [writeMem_of_limit (by rw [List.length_singleton]; omega)]
  rfl

end

/-- The entry of a CAPTURE edge with no capture deck (R178). -/
theorem gpiEntry_bytes {l : Line} {high : Bool} (h : s.gpi.captureDeck = none) (q : Half) :
    (s.gpiEntry l high).bytes q = half q.toNat ++ [2, 0xFF] ++ wordOfField s.timeline.F ++
      [0, 0, 0, 0, 0, 0, byte l.num, if high = true then 0 else 1] := by
  have hedge : byte (if high = true then 0 else 1) = if high = true then 0 else 1 := by cases high <;> rfl
  simp only [State.gpiEntry, h, LogEntry.bytes, addrBytes, List.append_assoc, hedge]
  rfl

/-- Settles O45. -/
theorem captureEdgeIsLogged : Obligations.CaptureEdgeIsLogged := by
  intro s l high t consumed hs hrest hl ha hc hf hboth hdeck ht
  have hyes : s.gpi.isEdge l high = true := by
    unfold GpiUnit.isEdge
    rw [hboth]
  have hf' : ((s.levelled l high).gpi.inputs.get l).function = .capture := hf
  have hact : (s.levelled l high).edge l high =
      (s.levelled l high).appendLog ((s.levelled l high).gpiEntry l high) := by
    simp only [State.edge, hf']
  have hexec := exec_inputChange hs l high
  rw [inputChange_of_unchorded hl ha hc, if_pos hyes, hact] at hexec
  have htl : s.levelled l high = t := ht.symm
  rw [htl] at hexec
  have hbytes (q : Half) := gpiEntry_bytes (s := t) (l := l) (high := high) (by rw [ht]; exact hdeck) q
  have hdone {w : State} (hw : t.appendLog (t.gpiEntry l high) = w) (hd : w.decks = s.decks)
      (he : w.engine = s.engine) (hF : w.timeline = s.timeline) : exec (.gpiInputChange l high) s = .next w := by
    rw [hexec, hw, settleDecks_of_rest (hrest.congr hd he (by rw [hF]))]
  have hlog : t.log = s.log := by rw [ht]
  have hmem : t.mem = s.mem := by rw [ht]
  have hiface : t.iface = s.iface := by rw [ht]
  have htime : t.timeline = s.timeline := by rw [ht]
  have hdecks : t.decks = s.decks := by rw [ht]
  have hengine : t.engine = s.engine := by rw [ht]
  generalize t.gpiEntry l high = entry at *
  clear hexec hact hyes hf' ht htl
  refine ⟨fun hoff => ?_, fun h2 hwi hlim written next fill hnext hfill hwritten => ?_⟩
  · exact hdone (appendLog_of_off (by rw [hlog]; exact hoff) _) hdecks hengine htime
  have hcount : t.log.count ≠ 0 := by rw [hlog]; omega
  have hlim' : 16 * t.log.base + 16 + 16 * t.log.count ≤ t.iface.limit := by rw [hlog, hiface]; exact hlim
  have hnext' : next = (t.log.writeIndex + 1) % t.log.count := by rw [hlog]; exact hnext
  have hwi' : t.log.writeIndex < t.log.count := by rw [hlog]; exact hwi
  have hdecks' : written.decks = s.decks := by rw [hwritten]; exact hdecks
  have hengine' : written.engine = s.engine := by rw [hwritten]; exact hengine
  have htime' : written.timeline = s.timeline := by rw [hwritten]; exact htime
  have hfill' : written.log.fill = fill := by rw [hwritten, hfill]; rfl
  have hthreshold : written.log.threshold = s.log.threshold := by rw [hwritten]
  have harmed : written.log.armed = s.log.armed := by rw [hwritten]
  refine ⟨fun hroom hcons => ?_, fun hfull h0 hcons => ?_⟩
  · have hplaced : t.entryPlaced entry next = written := by
      rw [hwritten, hcons, State.entryPlaced, hbytes, hlog, hmem, htime]
      rfl
    have happend : t.appendLog entry = written.judgeThreshold := by
      rw [appendLog_of_room hcount (by rw [← hnext', hlog]; exact hroom),
        placeEntry_of_limit hnext' hwi' hlim', hplaced]
    refine ⟨fun hno => ?_, fun h0 harm hreach => ?_⟩
    · refine hdone (happend.trans (judgeThreshold_of_below ?_)) hdecks' hengine' htime'
      rw [hthreshold, harmed, hfill']
      exact hno
    · refine hdone (happend.trans (judgeThreshold_of_reached ?_ ?_ ?_)) hdecks' hengine' htime'
      · rw [hthreshold]; exact h0
      · rw [harmed]; exact harm
      · rw [hthreshold, hfill']; exact hreach
  · have hreread : t.rereadLog = { t with log := { s.log with consumed := consumed } } := by
      have hl : (s.log.reread (halfAt (s.mem.load (16 * s.log.base) 2) 0)).rearm =
          { s.log with consumed := consumed } := by
        refine (if_neg fun h => h.1 h0).trans ?_
        rw [hcons]
        rfl
      rw [rereadLog_of_limit hcount (by omega), hlog, hmem, hl]
    have hfullIff : t.rereadLog.log.full = (next == consumed) := by
      rw [hreread, hnext]
      rfl
    have happend := appendLog_of_full hcount (by rw [← hnext', hlog]; exact hfull) entry
    rw [hfullIff, hreread] at happend
    refine ⟨fun hne => ?_, fun heq => ?_⟩
    · rw [if_neg (by simpa using hne), placeEntry_of_limit (s := { t with log := { s.log with consumed := consumed } })
        hnext hwi (by rw [← hiface] at hlim; exact hlim)] at happend
      have hplaced : State.entryPlaced { t with log := { s.log with consumed := consumed } } entry next = written := by
        rw [hwritten, State.entryPlaced, hbytes, hmem, htime]
        rfl
      rw [hplaced] at happend
      exact hdone (happend.trans (judgeThreshold_of_below (.inl (hthreshold.trans h0)))) hdecks' hengine' htime'
    · rw [if_pos (by simpa using heq), dropEntry_of_limit (s := { t with log := { s.log with consumed := consumed } })
        (by
          rw [← hiface] at hlim
          change 16 * s.log.base + 5 ≤ t.iface.limit
          omega), hmem] at happend
      exact hdone happend hdecks hengine htime

end Sys2Proof.Machine
end

section
/-!
PROOFS. The triggers and pulses (R142, R173) and the mark table (R165 to R168).
-/

namespace Sys2Proof.Machine

variable {s t u v : State} {n m : Deck} {slot : Fin 64}

/-! ## Pulses -/

/-- The GPI unit with a pulse made on a line whose function allows it (R173). -/
def GpiUnit.pulsed (g : GpiUnit) (fn : OutputFunction) (l : Line) (finish : FieldCount) : GpiUnit :=
  { g with pulses := if g.outputs.get l = fn then g.pulses.set l (some finish) else g.pulses }

theorem requestPulse_eq (s : State) (fn : OutputFunction) (l : Line) (w : Nat) :
    s.requestPulse fn l w =
      { s with gpi := s.gpi.pulsed fn l (laterEnd (s.gpi.pulses.get l) (fieldAdd s.F w)) } := by
  unfold State.requestPulse GpiUnit.pulsed
  split
  · rfl
  · rfl

theorem laterEnd_eq (running : Option FieldCount) (f : FieldCount) :
    laterEnd running f = running.elim f fun old => if 0 < fieldDiff f old then f else old := by
  cases running <;> rfl

/-! ## A mark compared -/

section
variable {k : Mark} {x : Sample} {b : Nat} {d : Option Int}

theorem passes_iff (f : MarkDirection) (d : Option Int) : f.passes d = true ↔
    f = .either ∨ (f = .forward ∧ ∃ y, d = some y ∧ 0 < y) ∨ (f = .reverse ∧ ∃ y, d = some y ∧ y < 0) := by
  cases f <;> cases d <;> simp [MarkDirection.passes]

theorem matches_iff (k : Mark) (a : Addr) : k.matches a = true ↔
    (k.maskHours = true ∨ k.address.hh = a.hh) ∧ (k.maskMinutes = true ∨ k.address.mm = a.mm) ∧
      (k.maskSeconds = true ∨ k.address.ss = a.ss) ∧ (k.maskFrames = true ∨ k.address.ff = a.ff) := by
  simp [Mark.matches, and_assoc]

/-- A difference is the difference of its terms, but for whole days. -/
theorem sdiff_eq_add (D : Nat) (a b : Int) : ∃ q : Int, sdiff D a b = a - b + D * q := by
  have h := Int.emod_add_mul_ediv (a - b) D
  unfold sdiff
  extract_lets e
  split
  · exact ⟨-((a - b) / D), by rw [Int.mul_neg]; omega⟩
  · exact ⟨-((a - b) / D) - 1, by rw [Int.mul_sub, Int.mul_neg]; omega⟩

theorem crossed_iff {p : Nat} {y : Int} (hp : y = sdiff x.kind.day b p) : k.crossed x.kind b (some y) = true ↔
    k.direction.passes (some y) = true ∧ 2 * y.natAbs < x.kind.day ∧
      ((0 < y ∧ 1 ≤ ((frameOf k.kind k.address : Int) - p) % x.kind.day ∧
          ((frameOf k.kind k.address : Int) - p) % x.kind.day ≤ y) ∨
        (y < 0 ∧ 1 ≤ ((p : Int) - frameOf k.kind k.address) % x.kind.day ∧
          ((p : Int) - frameOf k.kind k.address) % x.kind.day ≤ -y)) := by
  obtain ⟨q, hq⟩ := sdiff_eq_add x.kind.day b p
  rw [← hp] at hq
  have hfore (c : Int) : (c - ((b : Int) - y)) % x.kind.day = (c - p) % x.kind.day := by
    rw [show c - ((b : Int) - y) = c - p + x.kind.day * q by rw [hq]; ring, Int.add_mul_emod_self_left]
  have hback (c : Int) : ((b : Int) - y - c) % x.kind.day = (p - c) % x.kind.day := by
    rw [show (b : Int) - y - c = p - c + x.kind.day * (-q) by rw [hq]; ring, Int.add_mul_emod_self_left]
  have hnot : 0 < y → ¬y < 0 := by omega
  simp only [Mark.crossed, hfore, hback, Bool.and_eq_true, decide_eq_true_eq, and_assoc]
  by_cases h0 : 0 < y
  · simp [h0, hnot h0, and_left_comm]
  · by_cases h1 : y < 0
    · simp [h0, h1, and_left_comm]
    · simp [h0, h1]

theorem motion_eq_some {prev : Option (Nat × Kind)} {y : Int} :
    motion prev x.kind b = some y ↔ ∃ p, prev = some (p, x.kind) ∧ y = sdiff x.kind.day b p := by
  unfold motion
  split
  · simp
  · next p j =>
    by_cases hj : j = x.kind
    · subst hj
      simp [eq_comm]
    · simp [hj]

/-- When an EQUAL entry fires (R166). -/
theorem fires_equal (hc : k.crossing = false) : k.fires x.kind b d = true ↔
    k.kind = x.kind ∧ k.matches (addrOf x.kind b) = true ∧ k.matching = false ∧ k.direction.passes d = true := by
  simp [Mark.fires, hc, and_assoc]

/-- When a CROSSING entry fires (R167). -/
theorem fires_crossing (hc : k.crossing = true) {prev : Option (Nat × Kind)} (hd : d = motion prev x.kind b) :
    k.fires x.kind b d = true ↔ k.kind = x.kind ∧ k.direction.passes d = true ∧
      ∃ p y, prev = some (p, x.kind) ∧ d = some y ∧ 2 * y.natAbs < x.kind.day ∧
        ((0 < y ∧ 1 ≤ ((frameOf k.kind k.address : Int) - p) % x.kind.day ∧
            ((frameOf k.kind k.address : Int) - p) % x.kind.day ≤ y) ∨
          (y < 0 ∧ 1 ≤ ((p : Int) - frameOf k.kind k.address) % x.kind.day ∧
            ((p : Int) - frameOf k.kind k.address) % x.kind.day ≤ -y)) := by
  have hfires : k.fires x.kind b d = true ↔ k.kind = x.kind ∧ k.crossed x.kind b d = true := by
    simp [Mark.fires, hc]
  rw [hfires]
  refine and_congr_right fun _ => ?_
  cases hy : d with
  | none => simp [Mark.crossed]
  | some y =>
    obtain ⟨p, hprev, hsd⟩ := motion_eq_some.mp (hd.symm.trans hy)
    rw [crossed_iff hsd]
    refine and_congr_right fun _ => ⟨fun h => ⟨p, y, hprev, rfl, h⟩, ?_⟩
    rintro ⟨p', y', hprev', hy', h⟩
    obtain rfl := Option.some.inj hy'
    obtain ⟨rfl, -⟩ := Prod.mk.inj (Option.some.inj (hprev.symm.trans hprev'))
    exact h

/-- The edge state after a sample (R165, R166). -/
theorem edgeAfter_eq (k : Mark) (x : Sample) (b : Nat) : k.edgeAfter x.kind b =
    if k.crossing = true then k
    else { k with matching := decide (k.kind = x.kind ∧ k.matches (addrOf x.kind b) = true) } := by
  unfold Mark.edgeAfter
  split
  · rfl
  · simp [beq_eq_decide, Bool.decide_and]

/-! ## A mark fired -/

/-- The entry a mark hands to the log (R168). -/
def State.markEntry (s : State) (i : Nat) (n : Deck) (x : Sample) : LogEntry :=
  ⟨1, some n, x.stamp, addrOf x.kind (x.pos / 2), some x.kind, (s.deck n).tracker.quality, i, 0⟩

/-- The log's share of a mark fired (R168). -/
def State.markLogged (s : State) (i : Nat) (k : Mark) (x : Sample) : State :=
  if k.capture = true then s.appendLog (s.markEntry i k.deck x) else s

theorem markLogged_keeps {α : Type} {g : State → α} (hm : ∀ u w, g { u with mem := w } = g u)
    (hi : ∀ u f, g (State.onIface u f) = g u) (hl : ∀ u f, g (State.onLog u f) = g u) (s : State) (i : Nat) :
    g (s.markLogged i k x) = g s := by
  unfold State.markLogged
  split
  · exact appendLog_keeps hm hi hl s _
  · rfl

theorem markLogged_gpi (s : State) (i : Nat) : (s.markLogged i k x).gpi = s.gpi :=
  markLogged_keeps (g := State.gpi) (fun _ _ => rfl) (fun _ _ => rfl) (fun _ _ => rfl) s i

theorem markLogged_marks (s : State) (i : Nat) : (s.markLogged i k x).marks = s.marks :=
  markLogged_keeps (g := State.marks) (fun _ _ => rfl) (fun _ _ => rfl) (fun _ _ => rfl) s i

/-- A mark fired: its entry logged, its pulse made, its cause raised, the entry disabled, as its actions say (R168). -/
def State.markFired (s : State) (i : Nat) (k : Mark) (finish : FieldCount) (w : State) : State :=
  { w with
    gpi := if k.pulse = true then s.gpi.pulsed .mark k.line finish else s.gpi
    iface := if k.notice = true then { w.iface with pending := w.iface.pending.set .mark true } else w.iface
    marks := if k.once = true
      then { s.marks with entries := s.marks.entries.modify i fun k => { k with enabled := false } } else s.marks }

theorem fireMark_eq (s : State) (i : Nat) (k : Mark) (x : Sample) :
    s.fireMark i k x = s.markFired i k (laterEnd (s.gpi.pulses.get k.line) (fieldAdd s.F k.width))
      (s.markLogged i k x) := by
  have hg := markLogged_gpi (k := k) (x := x) s i
  have hk := markLogged_marks (k := k) (x := x) s i
  have hF : (s.markLogged i k x).F = s.F :=
    markLogged_keeps (g := State.F) (fun _ _ => rfl) (fun _ _ => rfl) (fun _ _ => rfl) s i
  unfold State.fireMark
  change (let b := if k.pulse then (s.markLogged i k x).requestPulse .mark k.line k.width else s.markLogged i k x
    let c := if k.notice then b.raise .mark else b
    if k.once then
      c.onMarks fun u => { u with entries := u.entries.modify i fun m => { m with enabled := false } }
    else c) = _
  rw [requestPulse_eq, hg, hF]
  generalize s.markLogged i k x = w at *
  unfold State.markFired
  rw [← hg, ← hk]
  cases k.pulse <;> cases k.notice <;> cases k.once <;> rfl

/-! ## The table compared with one enabled entry -/

theorem compareMark_of_idle {j : Nat}
    (h : ∀ k, s.marks.entries[j]? = some k → k.enabled = false ∨ k.deck ≠ n) : s.compareMark n x d j = s := by
  unfold State.compareMark
  extract_lets k
  refine if_neg ?_
  rintro ⟨he, hd⟩
  unfold k at he hd
  rw [List.getD_eq_getElem?_getD] at he hd
  cases hk : s.marks.entries[j]? with
  | none => rw [hk] at he; simp [Mark.disabled] at he
  | some k =>
    rw [hk] at he hd
    rcases h k hk with h | h
    · simp [h] at he
    · exact h hd

/-- The entry compared, its edge state moved. -/
def State.edgeMoved (s : State) (i : Nat) (e : Mark) : State :=
  s.onMarks fun u => { u with entries := u.entries.set i e }

theorem modify_of_getElem? {α : Type} {l : List α} {i : Nat} {a : α} (h : l[i]? = some a) (f : α → α) :
    l.modify i f = l.set i (f a) := by
  rw [List.modify_eq_set_getElem?, h]
  rfl

theorem compareMark_of_entry {i : Nat} (hk : s.marks.entries[i]? = some k) (he : k.enabled = true) (hd : k.deck = n) :
    s.compareMark n x d i =
      if k.fires x.kind (x.pos / 2) d = true
      then (s.edgeMoved i (k.edgeAfter x.kind (x.pos / 2))).fireMark i k x
      else s.edgeMoved i (k.edgeAfter x.kind (x.pos / 2)) := by
  have hget : s.marks.entries.getD i .disabled = k := by rw [List.getD_eq_getElem?_getD, hk]; rfl
  have hmod : (s.onMarks fun u => { u with entries := u.entries.modify i fun m => m.edgeAfter x.kind (x.pos / 2) }) =
      s.edgeMoved i (k.edgeAfter x.kind (x.pos / 2)) := by
    unfold State.edgeMoved State.onMarks
    dsimp only
    rw [modify_of_getElem? hk]
  unfold State.compareMark
  extract_lets k' a
  have hk' : k' = k := hget
  clear_value k'
  subst hk'
  rw [if_pos ⟨he, hd⟩]
  have ha : a = s.edgeMoved i (k'.edgeAfter x.kind (x.pos / 2)) := hmod
  rw [ha]

/-- What an entry leaves of the table, whether or not it fires: the others stand. -/
theorem compareMark_others {i j : Nat} (hj : j ≠ i) (hk : s.marks.entries[i]? = some k) (he : k.enabled = true)
    (hd : k.deck = n) : (s.compareMark n x d i).marks.entries[j]? = s.marks.entries[j]? := by
  have hset (e : Mark) : (s.edgeMoved i e).marks.entries[j]? = s.marks.entries[j]? := List.getElem?_set_ne hj.symm
  rw [compareMark_of_entry hk he hd]
  split
  · rw [fireMark_eq]
    unfold State.markFired
    dsimp only
    split
    · exact (List.getElem?_modify_ne _ _ hj.symm).trans (hset _)
    · exact hset _
  · exact hset _

/-- With one enabled entry of the deck the table's comparison is that entry's (R165). -/
theorem compareMarks_of_one {i : Nat} (hi : i < 16) (hk : s.marks.entries[i]? = some k) (hen : k.enabled = true)
    (hd : k.deck = n) (hothers : ∀ j k, j ≠ i → s.marks.entries[j]? = some k → k.enabled = false ∨ k.deck ≠ n) :
    s.compareMarks n x = (s.compareMark n x (motion (s.marks.previous.get n) x.kind (x.pos / 2)) i).onMarks fun u =>
      { u with previous := u.previous.set n (some (x.pos / 2, x.kind)) } := by
  generalize he : motion (s.marks.previous.get n) x.kind (x.pos / 2) = e
  have hbefore (j : Nat) (hj : j ≠ i) : s.compareMark n x e j = s :=
    compareMark_of_idle fun k hk => hothers j k hj hk
  have hafter (j : Nat) (hj : j ≠ i) : (s.compareMark n x e i).compareMark n x e j = s.compareMark n x e i :=
    compareMark_of_idle fun l hl => hothers j l hj ((compareMark_others hj hk hen hd).symm.trans hl)
  have hfold := foldl_of_one (f := fun s j => s.compareMark n x e j) (s := s) List.nodup_range (List.mem_range.mpr hi)
    rfl hbefore hafter
  unfold State.compareMarks
  rw [he]
  dsimp only
  rw [hfold]

end

/-- The whole of a mark fired, the previous sample moved on (R168). -/
theorem markFired_eq {i : Nat} {edge : Mark} {w : State} (hi : i < s.marks.entries.length) (he : edge.enabled = true)
    (hg : w.gpi = s.gpi) (k : Mark) (finish : FieldCount) (n : Deck) (q : Option (Nat × Kind)) :
    (((s.edgeMoved i edge).markFired i k finish w).onMarks fun u => { u with previous := u.previous.set n q }) =
      { w with
        gpi := { w.gpi with pulses := if k.pulse = true ∧ s.gpi.outputs.get k.line = .mark
          then (s.gpi.pulses.set k.line (some finish)) else s.gpi.pulses }
        iface := { w.iface with pending :=
          if k.notice = true then (w.iface.pending.set .mark true) else w.iface.pending }
        marks := ⟨s.marks.entries.set i { edge with enabled := !k.once }, s.marks.previous.set n q⟩ } := by
  have hgpi : (if k.pulse = true then s.gpi.pulsed .mark k.line finish else s.gpi) =
      { w.gpi with pulses := if k.pulse = true ∧ s.gpi.outputs.get k.line = .mark
        then (s.gpi.pulses.set k.line (some finish)) else s.gpi.pulses } := by
    rw [hg]
    unfold GpiUnit.pulsed
    cases k.pulse <;> simp
  have hiface : (if k.notice = true then { w.iface with pending := w.iface.pending.set .mark true } else w.iface) =
      { w.iface with pending :=
        if k.notice = true then (w.iface.pending.set .mark true) else w.iface.pending } := by
    cases k.notice <;> rfl
  have hmod : (s.marks.entries.set i edge).modify i (fun k => { k with enabled := false }) =
      s.marks.entries.set i { edge with enabled := false } := by
    rw [modify_of_getElem? (List.getElem?_set_self hi), List.set_set]
  have hmarks : (if k.once = true
      then { (s.edgeMoved i edge).marks with
        entries := (s.edgeMoved i edge).marks.entries.modify i fun k => { k with enabled := false } }
      else (s.edgeMoved i edge).marks).entries = s.marks.entries.set i { edge with enabled := !k.once } := by
    cases k.once with
    | true => exact hmod
    | false =>
      have : edge = { edge with enabled := true } := by rw [← he]
      exact congrArg (s.marks.entries.set i) this
  have hprevious : ((s.edgeMoved i edge).markFired i k finish w).marks.previous = s.marks.previous := by
    unfold State.markFired
    dsimp only
    split <;> rfl
  unfold State.onMarks
  rw [← hgpi, ← hiface, ← hmarks]
  dsimp only
  rw [hprevious]
  rfl

/-! ## The obligation -/

theorem trigger_of_due {i : Fin 4} {x : Trigger} (hs : s.ready) (he : s.noEarlierAct (.trigger i))
    (hr : s.engine.state.rolled = true) (hx : s.engine.triggers[i.val]? = some x) (hp : x.status = .planned)
    (hF : x.field = s.timeline.F) :
    exec (.trigger i) s = .next (s.fireTrigger i.val x).settleDecks := by
  have hdue : (Act.trigger i).due s = true := by simp [Act.due, hr, hx, hp, hF, State.F]
  have hrun : (Act.trigger i).run s = s.fireTrigger i.val x := by simp only [Act.run, hx]
  rw [← hrun]
  exact command_engineRow hs hdue he

theorem exec_pulseEnd (hs : s.ready) (l : Line) : exec (.pulseEnd l) s =
    .next (if (Act.pulse l).due s then (Act.pulse l).run s else s) :=
  command_of_ready hs fun s => if (Act.pulse l).due s then (Act.pulse l).run s else s

theorem fireTrigger_rest {i : Nat} {x : Trigger} (h : s.decksAtRest) : (s.fireTrigger i x).decksAtRest := by
  unfold State.fireTrigger
  rw [requestPulse_eq]
  refine State.decksAtRest.onEngine ?_ rfl rfl rfl (.inl rfl)
  exact h.congr rfl rfl rfl

/-- Settles O46. -/
theorem triggersAndMarksAct : Obligations.TriggersAndMarksAct := by
  refine ⟨fun s i x hs hrest he hr hx hp hF => ⟨fun hout => ?_, fun hout => ?_⟩,
    fun s l hs => ⟨fun h => ?_, fun h => ?_⟩, ?_⟩
  · rw [trigger_of_due hs he hr hx hp hF, settleDecks_of_rest (fireTrigger_rest hrest)]
    unfold State.fireTrigger
    rw [requestPulse_eq, GpiUnit.pulsed, if_pos hout, laterEnd_eq]
    cases s.gpi.pulses.get x.line <;> rfl
  · rw [trigger_of_due hs he hr hx hp hF, settleDecks_of_rest (fireTrigger_rest hrest)]
    unfold State.fireTrigger
    rw [requestPulse_eq, GpiUnit.pulsed, if_neg hout]
    rfl
  · exact (exec_pulseEnd hs l).trans (congrArg Host.Outcome.next (if_pos (beq_iff_eq.mpr h)))
  · exact (exec_pulseEnd hs l).trans (congrArg Host.Outcome.next (if_neg (fun k => h (beq_iff_eq.mp k))))
  · intro s n x i b a k d passes equal fires fired finish hk hen hdeck hlen hothers hb ha hd hpasses hequal hfe hfc
      hfinish edge he1 he2 he3 hfired
    have hi : i < 16 := hlen ▸ (List.getElem?_eq_some_iff.mp hk).1
    have hd' : d = motion (s.marks.previous.get n) x.kind b := by
      rw [hd]
      unfold motion
      cases s.marks.previous.get n <;> rfl
    have hfin : finish = laterEnd (s.gpi.pulses.get k.line) (fieldAdd s.F k.width) := by
      rw [hfinish, laterEnd_eq]
      cases s.gpi.pulses.get k.line <;> rfl
    have hpass : k.direction.passes d = true ↔ passes := (passes_iff _ _).trans hpasses.symm
    have heq : k.matches (addrOf x.kind b) = true ↔ equal := by rw [← ha]; exact (matches_iff _ _).trans hequal.symm
    have hedge : k.edgeAfter x.kind b = edge := by
      rw [edgeAfter_eq]
      cases hc : k.crossing with
      | true => exact (he1 hc).symm
      | false =>
        rw [if_neg (by decide)]
        by_cases hm : k.kind = x.kind ∧ k.matches (addrOf x.kind b) = true
        · rw [he2 hc (hm.imp_right heq.mp), decide_eq_true hm, hc]
        · rw [he3 hc (fun h => hm (h.imp_right heq.mpr)), decide_eq_false hm, hc]
    have hfires : k.fires x.kind b d = true ↔ fires := by
      cases hc : k.crossing with
      | true => rw [fires_crossing hc hd', hpass, hfc hc]
      | false => rw [fires_equal hc, heq, hpass, hfe hc]
    have hlogged : (s.edgeMoved i edge).markLogged i k x = fired := by
      rw [hfired, ha, hb, ← hdeck]
      rfl
    have hcompare := compareMarks_of_one (x := x) hi hk hen hdeck hothers
    rw [← hb, ← hd', compareMark_of_entry hk hen hdeck, ← hb, hedge, fireMark_eq, hlogged] at hcompare
    refine ⟨fun hno => ?_, fun hyes => ?_⟩
    · rw [hcompare, if_neg (fun h => hno (hfires.mp h))]
      rfl
    · have hen' : edge.enabled = true := by rw [← hedge, edgeAfter_eq]; split <;> exact hen
      have hg : fired.gpi = s.gpi := by rw [← hlogged]; exact markLogged_gpi (s.edgeMoved i edge) i
      rw [hcompare, if_pos (hfires.mpr hyes), ← markFired_eq (by omega) hen' hg, hfin]
      rfl

end Sys2Proof.Machine
end

section
/-!
PROOFS. The arbiter of a free link (R69 to R73): the first source, and the frame it begins.
-/

namespace Sys2Proof.Machine

variable {s t u v : State} {n m : Deck} {slot : Fin 64}

/-! ## The frame begun, and whom it tells -/

section
variable {e : Exchange} (hx : (s.deck n).tx.Resting)
include hx

theorem beginFrame_start :
    (s.onDeck n fun d => { d with
      link := { d.link with
        exchange := some { e with tag := (s.deck n).link.nextTag, phase := .sending, timer := none }
        nextTag := d.link.nextTag + 1, judged := none }
      tx := d.tx.start (commandFrame (s.deck n).link.nextTag e.command) }) = s.onDeck n (DeckUnit.begun e) :=
  State.onDeck_congr (by simp only [DeckUnit.begun, hx.start])

/-- A chase is told its last speed (R102). -/
theorem beginFrame_chase (hr : e.requester = .chase) (hl : e.live = true) :
    s.beginFrame n e = (s.onDeck n (DeckUnit.begun e)).onChase n fun c => c.begun e.command := by
  unfold State.beginFrame
  simp only [beginFrame_start hx]
  simp only [hr, hl, if_true]

/-- A punch takes its actual field (R136). -/
theorem beginFrame_punch {i : PunchId} (hr : e.requester = .engine) (hp : e.punch = some i) (hl : e.live = true) :
    s.beginFrame n e = (s.onDeck n (DeckUnit.begun e)).punchBegun i := by
  unfold State.beginFrame
  simp only [beginFrame_start hx]
  simp only [hr, hp, hl, if_true]

/-- A poll loads its timer (R52). -/
theorem beginFrame_poll (hr : e.requester = .poll) :
    s.beginFrame n e = (s.onDeck n (DeckUnit.begun e)).onDeck n fun d =>
      { d with link := { d.link with pollPending := false, pollTimer := loadTimer d.settings.pollInterval } } := by
  unfold State.beginFrame
  simp only [beginFrame_start hx]
  simp only [hr]

end

/-! ## One free link -/

/-- A choice handed over, its frame leaving the link busy, ends the settling of the decks. -/
theorem settleDecks_of_choice {c : Choice} (hl : ∀ m, s.listAtRest m) (hm : ∀ m, m ≠ n → (s.deck m).free = false)
    (hf : (s.deck n).free = true) (hc : s.choice n = some c) (hh : s.handOver n c = t)
    (ht : (t.deck n).free = false) (ho : ∀ m, m ≠ n → t.deck m = s.deck m) : s.settleDecks = t := by
  have hservice : (s.eachDeck fun n s => s.service n) = s := eachDeck_of_none fun m => service_of_listAtRest (hl m)
  have hidle (w : State) (m : Deck) (h : (w.deck m).free = false) : w.arbitrate m 32 = w := by
    simp [State.arbitrate, h]
  have hone : s.arbitrate n 32 = t := by
    simp [State.arbitrate, hf, hc, hh, ht]
  have harbiter : (s.eachDeck fun n s => s.arbitrate n 32) = t := by
    refine eachDeck_of_one hone (fun m h => hidle s m (hm m h)) fun m h => ?_
    exact hidle t m (by rw [ho m h]; exact hm m h)
  rw [State.settleDecks, hservice, harbiter]

/-- With no source the settling of the decks does nothing. -/
theorem settleDecks_of_no_choice (hl : ∀ m, s.listAtRest m) (hm : ∀ m, m ≠ n → (s.deck m).free = false)
    (hc : s.choice n = none) : s.settleDecks = s := by
  refine settleDecks_of_rest fun m => ⟨(hl m).1, (hl m).2, ?_⟩
  by_cases h : m = n
  · exact .inr (h ▸ hc)
  · exact .inl (hm m h)

/-! ## The sources in their order (R69, R73) -/

theorem punchBarred_of_none {r : EngineRequest} (h : r.punch = none) : s.punchBarred r = false := by
  simp [State.punchBarred, h]

theorem punchBarred_iff {r : EngineRequest} {i : PunchId} {k : BitVec 4} {x : Punch} (hp : r.punch = some i)
    (hl : r.live = true) (hc : r.command = .punchIn k) (hx : s.engine.punches.get i = some x) :
    s.punchBarred r = true ↔
      (s.engine.state ≠ .synced ∧ s.engine.state ≠ .recording) ∨ 3 ≤ fieldDiff s.timeline.F x.planned := by
  simp [State.punchBarred, hp, hl, hc, hx, State.F]

section
variable {r : EngineRequest} {rest : List EngineRequest} {c : LinkCommand} {h : HeldRecord}

theorem choice_engine (hq : (s.deck n).arbiter.engineQueue = r :: rest) (hb : s.punchBarred r = false) :
    s.choice n = some (.engine r) := by
  simp [State.choice, hq, hb]

theorem choice_barred (hq : (s.deck n).arbiter.engineQueue = r :: rest) (hb : s.punchBarred r = true) :
    s.choice n = none := by
  simp [State.choice, hq, hb]

theorem no_trim (h : (s.deck n).arbiter.trim = none ∨ s.punchWindow n = true) :
    (if s.punchWindow n then none else (s.deck n).arbiter.trim) = none := by
  rcases h with h | h
  · simp [h]
  · simp [h]

section
variable (hq : (s.deck n).arbiter.engineQueue = [])
include hq

theorem choice_trim (ht : (s.deck n).arbiter.trim = some c) (hw : s.punchWindow n = false) :
    s.choice n = some (.trim c) := by
  simp [State.choice, hq, ht, hw]

section
variable (ht : (s.deck n).arbiter.trim = none ∨ s.punchWindow n = true)
include ht

theorem choice_host (hc : s.claimed n = false) (hs : (s.deck n).list.source = some (h, c)) :
    s.choice n = some (.host h c) := by
  simp [State.choice, hq, no_trim ht, hc, hs]

theorem choice_rest (hs : s.claimed n = true ∨ (s.deck n).list.queue = []) :
    s.choice n =
      if ((s.deck n).arbiter.positionRequest && !s.punchWindow n) = true then some .position
      else if ((s.deck n).link.pollPending && !s.punchWindow n) = true then some .poll
      else none := by
  have hsource : (if s.claimed n then none else (s.deck n).list.source) = none := by
    rcases hs with hs | hs
    · simp [hs]
    · simp [CommandList.source, CommandList.blocked, CommandList.head, hs]
  simp only [State.choice, hq, no_trim ht, hsource]

end

end

/-- A waiting motion record at the front of an unblocked queue is the third source (R63). -/
theorem source_of_front {l : CommandList} {rest : List HeldRecord} (hq : l.queue = h :: rest)
    (hc : h.command = .motion c) (hw : h.status = .waiting)
    (hr : ∀ k ∈ rest, k.status ≠ .chosen ∧ k.status ≠ .engine) : l.source = some (h, c) := by
  have hblocks (k : HeldRecord) (hk : k.status ≠ .chosen ∧ k.status ≠ .engine) : k.status.blocks = false := by
    cases hs : k.status with
    | chosen => exact absurd hs hk.1
    | engine => exact absurd hs hk.2
    | waiting => rfl
    | seeking => rfl
  have hblocked : l.blocked = false := by
    unfold CommandList.blocked
    rw [hq, List.any_eq_false]
    intro k hk
    rcases List.mem_cons.mp hk with rfl | hk
    · rw [hblocks k (by simp [hw])]; decide
    · rw [hblocks k (hr k hk)]; decide
  have hhead : l.head = some h := by simp [CommandList.head, hq, hw]
  simp only [CommandList.source, hblocked, hhead, hc, Bool.false_eq_true, if_false]

end

/-- The result of a frame begun on deck `n`: the deck is busy, the others stand. -/
theorem settleDecks_of_begun {c : Choice} {g : DeckUnit → DeckUnit} {e : Exchange} (hl : ∀ m, s.listAtRest m)
    (hm : ∀ m, m ≠ n → (s.deck m).free = false) (hf : (s.deck n).free = true) (hc : s.choice n = some c)
    (hh : s.handOver n c = t) (ht : ∀ m, t.deck m = (s.onDeck n g).deck m)
    (he : (g (s.deck n)).link.exchange = some e) : s.settleDecks = t := by
  refine settleDecks_of_choice hl hm hf hc hh ?_ fun m h => (ht m).trans (State.onDeck_deck_ne _ _ h)
  rw [ht, State.onDeck_deck_self]
  exact DeckUnit.free_of_exchange he

/-- A deck with its engine queue's head handed over. -/
def DeckUnit.queueLeft (rest : List EngineRequest) (d : DeckUnit) : DeckUnit :=
  { d with arbiter := { d.arbiter with engineQueue := rest } }

theorem onArbiter_tail {r : EngineRequest} {rest : List EngineRequest}
    (hq : (s.deck n).arbiter.engineQueue = r :: rest) :
    (s.onArbiter n fun a => { a with engineQueue := a.engineQueue.tail }) = s.onDeck n (DeckUnit.queueLeft rest) :=
  State.onDeck_congr (by simp only [hq, List.tail_cons, DeckUnit.queueLeft])

/-- A queued punch takes its actual field (R136). -/
theorem punchBegun_of_queued {i : PunchId} {x : Punch} (h : s.engine.punches.get i = some x) (hq : x.status = .queued) :
    s.punchBegun i = s.onEngine fun g =>
      { g with punches := g.punches.set i (some { x with status := .begun, actual := some s.F }) } := by
  unfold State.punchBegun State.onEngine
  simp only [h, Option.map_some, if_pos hq]

/-- Settles O30. -/
theorem arbiterBeginsTheFirstSource : Obligations.ArbiterBeginsTheFirstSource := by
  intro s n d begun hl hm hd hf hh hx hbegun
  subst hd
  have hx : (s.deck n).tx.Resting := ⟨by simp [DeckUnit.free] at hf; tauto, hh, hx⟩
  have hxf {f : DeckUnit → DeckUnit} (h : (f (s.deck n)).tx = (s.deck n).tx) : ((s.onDeck n f).deck n).tx.Resting := by
    rw [State.onDeck_deck_self, h]
    exact hx
  have hbegun' {f : DeckUnit → DeckUnit} (h : (f (s.deck n)).link.nextTag = (s.deck n).link.nextTag) (q c retries live)
      (punch : Option PunchId) : begun (s.onDeck n f) q c retries live punch =
        (s.onDeck n f).onDeck n (DeckUnit.begun (newExchange q c retries live punch)) := by
    rw [hbegun]
    refine State.onDeck_congr ?_
    rw [State.onDeck_deck_self]
    unfold DeckUnit.begun newExchange
    rw [h]
  refine ⟨fun r rest hq => ⟨fun hp => ?_, fun i k x hp hlive hc hget => ⟨fun ⟨hst, hlate⟩ hqueued => ?_,
      fun hno => ?_⟩⟩,
    fun hq => ⟨fun c ht hw => ?_, fun ht => ⟨fun h c rest hc hqueue hcmd hst hrest hdown => ?_,
      fun hs => ⟨fun hw => ?_, fun hw hpos => ?_, fun hw hpos hpoll => ?_, fun hpos hpoll => ?_⟩⟩⟩⟩
  · have hb := hbegun' (f := DeckUnit.queueLeft rest) rfl .engine r.command (s.deck n).settings.retryLimit r.live none
    refine Eq.trans ?_ hb.symm
    refine settleDecks_of_begun hl hm hf (choice_engine hq (punchBarred_of_none hp)) ?_
      (fun m => by rw [State.onDeck_onDeck]) rfl
    unfold State.handOver
    dsimp only
    rw [onArbiter_tail hq, hp]
    exact beginFrame_of_resting (hxf rfl) (.inr (.inr ⟨rfl, fun i x h => by simp [newExchange] at h⟩))
  · have hb := hbegun' (f := DeckUnit.queueLeft rest) rfl .engine r.command (s.deck n).settings.retryLimit true (some i)
    refine Eq.trans ?_ (congrArg (fun u => State.onEngine u fun g => { g with
      punches := g.punches.set i (some { x with status := .begun, actual := some s.timeline.F }) }) hb.symm)
    have hbar : s.punchBarred r = false := by
      rw [← Bool.not_eq_true, punchBarred_iff hp hlive hc hget]
      rintro (⟨h₁, h₂⟩ | h)
      · exact hst.elim h₁ h₂
      · omega
    refine settleDecks_of_begun hl hm hf (choice_engine hq hbar) ?_
      (fun m => by rw [State.onEngine_deck, State.onDeck_onDeck]) rfl
    unfold State.handOver
    dsimp only
    rw [onArbiter_tail hq, hp, hlive, beginFrame_punch (hxf rfl) rfl rfl rfl]
    exact punchBegun_of_queued hget hqueued
  · refine settleDecks_of_no_choice hl hm (choice_barred hq ((punchBarred_iff hp hlive hc hget).mpr hno))
  · have hb := hbegun' (f := fun d => { d with arbiter := { d.arbiter with trim := none } }) rfl .chase c 0 true none
    refine Eq.trans ?_ (congrArg (fun u => State.onChase u n _) hb.symm)
    refine settleDecks_of_begun hl hm hf (choice_trim hq ht hw) ?_
      (fun m => by unfold State.onChase; rw [State.onDeck_onDeck, State.onDeck_onDeck]) rfl
    unfold State.handOver
    dsimp only
    have hframe := beginFrame_chase (s := s.emptyTrim n) (e := newExchange .chase c 0 true none)
      (hxf (f := fun d => { d with arbiter := { d.arbiter with trim := none } }) rfl) rfl rfl
    refine hframe.trans (congrArg (State.onChase _ n) (funext fun k => ?_))
    cases c <;> rfl
  · have hmark : (s.onList n fun l => { l with queue := markHead .chosen l.queue }) =
        s.onDeck n fun d => { d with list := { d.list with queue := { h with status := .chosen } :: rest } } :=
      State.onDeck_congr (by simp only [hqueue, markHead, if_pos hst])
    have hb := hbegun' (f := fun d => { d with
      list := { d.list with queue := { h with status := .chosen } :: rest } }) rfl .host c
      (s.deck n).settings.retryLimit true none
    refine Eq.trans ?_ hb.symm
    refine settleDecks_of_begun hl hm hf (choice_host hq ht hc (source_of_front hqueue hcmd hst hrest)) ?_
      (fun m => by rw [State.onDeck_onDeck]) rfl
    unfold State.handOver
    dsimp only
    rw [if_neg hdown, hmark]
    exact beginFrame_of_resting (hxf rfl) (.inl rfl)
  · exact settleDecks_of_no_choice hl hm ((choice_rest hq ht hs).trans (by simp [hw]))
  · have hb := hbegun' (f := fun d => { d with arbiter := { d.arbiter with positionRequest := false } }) rfl .tracker
      .readPosition 0 true none
    refine Eq.trans ?_ hb.symm
    refine settleDecks_of_begun hl hm hf ((choice_rest hq ht hs).trans (if_pos (by simp [hw, hpos]))) ?_
      (fun m => by rw [State.onDeck_onDeck]) rfl
    unfold State.handOver
    exact beginFrame_of_resting (hxf rfl) (.inr (.inl rfl))
  · rw [hbegun]
    refine settleDecks_of_begun hl hm hf ((choice_rest hq ht hs).trans ((if_neg (by simp [hpos])).trans
      (if_pos (by simp [hw, hpoll])))) ?_ (fun m => by unfold State.onLink; rw [State.onDeck_onDeck]) rfl
    unfold State.handOver
    dsimp only
    rw [beginFrame_poll hx rfl]
    unfold State.onLink
    rw [State.onDeck_onDeck, State.onDeck_onDeck]
    rfl
  · exact settleDecks_of_no_choice hl hm ((choice_rest hq ht hs).trans (by simp [hpos, hpoll]))

end Sys2Proof.Machine
end

section
/-!
PROOFS. The heads of the host queues examined by Table 4-4 (R63 to R68).
-/

namespace Sys2Proof.Machine

variable {s t u v : State} {n m : Deck} {slot : Fin 64}

/-! ## A record completed, and the scan and the examination it starts -/

/-- Deck `n`'s head no longer to be examined. -/
def State.looked (s : State) (n : Deck) : State := s.onList n fun l => { l with examine := false }

/-- The record's bytes and its cause, the queue apart (R68). -/
def State.recordWritten (s : State) (h : HeldRecord) (r : HostResult) : State :=
  State.raise { s with
    mem := ((s.mem.store (h.offset + 4)
        ([byte r.reply, byte r.reason, byte r.fault.num, byte r.field] ++ halfOfField s.F)).store
        (h.offset + 2) (half h.tag.toNat)).store h.offset [if r.done = true then 3 else 4] }
    (if r.done = true then .deckDone else .deckFault)

/-- A record completed, the ring scanned and the queue found empty. -/
def State.ended (s : State) (n : Deck) (h : HeldRecord) (r : HostResult) : State :=
  ((s.completeRecord n h r).setAttention n.num false).onList n fun l => { l with rescan := false, examine := false }

/-- A queue's only record gone. -/
def CommandList.emptied (l : CommandList) : CommandList :=
  { l with queue := [], rescan := false, examine := false }

section
variable {h : HeldRecord} {r : HostResult}

theorem completeRecord_eq (hl : h.offset + 16 ≤ s.iface.limit) (n : Deck) (r : HostResult) :
    s.completeRecord n h r = (s.recordWritten h r).onList n fun l =>
      { l with
        queue := l.queue.erase h
        rescan := true
        examine := l.examine || h.status.blocks || decide (l.head = some h) } :=
  completionWritesTheRecord s n h r hl

theorem erase_only {l : List HeldRecord} (h : HeldRecord) (hl : l = [h]) : l.erase h = [] := by
  subst hl
  simp

theorem onList_setAttention (s : State) (n : Deck) (f : CommandList → CommandList) (k : Nat) (b : Bool) :
    (s.onList n f).setAttention k b = (s.setAttention k b).onList n f := rfl

theorem ended_eq (hl : h.offset + 16 ≤ s.iface.limit) (hq : (s.deck n).list.queue = [h]) (r : HostResult) :
    s.ended n h r = ((s.recordWritten h r).setAttention n.num false).onList n CommandList.emptied := by
  unfold State.ended
  rw [completeRecord_eq hl, onList_setAttention, State.onList_onList]
  refine State.onList_congr ?_
  have hd : ((s.recordWritten h r).setAttention n.num false).deck n = s.deck n := rfl
  simp only [hd, CommandList.emptied, erase_only h hq]

theorem read_recordWritten {a : Nat} (h₁ : a < h.offset ∨ h.offset + 16 ≤ a) :
    (s.recordWritten h r).mem.read a = s.mem.read a := by
  unfold State.recordWritten
  refine (Memory.read_store_outside _ _ _ ?_).trans ((Memory.read_store_outside _ _ _ ?_).trans
    (Memory.read_store_outside _ _ _ ?_))
  · rw [List.length_singleton]; omega
  · rw [length_half]; omega
  · simp [halfOfField]; omega

end

/-- A scan that finds its slot not POSTED clears the attention bit alone (R59, R60). -/
theorem scan_of_end (hc : s.iface.configured = true)
    (hl : s.ringSlot n (s.deck n).list.nextSlot + 16 ≤ s.iface.limit)
    (hm : s.mem.read (s.ringSlot n (s.deck n).list.nextSlot) ≠ 1) :
    s.scan n = (s.setAttention n.num false).onList n fun l => { l with rescan := false } := by
  have hnext : (((s.setAttention n.num false).onList n fun l => { l with rescan := false }).deck n).list.nextSlot =
      (s.deck n).list.nextSlot := by rw [State.onList_deck_self]; rfl
  have hslot (k : Fin 16) : State.ringSlot ((s.setAttention n.num false).onList n fun l => { l with rescan := false })
      n k = s.ringSlot n k := rfl
  unfold State.scan
  extract_lets a
  refine (if_pos hc).trans (scanSlots_of_end (s := (s.setAttention n.num false).onList n fun l =>
    { l with rescan := false }) ?_ (.inl ?_))
  · rw [hnext, hslot]
    exact (Nat.add_le_add_left (by decide) _).trans hl
  · rw [hnext, hslot]
    exact hm

/-- The rounds of a deck whose list is empty end with nothing to scan or examine. -/
theorem serviceRounds_of_empty (hq : (s.deck n).list.queue = []) (hr : (s.deck n).list.rescan = false) (fuel : Nat) :
    s.serviceRounds n (fuel + 1) = s.onList n fun l => { l with examine := false } := by
  cases he : (s.deck n).list.examine with
  | false =>
    rw [serviceRounds_of_rest ⟨hr, he⟩]
    exact (State.onList_self (by rw [← he])).symm
  | true =>
    have hx := examineHead_of_empty hq
    rw [serviceRounds_of_examine hr he (by rw [hx, State.listAtRest, State.onList_deck_self]; exact ⟨hr, rfl⟩), hx]

section
variable {h : HeldRecord} {r : HostResult}

/-- What the completion of a deck's only record needs: room for its bytes, and a ring with nothing POSTED next. -/
structure Completable (s : State) (n : Deck) (h : HeldRecord) : Prop where
  queue : (s.deck n).list.queue = [h]
  configured : s.iface.configured = true
  room : h.offset + 16 ≤ s.iface.limit
  ring : s.ringSlot n (s.deck n).list.nextSlot + 16 ≤ s.iface.limit
  beside : h.offset + 16 ≤ s.ringSlot n (s.deck n).list.nextSlot ∨
    s.ringSlot n (s.deck n).list.nextSlot + 16 ≤ h.offset
  unposted : s.mem.read (s.ringSlot n (s.deck n).list.nextSlot) ≠ 1

theorem serviceRounds_completed (hu : Completable u n h) (r : HostResult) (fuel : Nat) :
    ((u.looked n).completeRecord n h r).serviceRounds n (fuel + 2) = u.ended n h r := by
  have hz : (u.looked n).completeRecord n h r = (u.recordWritten h r).onList n fun l =>
      { l with
        queue := l.queue.erase h, rescan := true
        examine := h.status.blocks || decide (l.head = some h) } := by
    have hlooked : (u.looked n).recordWritten h r = (u.recordWritten h r).looked n := rfl
    rw [completeRecord_eq (s := u.looked n) hu.room, hlooked, State.looked, State.onList_onList]
    refine State.onList_congr ?_
    simp only [Bool.false_or]
    rfl
  have hd : (u.recordWritten h r).deck n = u.deck n := rfl
  have hq := hu.queue
  rw [hz, ended_eq hu.room hq]
  generalize hw : u.recordWritten h r = w at *
  have hi : w.iface.configured = true := by rw [← hw]; exact hu.configured
  have hl : w.ringSlot n (w.deck n).list.nextSlot + 16 ≤ w.iface.limit := by rw [hd, ← hw]; exact hu.ring
  have hm : w.mem.read (w.ringSlot n (w.deck n).list.nextSlot) ≠ 1 := by
    rw [hd, ← hw]
    refine fun k => hu.unposted ((read_recordWritten ?_).symm.trans k)
    have := hu.beside
    change u.ringSlot n _ < _ ∨ _ ≤ u.ringSlot n _
    omega
  have hscan : (w.onList n fun l => { l with
      queue := l.queue.erase h, rescan := true, examine := h.status.blocks || decide (l.head = some h) }).scan n =
      (w.setAttention n.num false).onList n fun l => { l with
        queue := [], rescan := false, examine := h.status.blocks || decide (l.head = some h) } := by
    rw [scan_of_end (by exact hi) (by rw [State.onList_deck_self]; exact hl) (by rw [State.onList_deck_self]; exact hm),
      onList_setAttention, State.onList_onList]
    refine State.onList_congr ?_
    simp only [erase_only h (show (w.deck n).list.queue = [h] by rw [hd]; exact hq), State.setAttention_deck]
  have hrounds := serviceRounds_of_empty (s := (w.setAttention n.num false).onList n fun l => { l with
        queue := [], rescan := false, examine := h.status.blocks || decide (l.head = some h) }) (n := n)
    (by rw [State.onList_deck_self]) (by rw [State.onList_deck_self]) fuel
  rw [State.onList_onList] at hrounds
  refine Eq.trans ?_ hrounds
  rw [← hscan, State.serviceRounds]
  simp

/-- A deck whose only record is to be examined, every link being busy. -/
structure Examinable (s : State) (n : Deck) : Prop where
  busy : ∀ m, (s.deck m).free = false
  others : ∀ m, m ≠ n → s.listAtRest m
  up : (s.deck n).link.downDue = false
  read : (s.deck n).list.rescan = false
  due : (s.deck n).list.examine = true

theorem service_of_examinable (hs : Examinable s n) : s.service n = (s.examineHead n).serviceRounds n 63 := by
  rw [State.service, hs.up, if_neg Bool.false_ne_true, State.serviceRounds]
  simp [hs.read, hs.due]

/-- An examination that completes the record at once. -/
theorem settleDecks_of_completion (hs : Examinable s n) {g : DeckUnit → DeckUnit} {k : HeldRecord}
    (hg : (g (s.deck n)).free = false) (hu : Completable (s.onDeck n g) n k) {r : HostResult}
    (hx : s.examineHead n = ((s.onDeck n g).looked n).completeRecord n k r) :
    s.settleDecks = (s.onDeck n g).ended n k r := by
  have hservice : s.service n = (s.onDeck n g).ended n k r := by
    rw [service_of_examinable hs, hx]
    exact serviceRounds_completed hu r 61
  refine settleDecks_of_service hservice hs.others fun m => ?_
  have hd : (((s.onDeck n g).recordWritten k r).setAttention n.num false).deck m = (s.onDeck n g).deck m := rfl
  rw [ended_eq hu.room hu.queue]
  by_cases hm : m = n
  · subst hm
    rw [State.deckAtRest, State.onList_deck_self, hd, State.onDeck_deck_self]
    exact ⟨rfl, rfl, .inl hg⟩
  · rw [State.deckAtRest, State.onList_deck_ne _ _ hm, hd, State.onDeck_deck_ne _ _ hm]
    exact ⟨(hs.others m hm).1, (hs.others m hm).2, .inl (hs.busy m)⟩

/-- An examination that completes nothing. -/
theorem settleDecks_of_examined (hs : Examinable s n) (hx : s.examineHead n = t)
    (hl : t.listAtRest n) (ht : ∀ m, (t.deck m).free = false) (ho : ∀ m, m ≠ n → (t.deck m).list = (s.deck m).list) :
    s.settleDecks = t := by
  have hservice : s.service n = t := by
    rw [service_of_examinable hs, hx]
    exact serviceRounds_of_rest hl 63
  refine settleDecks_of_service hservice hs.others fun m => ?_
  by_cases hm : m = n
  · subst hm
    exact ⟨hl.1, hl.2, .inl (ht m)⟩
  · rw [State.deckAtRest, ho m hm]
    exact ⟨(hs.others m hm).1, (hs.others m hm).2, .inl (ht m)⟩

/-! ## The rows of Table 4-4 -/

section
variable (hq : (s.deck n).list.queue = [h]) (hw : h.status = .waiting)
include hq hw

theorem head_of_only : (s.deck n).list.head = some h ∧ (s.deck n).list.blocked = false := by
  simp [CommandList.head, CommandList.blocked, hq, hw, HoldStatus.blocks]

theorem looked_head : ({ (s.deck n).list with examine := false } : CommandList).head = some h ∧
    ({ (s.deck n).list with examine := false } : CommandList).blocked = false := head_of_only hq hw

/-- On a claimed deck any command but HALT and CLEAR-FAULT is refused (R65). -/
theorem examineHead_of_claimed (hc : s.claimed n = true) (hh : h.command ≠ .motion .halt)
    (hf : h.command ≠ .clearFault) : s.examineHead n = (s.looked n).refuseClaimed n h := by
  obtain ⟨hhead, hblocked⟩ := looked_head hq hw
  have hc' : State.claimed (s.looked n) n = true := hc
  unfold State.examineHead
  simp only [State.onList_deck_self, hhead, hblocked]
  cases hcmd : h.command with
  | motion c =>
    cases c with
    | halt => exact absurd hcmd hh
    | _ => exact if_pos hc'
  | chase master offset origin => exact if_pos hc'
  | unchase => exact if_pos hc'
  | clearFault => exact absurd hcmd hf

theorem examineHead_halt (hc : s.claimed n = true) (hh : h.command = .motion .halt) :
    s.examineHead n = (s.looked n).hostHalt n := by
  obtain ⟨hhead, hblocked⟩ := looked_head hq hw
  have hc' : State.claimed (s.looked n) n = true := hc
  unfold State.examineHead
  simp only [State.onList_deck_self, hhead, hblocked, hh]
  exact if_pos hc'

theorem examineHead_chase (hc : s.claimed n = false) {master : Master} {offset : Int} {origin : Option (Nat × Kind)}
    (hh : h.command = .chase master offset origin) :
    s.examineHead n = ((s.looked n).startChase n .host master offset origin).completeRecord n h (.ok 0) := by
  obtain ⟨hhead, hblocked⟩ := looked_head hq hw
  have hc' : ¬State.claimed (s.looked n) n = true := by rw [show State.claimed (s.looked n) n = false from hc]; decide
  unfold State.examineHead
  simp only [State.onList_deck_self, hhead, hblocked, hh]
  exact if_neg hc'

theorem examineHead_unchase (hc : s.claimed n = false) (hh : h.command = .unchase) :
    s.examineHead n = (((s.looked n).endChase n).emptyTrim n).completeRecord n h (.ok 0) := by
  obtain ⟨hhead, hblocked⟩ := looked_head hq hw
  have hc' : ¬State.claimed (s.looked n) n = true := by rw [show State.claimed (s.looked n) n = false from hc]; decide
  unfold State.examineHead
  simp only [State.onList_deck_self, hhead, hblocked, hh]
  exact if_neg hc'

theorem examineHead_clearFault (hh : h.command = .clearFault) :
    s.examineHead n =
      ((s.looked n).onDeck n fun d => { d with capture := .empty }).completeRecord n h (.ok 0) := by
  obtain ⟨hhead, hblocked⟩ := looked_head hq hw
  unfold State.examineHead
  simp only [State.onList_deck_self, hhead, hblocked, hh]
  rfl

end

end

/-- A deck whose head is no longer to be examined. -/
def DeckUnit.looked (d : DeckUnit) : DeckUnit := { d with list := { d.list with examine := false } }

/-- A change of the deck beside its list, and the end of the examination, in either order. -/
theorem looked_onDeck {g : DeckUnit → DeckUnit} (h : g (s.deck n).looked = (g (s.deck n)).looked) :
    (s.looked n).onDeck n g = (s.onDeck n g).looked n := by
  unfold State.looked State.onList
  rw [State.onDeck_onDeck, State.onDeck_onDeck]
  exact State.onDeck_congr h

@[simp] theorem looked_deck_self (s : State) (n : Deck) : (s.looked n).deck n = (s.deck n).looked :=
  State.onDeck_deck_self _ _ _

section
variable {h : HeldRecord} {c : LinkCommand}

theorem examineMotion_of_punch {k : BitVec 4} (hk : c = .punchIn k) (hr : (s.deck n).settings.role ≠ .recorder) :
    s.examineMotion n h c = s.completeOffered n h ⟨false, 0, 0, .badCommand, 1⟩ 2 := by
  subst hk
  unfold State.examineMotion
  exact if_pos ⟨rfl, hr⟩

theorem examineMotion_of_lost (hp : (∀ k, c ≠ .punchIn k) ∨ (s.deck n).settings.role = .recorder)
    (hl : (s.deck n).link.state = .absent ∨ (s.deck n).link.state = .down) :
    s.examineMotion n h c = s.completeOffered n h (.failed .linkDown) 3 := by
  unfold State.examineMotion
  extract_lets d punchIn
  have hin : ¬(punchIn = true ∧ d.settings.role ≠ .recorder) := by
    rintro ⟨hpunch, hrole⟩
    rcases hp with hp | hp
    · cases c with
      | punchIn k => exact hp k rfl
      | _ => simp [punchIn] at hpunch
    · exact hrole hp
  rw [if_neg hin, if_pos hl]

end

theorem endChase_of_unlocked (ho : (s.deck n).chase.state ≠ .off) (hl : (s.deck n).chase.state ≠ .locked) :
    s.endChase n = s.onDeck n DeckUnit.chaseEnded := by
  unfold State.endChase State.emptyTrim
  rw [if_neg ho, moveChase_unlocked hl ChaseState.noConfusion]
  unfold State.onChase State.onLink State.onArbiter
  rw [State.onDeck_onDeck, State.onDeck_onDeck]
  refine State.onDeck_congr ?_
  unfold DeckUnit.chaseEnded
  rw [if_neg ho]

theorem startChase_of_unlocked (hl : (s.deck n).chase.state ≠ .locked) (x : Starter) (k : Master) (o : Int)
    (g : Option (Nat × Kind)) : s.startChase n x k o g = s.onDeck n (DeckUnit.chasing x k o g s.F) := by
  unfold State.startChase State.emptyTrim
  rw [moveChase_unlocked hl ChaseState.noConfusion]
  unfold State.onChase State.onLink State.onArbiter
  dsimp only
  rw [State.onDeck_onDeck, State.onDeck_onDeck, State.onDeck_onDeck]
  rfl

/-- The HALT at the head given status ENGINE. -/
def State.haltHeld (s : State) (n : Deck) (h : HeldRecord) : State :=
  s.onList n fun l => { l with queue := [{ h with status := .engine }], examine := false }

theorem haltHeld_list (s : State) (n : Deck) (h : HeldRecord) : ((s.haltHeld n h).deck n).list =
    { (s.deck n).list with queue := [{ h with status := .engine }], examine := false } := by
  unfold State.haltHeld
  rw [State.onList_deck_self]

theorem haltHeld_deck_ne (s : State) (h : HeldRecord) (hm : m ≠ n) : (s.haltHeld n h).deck m = s.deck m :=
  State.onList_deck_ne _ _ hm

/-- The result a HALT takes from the engine's, a refusal apart. -/
theorem completeFromEngine_of_held (s : State) (n : Deck) (h : HeldRecord) {o : EngineOutcome}
    {r : HostResult}
    (hor : (o = .taken ∧ r = ⟨true, 0x40, 0, .none, 0⟩) ∨ ∃ c, o = .faulted c ∧ r = ⟨false, 0, 0, c, 0⟩) :
    (s.haltHeld n h).completeFromEngine n o = (s.haltHeld n h).completeRecord n { h with status := .engine } r := by
  have hfind : ((s.haltHeld n h).deck n).list.queue.find? (fun h => h.status == .engine) =
      some { h with status := .engine } := by
    rw [haltHeld_list s n h]
    rfl
  unfold State.completeFromEngine
  rw [hfind]
  rcases hor with ⟨rfl, rfl⟩ | ⟨c, rfl, rfl⟩ <;> rfl

/-! ## A head due for examination, alone in its queue -/

/-- The only record of a deck's queue waits to be examined, and may be completed. -/
structure HeadDue (s : State) (n : Deck) (h : HeldRecord) : Prop extends Examinable s n where
  waiting : h.status = .waiting
  completable : Completable s n h

section
variable {h : HeldRecord} (hs : HeadDue s n h)
include hs

/-- A head completed at once, the deck changed by `g` beside its list. -/
theorem settleDecks_of_done {g : DeckUnit → DeckUnit} {r : HostResult} (hf : (g (s.deck n)).free = (s.deck n).free)
    (hl : (g (s.deck n)).list = (s.deck n).list) (hg : g (s.deck n).looked = (g (s.deck n)).looked)
    (hx : s.examineHead n = ((s.looked n).onDeck n g).completeRecord n h r) :
    s.settleDecks = (s.onDeck n g).ended n h r := by
  have hlist : ((s.onDeck n g).deck n).list = (s.deck n).list := by rw [State.onDeck_deck_self, hl]
  obtain ⟨hqueue, hconf, hroom, hring, hbeside, hun⟩ := hs.completable
  refine settleDecks_of_completion hs.toExaminable (hf.trans (hs.busy n)) ⟨by rw [hlist]; exact hqueue, hconf, hroom,
    by rw [hlist]; exact hring, by rw [hlist]; exact hbeside, by rw [hlist]; exact hun⟩ ?_
  rw [hx, looked_onDeck hg]

/-- A head refused, its fault offered to the deck's capture (log entry 45). -/
theorem settleDecks_of_refused {r : HostResult} {severity : Nat}
    (hx : s.examineHead n = (s.looked n).completeOffered n h r severity) :
    s.settleDecks = (s.offerDeck n severity r.fault h.offset).ended n h r :=
  settleDecks_of_done hs (g := fun d => { d with capture := d.capture.offer severity r.fault h.offset s.F })
    rfl rfl rfl hx

theorem HeadDue.head : (s.deck n).list.head = some h ∧ (s.deck n).list.blocked = false :=
  head_of_only hs.completable.queue hs.waiting

/-- A motion command refused. -/
theorem settleDecks_of_motion {c : LinkCommand} {r : HostResult} {severity : Nat} (hc : s.claimed n = false)
    (hh : h.command = .motion c)
    (hx : (s.looked n).examineMotion n h c = (s.looked n).completeOffered n h r severity) :
    s.settleDecks = (s.offerDeck n severity r.fault h.offset).ended n h r :=
  settleDecks_of_refused hs ((examineHead_of_motion hs.head.1 hs.head.2 hh hc).trans hx)

/-- A motion command that may be sent and ends the deck's chase (R67, R107). -/
theorem settleDecks_of_sendable {c : LinkCommand} (hc : s.claimed n = false) (hh : h.command = .motion c)
    (hp : (s.deck n).settings.role = .recorder ∨ ∀ k, c ≠ .punchIn k)
    (hl : (s.deck n).link.state = .probing ∨ (s.deck n).link.state = .up) (ho : (s.deck n).chase.state ≠ .off)
    (hk : (s.deck n).chase.state ≠ .locked) :
    s.settleDecks = s.onDeck n fun d => d.chaseEnded.looked := by
  have hexam : s.examineHead n = (s.onDeck n DeckUnit.chaseEnded).looked n := by
    rw [examineHead_of_motion hs.head.1 hs.head.2 hh hc]
    refine (examineMotion_of_sendable (s := s.looked n) h (by rw [looked_deck_self]; exact hp)
      (by rw [looked_deck_self]; exact hl)).trans ?_
    rw [endChase_of_unlocked (by rw [looked_deck_self]; exact ho) (by rw [looked_deck_self]; exact hk)]
    refine looked_onDeck ?_
    have ho' : (s.deck n).looked.chase.state ≠ .off := ho
    unfold DeckUnit.chaseEnded
    rw [if_neg ho, if_neg ho']
    rfl
  have hboth : (s.onDeck n DeckUnit.chaseEnded).looked n = s.onDeck n fun d => d.chaseEnded.looked := by
    unfold State.looked State.onList
    rw [State.onDeck_onDeck]
    rfl
  rw [hboth] at hexam
  refine settleDecks_of_examined hs.toExaminable hexam ?_ (fun m => ?_) fun m hm => by rw [State.onDeck_deck_ne _ _ hm]
  · rw [State.listAtRest, State.onDeck_deck_self]
    refine ⟨?_, rfl⟩
    change (s.deck n).chaseEnded.list.rescan = false
    rw [DeckUnit.chaseEnded_list]
    exact hs.read
  · rw [State.onDeck_deck]
    split
    · exact (DeckUnit.chaseEnded_free _).trans (hs.busy m)
    · exact hs.busy m

/-- CHASE starts the deck's chase and is done at once (R95). -/
theorem settleDecks_of_chase (hc : s.claimed n = false) {master : Master} {offset : Int}
    {origin : Option (Nat × Kind)} (hh : h.command = .chase master offset origin)
    (hk : (s.deck n).chase.state ≠ .locked) :
    s.settleDecks = (s.onDeck n (DeckUnit.chasing .host master offset origin s.F)).ended n h (.ok 0) := by
  refine settleDecks_of_done hs (DeckUnit.chasing_free _ _ _ _ _ _) rfl rfl ?_
  rw [examineHead_chase hs.completable.queue hs.waiting hc hh,
    startChase_of_unlocked (by rw [looked_deck_self]; exact hk)]
  rfl

/-- UNCHASE with no chase running empties the trim slot (R96). -/
theorem settleDecks_of_unchase_off (hc : s.claimed n = false) (hh : h.command = .unchase)
    (ho : (s.deck n).chase.state = .off) :
    s.settleDecks = (s.onArbiter n fun a => { a with trim := none }).ended n h (.ok 0) := by
  refine settleDecks_of_done hs (g := fun d => { d with arbiter := { d.arbiter with trim := none } }) rfl rfl rfl ?_
  rw [examineHead_unchase hs.completable.queue hs.waiting hc hh,
    endChase_of_off (by rw [looked_deck_self]; exact ho)]
  rfl

/-- UNCHASE ends the deck's chase (R96, R107). -/
theorem settleDecks_of_unchase (hc : s.claimed n = false) (hh : h.command = .unchase)
    (ho : (s.deck n).chase.state ≠ .off) (hk : (s.deck n).chase.state ≠ .locked) :
    s.settleDecks = (s.onDeck n DeckUnit.chaseEnded).ended n h (.ok 0) := by
  have ho' : (s.deck n).looked.chase.state ≠ .off := ho
  refine settleDecks_of_done hs (DeckUnit.chaseEnded_free _) (DeckUnit.chaseEnded_list _) ?_ ?_
  · unfold DeckUnit.chaseEnded
    rw [if_neg ho, if_neg ho']
    rfl
  · rw [examineHead_unchase hs.completable.queue hs.waiting hc hh,
      endChase_of_unlocked (by rw [looked_deck_self]; exact ho) (by rw [looked_deck_self]; exact hk)]
    unfold State.emptyTrim State.onArbiter
    rw [State.onDeck_onDeck]
    refine congrArg (State.completeRecord · n h _) (State.onDeck_congr ?_)
    rw [looked_deck_self]
    unfold DeckUnit.chaseEnded
    rw [if_neg ho']

/-! ## HALT on a claimed deck (R66) -/

theorem haltHeld_eq :
    ((s.looked n).onList n fun l => { l with queue := markHead .engine l.queue }) = s.haltHeld n h := by
  rw [State.looked, State.onList_onList]
  exact State.onList_congr (by simp only [hs.completable.queue, markHead, if_pos hs.waiting])

theorem examineHead_of_halt_open (hc : s.claimed n = true) (hh : h.command = .motion .halt)
    (ht : (s.haltHeld n h).abort .hostHalt = t) (ho : t.engine.haltOutcome.get n = none) : s.examineHead n = t := by
  rw [examineHead_halt hs.completable.queue hs.waiting hc hh]
  unfold State.hostHalt
  rw [haltHeld_eq hs, ht]
  simp only [ho]

theorem examineHead_of_halt_ended (hc : s.claimed n = true) (hh : h.command = .motion .halt)
    (ht : (s.haltHeld n h).abort .hostHalt = t) {o : EngineOutcome} (ho : t.engine.haltOutcome.get n = some o) :
    s.examineHead n = t.completeFromEngine n o := by
  rw [examineHead_halt hs.completable.queue hs.waiting hc hh]
  unfold State.hostHalt
  rw [haltHeld_eq hs, ht]
  simp only [ho]

theorem haltHeld_free (m : Deck) : ((s.haltHeld n h).deck m).free = false := by
  unfold State.haltHeld State.onList
  rw [State.onDeck_deck]
  split <;> exact hs.busy _

/-- The deck's HALT waits for the engine's own: the event is aborted, or was not running (R66). -/
theorem settleDecks_of_halt_open (hc : s.claimed n = true) (hh : h.command = .motion .halt)
    (ht : (s.haltHeld n h).abort .hostHalt = t) (ho : t.engine.haltOutcome.get n = none) :
    s.settleDecks = t ∧
      (t.deck n).list = { (s.deck n).list with queue := [{ h with status := .engine }], examine := false } := by
  have hlist (m : Deck) : (t.deck m).list = ((s.haltHeld n h).deck m).list := by
    rw [← ht]
    exact abort_deck_keeps (g := DeckUnit.list) _ _ (fun _ _ => rfl) (fun _ _ => rfl) DeckUnit.chaseEnded_list m
  have hn := (hlist n).trans (haltHeld_list s n h)
  have hfree (m : Deck) : (t.deck m).free = false := by
    rw [← ht]
    exact (abort_deck_keeps (g := DeckUnit.free) _ _ (fun _ _ => rfl) (fun _ _ => rfl) DeckUnit.chaseEnded_free m).trans
      (haltHeld_free hs m)
  refine ⟨settleDecks_of_examined hs.toExaminable (examineHead_of_halt_open hs hc hh ht ho) ?_ hfree fun m hm => ?_, hn⟩
  · rw [State.listAtRest, hn]
    exact ⟨hs.read, rfl⟩
  · rw [hlist, haltHeld_deck_ne s h hm]

/-- The engine's HALT has ended already: the record takes its result (R66). -/
theorem settleDecks_of_halt_ended (hc : s.claimed n = true) (hh : h.command = .motion .halt)
    (hr : s.engine.state.running = false) {o : EngineOutcome} {r : HostResult}
    (ho : s.engine.haltOutcome.get n = some o)
    (hor : (o = .taken ∧ r = ⟨true, 0x40, 0, .none, 0⟩) ∨ ∃ c, o = .faulted c ∧ r = ⟨false, 0, 0, c, 0⟩) :
    s.settleDecks = (s.haltHeld n h).ended n { h with status := .engine } r := by
  have hlist := haltHeld_list s n h
  have habort : (s.haltHeld n h).abort .hostHalt = s.haltHeld n h := abort_of_rest _ hr
  obtain ⟨-, hconf, hroom, hring, hbeside, hun⟩ := hs.completable
  have hlooked : (s.haltHeld n h).looked n = s.haltHeld n h := by
    unfold State.haltHeld State.looked
    rw [State.onList_onList]
  refine settleDecks_of_completion hs.toExaminable (g := fun d => { d with list :=
      { d.list with queue := [{ h with status := .engine }], examine := false } }) (k := { h with status := .engine })
    (hs.busy n) ⟨by rw [State.onDeck_deck_self], hconf, hroom, ?_, ?_, ?_⟩ ?_
  · rw [State.onDeck_deck_self]; exact hring
  · rw [State.onDeck_deck_self]; exact hbeside
  · rw [State.onDeck_deck_self]; exact hun
  · exact (examineHead_of_halt_ended hs hc hh habort ho).trans
      ((completeFromEngine_of_held s n h hor).trans (congrArg (State.completeRecord · n _ r) hlooked.symm))

/-- HALT on a claimed deck of a running event aborts it (R66). -/
theorem settleDecks_of_halt_running (hc : s.claimed n = true) (hh : h.command = .motion .halt)
    (hr : s.engine.state.running = true) (ho : s.engine.haltOutcome.get n = none) :
    s.settleDecks.engine.state = .aborting ∧ s.settleDecks.engine.abortCode = some .hostHalt ∧
      (s.settleDecks.deck n).list =
        { (s.deck n).list with queue := [{ h with status := .engine }], examine := false } ∧
      s.abandonsWritten s.settleDecks := by
  have hr' : (s.haltHeld n h).engine.state.running = true := hr
  have haside := abort_aside .hostHalt hr'
  have hwrites := abort_writes .hostHalt hr'
  obtain ⟨t, ht⟩ : ∃ t, (s.haltHeld n h).abort .hostHalt = t := ⟨_, rfl⟩
  rw [ht] at haside hwrites
  obtain ⟨heq, hlist⟩ := settleDecks_of_halt_open hs hc hh ht (by rw [haside.engine]; exact ho)
  rw [heq]
  exact ⟨by rw [haside.engine]; rfl, by rw [haside.engine]; rfl, hlist, hwrites.congr rfl rfl rfl rfl⟩

end

/-- Settles O29. -/
theorem headsAreExaminedByTheTable : Obligations.HeadsAreExaminedByTheTable := by
  intro s n d h ended hfree hothers hd hq hw hr he hdown hconf hring hroom hm hbeside hunposted hended
  subst hd
  have hs : HeadDue s n h :=
    ⟨⟨hfree, hothers, hdown, hr, he⟩, hw, ⟨hq, hconf, hroom, hring, hbeside, hunposted⟩⟩
  obtain rfl : ended = fun u r => u.ended n h r := funext fun u => funext fun r => hended u r
  have hlooked (c : LinkCommand) (hp : (∀ k, c ≠ .punchIn k) ∨ (s.deck n).settings.role = .recorder) :
      (∀ k, c ≠ .punchIn k) ∨ ((s.looked n).deck n).settings.role = .recorder := by rw [looked_deck_self]; exact hp
  refine ⟨fun c hc hcmd => ⟨fun ⟨k, hk⟩ hrole => ?_,
      fun hp => ⟨fun hl => ?_, fun hl => ⟨fun ho => ?_, fun ho hk => ?_⟩⟩⟩,
    fun master offset origin hc hcmd hk => settleDecks_of_chase hs hc hcmd hk, fun hc hcmd =>
      ⟨fun ho => settleDecks_of_unchase_off hs hc hcmd ho, fun ho hk => ?_⟩, fun hcmd => ?_,
    fun hc hnh hnf => ?_, fun hc hcmd hrun hout => settleDecks_of_halt_running hs hc hcmd hrun hout,
    fun hc hcmd hrun u hu => ⟨fun hout => ?_, fun o r hout hor => ?_⟩⟩
  · exact settleDecks_of_motion hs hc hcmd
      (examineMotion_of_punch (s := s.looked n) hk (by rw [looked_deck_self]; exact hrole))
  · exact settleDecks_of_motion hs hc hcmd
      (examineMotion_of_lost (s := s.looked n) (hlooked c hp) (by rw [looked_deck_self]; exact hl))
  · exact settleDecks_of_examined hs.toExaminable (examineHead_of_sendable hs.head.1 hs.head.2 hcmd hc hp.symm hl ho)
      (by rw [State.listAtRest, State.onList_deck_self]; exact ⟨hr, rfl⟩)
      (fun m => by rw [State.onList, State.onDeck_deck]; split <;> exact hfree _)
      fun m hm => by rw [State.onList_deck_ne _ _ hm]
  · rw [settleDecks_of_sendable hs hc hcmd hp.symm hl ho hk]
    refine State.onDeck_congr ?_
    rw [DeckUnit.chaseEnded, if_neg ho]
    rfl
  · rw [settleDecks_of_unchase hs hc hcmd ho hk]
    refine congrArg (State.ended · n h _) (State.onDeck_congr ?_)
    rw [DeckUnit.chaseEnded, if_neg ho]
  · exact settleDecks_of_done hs (g := fun d => { d with capture := .empty }) rfl rfl rfl
      (examineHead_clearFault hq hw hcmd)
  · exact settleDecks_of_refused hs (examineHead_of_claimed hq hw hc hnh hnf)
  · rw [hu]
    exact (settleDecks_of_halt_open hs hc hcmd (abort_of_rest (s := s.haltHeld n h) _ hrun) hout).1
  · rw [hu]
    exact settleDecks_of_halt_ended hs hc hcmd hrun hout hor

end Sys2Proof.Machine
end

section
/-!
PROOFS. The handling of a port at an acceptance (Table 2-8), and what it ends.
-/

namespace Sys2Proof.Machine

variable {s t u v : State} {n m : Deck} {p : PortSettings}

/-! ## The port's two sides -/

/-- A deck whose port restarts with new settings (R33). -/
def DeckUnit.restarted (p : PortSettings) (d : DeckUnit) : DeckUnit :=
  { d with
    port := p
    tx := .enabled p.txEnable
    rx := .restarted p.rxEnable
    link := { d.link with assembly := [], judged := none } }

/-- A deck whose port takes new settings without a restart (R30, R31). -/
def DeckUnit.portSet (p : PortSettings) (d : DeckUnit) : DeckUnit :=
  { d with
    port := p
    tx := if d.port.txEnable = p.txEnable then d.tx else .enabled p.txEnable
    rx := if d.port.rxEnable = p.rxEnable then d.rx else d.rx.enabled p.rxEnable }

/-- Deck `n`'s link entered anew, by its transmit enable. -/
def State.reenter (s : State) (n : Deck) (on : Bool) : State :=
  if on then s.enterProbing n else s.enterAbsent n

theorem Transmitter.enabled_eq (on : Bool) :
    Transmitter.enabled on = ⟨if on = true then .idle else .off, none, none, []⟩ := by
  cases on <;> rfl

/-- A port restarts when it was enabled and a line setting changes (R32). -/
theorem PortSettings.restarts_iff (old p : PortSettings) :
    (old.enabled = true ∧ (!old.sameLine p) = true) ↔ (old.txEnable = true ∨ old.rxEnable = true) ∧
      (old.rate ≠ p.rate ∨ old.parity ≠ p.parity ∨ old.twoStopBits ≠ p.twoStopBits ∨
        old.parityTrust ≠ p.parityTrust) := by
  unfold PortSettings.enabled PortSettings.sameLine
  rw [Bool.or_eq_true, Bool.not_eq_true', Bool.and_eq_false_iff, Bool.and_eq_false_iff, Bool.and_eq_false_iff,
    beq_eq_false_iff_ne, beq_eq_false_iff_ne, beq_eq_false_iff_ne, beq_eq_false_iff_ne, or_assoc, or_assoc]

theorem configurePort_of_restart (hr : (s.deck n).port.enabled = true ∧ (!(s.deck n).port.sameLine p) = true) :
    s.configurePort n p = (s.onDeck n (DeckUnit.restarted p)).reenter n p.txEnable := by
  unfold State.configurePort
  exact if_pos hr

theorem receiver_set (s : State) (n : Deck) (p : PortSettings) :
    (if (s.deck n).port.rxEnable = p.rxEnable then s.onDeck n fun d => { d with port := p }
      else (s.onDeck n fun d => { d with port := p }).onRx n fun r => r.enabled p.rxEnable) =
      s.onDeck n fun d =>
        { d with port := p, rx := if d.port.rxEnable = p.rxEnable then d.rx else d.rx.enabled p.rxEnable } := by
  split
  · next h => exact State.onDeck_congr (by rw [if_pos h])
  · next h =>
    unfold State.onRx
    rw [State.onDeck_onDeck]
    exact State.onDeck_congr (by rw [if_neg h])

theorem configurePort_of_kept (hr : ¬((s.deck n).port.enabled = true ∧ (!(s.deck n).port.sameLine p) = true))
    (ht : (s.deck n).port.txEnable = p.txEnable) : s.configurePort n p = s.onDeck n (DeckUnit.portSet p) := by
  unfold State.configurePort
  extract_lets old a b
  rw [if_neg hr, if_pos ht]
  refine (receiver_set s n p).trans (State.onDeck_congr ?_)
  unfold DeckUnit.portSet
  rw [if_pos ht]

theorem configurePort_of_changed (hr : ¬((s.deck n).port.enabled = true ∧ (!(s.deck n).port.sameLine p) = true))
    (ht : (s.deck n).port.txEnable ≠ p.txEnable) :
    s.configurePort n p = (s.onDeck n (DeckUnit.portSet p)).reenter n p.txEnable := by
  unfold State.configurePort
  extract_lets old a b
  rw [if_neg hr, if_neg ht]
  have hb : b.onTx n (fun _ => .enabled p.txEnable) = s.onDeck n (DeckUnit.portSet p) := by
    have hreceiver : b = _ := receiver_set s n p
    rw [hreceiver]
    unfold State.onTx
    rw [State.onDeck_onDeck]
    refine State.onDeck_congr ?_
    unfold DeckUnit.portSet
    rw [if_neg ht]
  unfold State.changeTransmit
  rw [hb]
  rfl

/-! ## What the change cuts off -/

/-- Deck `n`'s exchange cut off and its pending seek ended (R31, R33). -/
def State.cutOff (s : State) (n : Deck) : State := (s.cutExchange n).endSeek n (some .portRestart)

/-- A link PROBING anew (R31, R52). -/
def DeckUnit.probing (d : DeckUnit) : DeckUnit :=
  { d with link := { d.link with state := .probing, pollTimer := loadTimer d.settings.pollInterval, judged := none } }

/-- A deck whose link has become ABSENT (R48, R52, R72, R86). -/
def DeckUnit.absent (d : DeckUnit) : DeckUnit :=
  { d with
    link := { d.link with state := .absent, pollTimer := none, pollPending := false, judged := none }
    arbiter := { d.arbiter with trim := none, positionRequest := false }
    tracker := d.tracker.linkLost }

theorem reenter_absent_deck (s : State) (n : Deck) :
    ((s.reenter n false).deck n).link.state = .absent ∧ ((s.reenter n false).deck n).chase.state = .off := by
  have heq : s.reenter n false = (((s.cutOff n).onDeck n DeckUnit.absent).endChase n).examineSoon n := rfl
  have hdeck : ((((s.cutOff n).onDeck n DeckUnit.absent).endChase n).deck n) =
      (((s.cutOff n).deck n).absent).chaseEnded := by
    rw [endChase_deck, if_pos rfl, State.onDeck_deck_self]
  rw [heq, State.examineSoon, State.onList_deck_self, hdeck]
  exact ⟨DeckUnit.chaseEnded_linkState _, DeckUnit.chaseEnded_chase _⟩

theorem reenter_probing (s : State) (n : Deck) : s.reenter n true = (s.cutOff n).onDeck n DeckUnit.probing := rfl

theorem reenter_absent (ho : ((s.cutOff n).deck n).chase.state = .off) :
    s.reenter n false = (s.cutOff n).onDeck n fun d => { d.absent with list := { d.list with examine := true } } := by
  have hoff : (((s.cutOff n).onDeck n DeckUnit.absent).deck n).chase.state = .off := by
    rw [State.onDeck_deck_self]
    exact ho
  change (((s.cutOff n).onDeck n DeckUnit.absent).endChase n).examineSoon n = _
  rw [endChase_of_off hoff]
  unfold State.examineSoon State.onList
  rw [State.onDeck_onDeck]
  rfl

/-- A link with its exchange cut off. -/
def Link.cut (l : Link) : Link := { l with exchange := none, failures := 0, judged := none }

theorem cutExchange_of_none (hx : (s.deck n).link.exchange = none) : s.cutExchange n = s := by
  simp only [State.cutExchange, hx]

theorem cutExchange_of_host {e : Exchange} {h : HeldRecord} (hx : (s.deck n).link.exchange = some e)
    (hq : e.requester = .host) (hk : (s.deck n).list.chosen = some h) :
    s.cutExchange n =
      ((s.onLink n Link.cut).completeRecord n h ⟨false, 0, 0, .portRestart, 0⟩).offerDeck n 3 .portRestart 0 := by
  have hk' : ((s.onLink n Link.cut).deck n).list.chosen = some h := by rw [State.onLink_deck_self]; exact hk
  have hfault : (s.onLink n Link.cut).hostFaulted n .portRestart =
      (s.onLink n Link.cut).completeRecord n h ⟨false, 0, 0, .portRestart, 0⟩ := by
    simp only [State.hostFaulted, hk', HostResult.failed]
  rw [← hfault]
  simp only [State.cutExchange, hx, hq]
  rfl

theorem cutOff_of_idle (hx : (s.deck n).link.exchange = none) (hk : (s.deck n).link.seek = none) :
    s.cutOff n = s := by
  rw [State.cutOff, cutExchange_of_none hx, endSeek_of_none hk]

/-- The deck after a host record cut off has completed, its fault offered. -/
theorem cutOff_of_host {e : Exchange} {h : HeldRecord} (hx : (s.deck n).link.exchange = some e)
    (hq : e.requester = .host) (hk : (s.deck n).list.chosen = some h) (hseek : (s.deck n).link.seek = none) :
    s.cutOff n =
      ((s.onLink n Link.cut).completeRecord n h ⟨false, 0, 0, .portRestart, 0⟩).offerDeck n 3 .portRestart 0 := by
  rw [State.cutOff, cutExchange_of_host hx hq hk, endSeek_of_none]
  rw [State.offerDeck, State.onDeck_deck_self, completeRecord_deck, if_pos rfl, State.onLink_deck_self]
  exact hseek

theorem cutOff_of_host_seek {q : PendingSeek} {h : HeldRecord} (hx : (s.deck n).link.exchange = none)
    (hs : (s.deck n).link.seek = some q) (hq : q.requester = .host) (hk : (s.deck n).list.seeking = some h) :
    s.cutOff n = (s.onLink n Link.unsought).completeRecord n h ⟨false, 0x40, 0, .portRestart, 0⟩ := by
  rw [State.cutOff, cutExchange_of_none hx, endSeek_of_some hs, tellSeek_host hq,
    hostSeekEnd_failed (by rw [State.onLink_deck_self]; exact hk)]

theorem cutOff_of_chase_seek {q : PendingSeek} (hx : (s.deck n).link.exchange = none)
    (hs : (s.deck n).link.seek = some q) (hq : q.requester = .chase)
    (hv : q.live = true → (s.deck n).chase.seek ≠ none) :
    s.cutOff n = (s.onLink n Link.unsought).onChase n fun c =>
      if q.live = true then { c with seek := none, lastSpeed := none } else c := by
  rw [State.cutOff, cutExchange_of_none hx, endSeek_of_some hs,
    tellSeek_chase_failed hq (by rw [State.onLink_deck_self]; exact hv)]
  rfl

/-! ## The deck that is cut off -/

/-- A deck change that leaves what the cut-off looks at. -/
structure PortOnly (g : DeckUnit → DeckUnit) : Prop where
  exchange : ∀ d, (g d).link.exchange = d.link.exchange
  seek : ∀ d, (g d).link.seek = d.link.seek
  list : ∀ d, (g d).list = d.list
  chase : ∀ d, (g d).chase = d.chase
  settings : ∀ d, (g d).settings = d.settings

theorem DeckUnit.restarted_portOnly (p : PortSettings) : PortOnly (DeckUnit.restarted p) :=
  ⟨fun _ => rfl, fun _ => rfl, fun _ => rfl, fun _ => rfl, fun _ => rfl⟩

theorem DeckUnit.portSet_portOnly (p : PortSettings) : PortOnly (DeckUnit.portSet p) :=
  ⟨fun _ => rfl, fun _ => rfl, fun _ => rfl, fun _ => rfl, fun _ => rfl⟩

/-- What stands after the cut-off `w`, by the transmit enable: PROBING with its timer loaded, or ABSENT. -/
theorem reenter_eq {w : State} (hw : s.cutOff n = w) {on : Bool} {after : State → State} {interval : Nat}
    (hon : on = true → ∀ u, after u = u.onLink n fun l =>
      { l with state := .probing, pollTimer := if interval = 0 then none else some interval, judged := none })
    (hoff : on = false → ∀ u, after u = u.onDeck n fun d => { d.absent with list := { d.list with examine := true } })
    (hi : (w.deck n).settings.pollInterval = interval) (hc : on = true ∨ (w.deck n).chase.state = .off) :
    s.reenter n on = after w := by
  cases on with
  | true =>
    rw [hon rfl, reenter_probing, hw]
    refine State.onDeck_congr ?_
    unfold DeckUnit.probing
    rw [hi]
    rfl
  | false =>
    have ho : (w.deck n).chase.state = .off := hc.resolve_left Bool.false_ne_true
    rw [hoff rfl, reenter_absent (by rw [hw]; exact ho), hw]

/-- The four ways a link entered anew is left by what it cut off (R31, R33, R51, R103). -/
theorem reenter_cases {on : Bool} {after : State → State}
    (hon : on = true → ∀ u, after u = u.onLink n fun l =>
      { l with
        state := .probing
        pollTimer := if (s.deck n).settings.pollInterval = 0 then none else some (s.deck n).settings.pollInterval
        judged := none })
    (hoff : on = false → ∀ u, after u = u.onDeck n fun d => { d.absent with list := { d.list with examine := true } })
    (hc : on = true ∨ (s.deck n).chase.state = .off) :
    ((s.deck n).link.exchange = none → (s.deck n).link.seek = none → s.reenter n on = after s) ∧
    (∀ e h, (s.deck n).link.exchange = some e → e.requester = .host → (s.deck n).list.chosen = some h →
      (s.deck n).link.seek = none → s.reenter n on = after
        (((s.onLink n Link.cut).completeRecord n h ⟨false, 0, 0, .portRestart, 0⟩).offerDeck n 3 .portRestart 0)) ∧
    (∀ q h, (s.deck n).link.exchange = none → (s.deck n).link.seek = some q → q.requester = .host →
      (s.deck n).list.seeking = some h → s.reenter n on = after
        ((s.onLink n Link.unsought).completeRecord n h ⟨false, 0x40, 0, .portRestart, 0⟩)) ∧
    (∀ q, (s.deck n).link.exchange = none → (s.deck n).link.seek = some q → q.requester = .chase →
      (q.live = true → (s.deck n).chase.seek ≠ none) → s.reenter n on = after
        ((s.onLink n Link.unsought).onChase n fun c =>
          if q.live = true then { c with seek := none, lastSpeed := none } else c)) := by
  refine ⟨fun hx hk => ?_, fun e h hx hq hk hs => ?_, fun q h hx hs hq hk => ?_, fun q hx hs hq hv => ?_⟩
  · exact reenter_eq (cutOff_of_idle hx hk) hon hoff rfl hc
  · have hdeck : ((((s.onLink n Link.cut).completeRecord n h ⟨false, 0, 0, .portRestart, 0⟩).offerDeck n 3
        .portRestart 0).deck n).settings = (s.deck n).settings ∧
        ((((s.onLink n Link.cut).completeRecord n h ⟨false, 0, 0, .portRestart, 0⟩).offerDeck n 3
          .portRestart 0).deck n).chase = (s.deck n).chase := by
      rw [State.offerDeck, State.onDeck_deck_self, completeRecord_deck, if_pos rfl, State.onLink_deck_self]
      exact ⟨rfl, rfl⟩
    exact reenter_eq (cutOff_of_host hx hq hk hs) hon hoff (by rw [hdeck.1]) (by rw [hdeck.2]; exact hc)
  · have hdeck : (((s.onLink n Link.unsought).completeRecord n h ⟨false, 0x40, 0, .portRestart, 0⟩).deck n).settings =
        (s.deck n).settings ∧
        (((s.onLink n Link.unsought).completeRecord n h ⟨false, 0x40, 0, .portRestart, 0⟩).deck n).chase =
          (s.deck n).chase := by
      rw [completeRecord_deck, if_pos rfl, State.onLink_deck_self]
      exact ⟨rfl, rfl⟩
    exact reenter_eq (cutOff_of_host_seek hx hs hq hk) hon hoff (by rw [hdeck.1]) (by rw [hdeck.2]; exact hc)
  · refine reenter_eq (cutOff_of_chase_seek hx hs hq hv) hon hoff ?_ ?_
    · rw [State.onChase_deck_self, State.onLink_deck_self]
    · rw [State.onChase_deck_self, State.onLink_deck_self]
      refine hc.imp_right fun ho => ?_
      change (if q.live = true then _ else _ : Chase).state = .off
      split <;> exact ho

/-- The effects port takes its settings: nothing changes, or it restarts or starts afresh (R34, R152). -/
theorem configureEffects_cases (s : State) (p : PortSettings) :
    (s.ep.port = p → s.configureEffects p = s) ∧
    (s.ep.port ≠ p → s.ep.port.enabled = true → s.configureEffects p =
      { s with ep := ⟨p, .enabled p.txEnable⟩, generator := { s.generator with inProgress := false } }) ∧
    (s.ep.port ≠ p → s.ep.port.enabled = false → s.configureEffects p = { s with ep := ⟨p, .enabled p.txEnable⟩ }) := by
  unfold State.configureEffects
  refine ⟨fun h => if_pos h, fun h he => ?_, fun h he => ?_⟩
  · exact (if_neg h).trans (if_pos he)
  · exact (if_neg h).trans (if_neg (by rw [he]; exact Bool.false_ne_true))

/-- Settles O19. -/
theorem portRestartsAndReceiveEnable : Obligations.PortRestartsAndReceiveEnable := by
  refine ⟨fun s n old p start after restart hold hrestart hstart hkept hon hoff => ?_, fun s p => ?_⟩
  · subst hold
    have hiff := (PortSettings.restarts_iff (s.deck n).port p).trans hrestart.symm
    obtain ⟨g, hg, hs, hentered⟩ : ∃ g, PortOnly g ∧ start = s.onDeck n g ∧
        ((restart ∨ (s.deck n).port.txEnable ≠ p.txEnable) →
          s.configurePort n p = (s.onDeck n g).reenter n p.txEnable) := by
      by_cases hr : restart
      · exact ⟨_, DeckUnit.restarted_portOnly p,
          (hstart hr).trans (by simp only [← Transmitter.enabled_eq]; rfl),
          fun _ => configurePort_of_restart (hiff.mpr hr)⟩
      · exact ⟨_, DeckUnit.portSet_portOnly p,
          (hkept hr).trans (State.onDeck_congr (by simp only [← Transmitter.enabled_eq]; rfl)),
          fun ht => configurePort_of_changed (mt hiff.mp hr) (ht.resolve_left hr)⟩
    have hdeck : start.deck n = g (s.deck n) := by rw [hs, State.onDeck_deck_self]
    refine ⟨fun hr ht => ?_, fun h => ⟨fun htx => ?_, fun hc => ?_⟩⟩
    · rw [hkept hr, configurePort_of_kept (mt hiff.mp hr) ht]
      exact State.onDeck_congr (by simp only [← Transmitter.enabled_eq]; rfl)
    · rw [hentered h, htx]
      exact reenter_absent_deck _ n
    · have hcases := reenter_cases (s := start) (n := n) (on := p.txEnable) (after := after)
        (by rw [hdeck, hg.settings]; exact hon) hoff (by rw [hdeck, hg.chase]; exact hc)
      rw [hdeck, hg.exchange, hg.seek, hg.list, hg.chase] at hcases
      rw [hentered h, ← hs]
      exact hcases
  · obtain ⟨hsame, hrestarted, hfresh⟩ := configureEffects_cases s p
    simp only [Transmitter.enabled_eq] at hrestarted hfresh
    exact ⟨hsame, fun h he => hrestarted h (by simp [PortSettings.enabled, he]),
      fun h ht hr => hfresh h (by simp [PortSettings.enabled, ht, hr])⟩

end Sys2Proof.Machine
end

section
/-!
PROOFS. A configuration accepted (R188 to R190): what the ports leave of the rest of the part, what every block takes.
-/

namespace Sys2Proof.Machine

variable {s t u v : State} {n m : Deck}

/-! ## Acts that leave the units and, with nothing held, the command lists -/

/-- What of the engine says whether an event is taken and where the next take looks. -/
def Engine.uptake (e : Engine) : EngineState × Option (Fin 64) × Fin 64 × Bool :=
  (e.state, e.takenSlot, e.nextEvent, e.deferred)

/-- What of a deck says what its command list holds, apart from the examination of its head. -/
def DeckUnit.holding (d : DeckUnit) : List HeldRecord × Bool × Fin 16 × Bool × Bool :=
  (d.list.queue, d.list.rescan, d.list.nextSlot, d.list.deferred, d.link.downDue)

/-- Nothing is held in a queue and no event is taken. -/
def State.bare (s : State) : Prop := s.engine.takenSlot = none ∧ ∀ n, (s.deck n).list.queue = []

/-- The mark unit, the GPI unit, the log, the attention bits and the engine's uptake stay; with nothing held and no
event taken, suite memory and the command lists do as well. -/
structure Sides (s t : State) : Prop where
  marks : t.marks = s.marks
  gpi : t.gpi = s.gpi
  log : t.log = s.log
  attention : t.iface.attention = s.iface.attention
  engine : t.engine.uptake = s.engine.uptake
  mem : s.bare → t.mem = s.mem
  lists : s.bare → ∀ n, (t.deck n).holding = (s.deck n).holding

theorem Sides.refl (s : State) : Sides s s := ⟨rfl, rfl, rfl, rfl, rfl, fun _ => rfl, fun _ _ => rfl⟩

theorem Sides.state (h : Sides s t) : t.engine.state = s.engine.state := congrArg Prod.fst h.engine

theorem Sides.takenSlot (h : Sides s t) : t.engine.takenSlot = s.engine.takenSlot :=
  congrArg (fun x => x.2.1) h.engine

theorem Sides.queue (h : Sides s t) (hs : s.bare) (n : Deck) : (t.deck n).list.queue = (s.deck n).list.queue :=
  congrArg Prod.fst (h.lists hs n)

theorem Sides.bare (h : Sides s t) (hs : s.bare) : t.bare :=
  ⟨h.takenSlot.trans hs.1, fun n => (h.queue hs n).trans (hs.2 n)⟩

theorem Sides.trans (h : Sides s t) (k : Sides t u) : Sides s u :=
  ⟨k.marks.trans h.marks, k.gpi.trans h.gpi, k.log.trans h.log, k.attention.trans h.attention, k.engine.trans h.engine,
    fun hs => (k.mem (h.bare hs)).trans (h.mem hs), fun hs n => (k.lists (h.bare hs) n).trans (h.lists hs n)⟩

theorem Sides.ite {c : Prop} [Decidable c] (h : Sides s t) (k : Sides s u) : Sides s (if c then t else u) := by
  split <;> assumption

theorem Sides.eachDeck (h : Sides s t) {f : Deck → State → State} (hf : ∀ n u, Sides s u → Sides s (f n u)) :
    Sides s (t.eachDeck f) := by
  simp only [State.eachDeck]
  exact hf _ _ (hf _ _ (hf _ _ (hf _ _ (hf _ _ (hf _ _ h)))))

theorem Sides.onDeck (h : Sides s t) (n : Deck) {f : DeckUnit → DeckUnit} (hf : ∀ d, (f d).holding = d.holding) :
    Sides s (t.onDeck n f) := by
  refine h.trans ⟨rfl, rfl, rfl, rfl, rfl, fun _ => rfl, fun _ m => ?_⟩
  rw [State.onDeck_deck]
  split
  · next hm => rw [hm]; exact hf _
  · rfl

theorem Sides.onChase (h : Sides s t) (n : Deck) (f : Chase → Chase) : Sides s (t.onChase n f) :=
  h.onDeck n fun _ => rfl

theorem Sides.onArbiter (h : Sides s t) (n : Deck) (f : Arbiter → Arbiter) : Sides s (t.onArbiter n f) :=
  h.onDeck n fun _ => rfl

theorem Sides.onTracker (h : Sides s t) (n : Deck) (f : Tracker → Tracker) : Sides s (t.onTracker n f) :=
  h.onDeck n fun _ => rfl

theorem Sides.onLink (h : Sides s t) (n : Deck) {f : Link → Link} (hf : ∀ l, (f l).downDue = l.downDue) :
    Sides s (t.onLink n f) := h.onDeck n fun d => by simp only [DeckUnit.holding, hf]

theorem Sides.offerDeck (h : Sides s t) (n : Deck) (x : Nat) (c : FaultCode) (o : Nat) :
    Sides s (t.offerDeck n x c o) := h.onDeck n fun _ => rfl

theorem Sides.raise (h : Sides s t) (c : Cause) : Sides s (t.raise c) :=
  h.trans ⟨rfl, rfl, rfl, rfl, rfl, fun _ => rfl, fun _ _ => rfl⟩

theorem Sides.onGenerator (h : Sides s t) (f : Generator → Generator) : Sides s (t.onGenerator f) :=
  h.trans ⟨rfl, rfl, rfl, rfl, rfl, fun _ => rfl, fun _ _ => rfl⟩

theorem Sides.onEngine (h : Sides s t) {f : Engine → Engine} (hf : (f t.engine).uptake = t.engine.uptake) :
    Sides s (t.onEngine f) := h.trans ⟨rfl, rfl, rfl, rfl, hf, fun _ => rfl, fun _ _ => rfl⟩

theorem Sides.examineSoon (h : Sides s t) (n : Deck) : Sides s (t.examineSoon n) :=
  h.onDeck n (f := fun d => { d with list := { d.list with examine := true } }) fun _ => rfl

theorem Sides.moveChase (h : Sides s t) (n : Deck) (f : Chase → Chase) : Sides s (t.moveChase n f) :=
  ((h.onChase n f).raise _).ite (h.onChase n f)

theorem Sides.endChase (h : Sides s t) (n : Deck) : Sides s (t.endChase n) :=
  h.ite (((h.moveChase n _).onLink n (f := Link.dropChase) fun _ => rfl).onArbiter n _)

/-! ## What a record or an event held would change -/

theorem limitFault_attention (s : State) (a : Nat) : (s.limitFault a).iface.attention = s.iface.attention := by
  change (s.offerDevice 4 .memoryLimit (max a s.iface.limit)).iface.attention = _
  unfold State.offerDevice State.writeDevice
  split
  · extract_lets
    split <;> rfl
  · rfl

theorem writeMem_attention (s : State) (a : Nat) (bs : List Byte) :
    (s.writeMem a bs).2.iface.attention = s.iface.attention := by
  unfold State.writeMem
  split
  · rfl
  · exact limitFault_attention s a

theorem writeAll_attention (s : State) (ws : List (Nat × List Byte)) :
    (s.writeAll ws).2.iface.attention = s.iface.attention := by
  induction ws generalizing s with
  | nil => rfl
  | cons w ws ih =>
    have hw := writeMem_attention s w.1 w.2
    unfold State.writeAll
    split
    · next e => rw [e] at hw; exact (ih _).trans hw
    · next e => rw [e] at hw; exact hw

theorem Aside.sides (h : Aside s t) (ha : t.iface.attention = s.iface.attention) (hb : ¬s.bare) : Sides s t :=
  ⟨h.marks, h.gpi, h.log, ha, by rw [h.engine], fun k => absurd k hb, fun k => absurd k hb⟩

theorem Sides.completeRecord (h : Sides s t) {n : Deck} (hq : (t.deck n).list.queue ≠ []) (x : HeldRecord)
    (r : HostResult) : Sides s (t.completeRecord n x r) := by
  refine h.trans ((completeRecord_aside t n x r).sides ?_ fun hb => hq (hb.2 n))
  have hw := writeAll_attention t [(x.offset + 4, r.bytes t.F), (x.offset + 2, half x.tag.toNat),
    (x.offset, [byte (if r.done then 3 else 4)])]
  unfold State.completeRecord
  extract_lets a
  have ha : a.iface.attention = t.iface.attention := by
    unfold a
    split
    · next e => rw [e] at hw; exact hw
    · next e => rw [e] at hw; exact hw
  exact (congrArg Interface.attention (rfl : (a.onList n fun l => l.remove x).iface = a.iface)).trans ha

/-- A progress write with no event running. -/
theorem Sides.progress (h : Sides s t) (hr : t.engine.state.running = false) (fields : List (Nat × List Byte)) :
    Sides s (t.progress fields) := by
  refine h.trans ?_
  unfold State.progress
  split
  · exact .refl t
  · next slot hslot =>
    have hb : ¬t.bare := fun hb => by rw [hb.1] at hslot; cases hslot
    have haside := (Aside.refl t).writeAll (t.resultWrites slot fields)
    have hsides := haside.sides (writeAll_attention t _) hb
    split
    · exact .refl t
    · split
      · next e => rw [e] at hsides; exact hsides
      · next e =>
        rw [e] at hsides haside
        rw [abort_of_rest _ (by rw [haside.engine]; exact hr)]
        exact hsides

theorem EngineState.running_of_atRest : ∀ x : EngineState, x.atRest = true → x.running = false := by
  intro x
  cases x <;> decide

theorem tryComplete_of_atRest (hr : t.engine.state.atRest = true) : t.tryComplete = t := by
  unfold State.tryComplete
  extract_lets e
  have hab : e.state ≠ .aborting := fun he => by rw [show t.engine.state = _ from he] at hr; cases hr
  have hen : e.state ≠ .ending := fun he => by rw [show t.engine.state = _ from he] at hr; cases hr
  rw [if_neg (c := _ ∧ _) fun k => hen k.1, if_neg hab, ite_self]

/-! ## What a port cuts off while no event runs -/

section
variable (h : Sides s t) (hr : t.engine.state.atRest = true)
include h

theorem Sides.hostFaulted (n : Deck) (c : FaultCode) : Sides s (t.hostFaulted n c) := by
  unfold State.hostFaulted
  split
  · exact h
  · next hk => exact h.completeRecord (fun hq => by simp [CommandList.chosen, hq] at hk) _ _

theorem Sides.hostSeekEnd (n : Deck) (c : FaultCode) : Sides s (t.hostSeekEnd n (some c)) := by
  unfold State.hostSeekEnd
  split
  · exact h
  · next hk => exact h.completeRecord (fun hq => by simp [CommandList.seeking, hq] at hk) _ _

theorem Sides.chaseSeekFailed (n : Deck) (q : PendingSeek) (b : Bool) : Sides s (t.chaseSeekFailed n q b) :=
  (h.onChase n _).ite h

theorem Sides.completeFromEngine (n : Deck) (c : FaultCode) : Sides s (t.completeFromEngine n (.faulted c)) := by
  unfold State.completeFromEngine
  split
  · exact h
  · next hk => exact h.completeRecord (fun hq => by simp [hq] at hk) _ _

include hr

theorem Sides.haltEnded (n : Deck) (c : FaultCode) : Sides s (t.haltEnded n (.faulted c)) := by
  have hen : t.engine.state ≠ .ending := fun he => by rw [he] at hr; cases hr
  unfold State.haltEnded
  extract_lets a b
  have ha : a = t := by
    unfold a
    split
    · next he _ => exact absurd he hen
    · next he _ => exact absurd he hen
    · rfl
  have hb : Sides s b := by
    unfold b
    rw [ha]
    exact h.onEngine rfl
  have hstate : b.engine.state = t.engine.state := by unfold b; rw [ha]; rfl
  clear_value b
  have hc := hb.completeFromEngine n c
  rw [tryComplete_of_atRest (by rw [hc.state, ← hb.state, hstate]; exact hr)]
  exact hc

theorem Sides.punchLost (i : PunchId) (st : PunchStatus) (x y : FaultCode) : Sides s (t.punchLost i st x y) := by
  have hp : Sides s ((t.setPunch i st).writePunch i) :=
    Sides.progress (t := t.setPunch i st) (h.onEngine rfl) (EngineState.running_of_atRest _ hr) _
  unfold State.punchLost
  extract_lets a
  change Sides s a at hp
  clear_value a
  have hra : a.engine.state.atRest = true := by rw [hp.state, ← h.state]; exact hr
  have hen : a.engine.state ≠ .ending := fun he => by rw [he] at hra; cases hra
  rw [EngineState.running_of_atRest _ hra, if_neg Bool.false_ne_true, if_neg hen]
  exact hp

theorem Sides.engineOutcome (n : Deck) (x : LinkCommand) (p : Option PunchId) (c : FaultCode) :
    Sides s (t.engineOutcome n x p (.faulted c)) := by
  have hen : t.engine.state ≠ .ending := fun he => by rw [he] at hr; cases hr
  unfold State.engineOutcome
  split
  · next i =>
    unfold State.punchEnded
    extract_lets a
    have ha : Sides s a := h.punchLost hr i _ _ _
    clear_value a
    have hg : Sides s (a.onGenerator fun g => { g with recordTally := false }) := ha.onGenerator _
    rw [tryComplete_of_atRest (by rw [hg.state, ← h.state]; exact hr)]
    exact hg.ite ha
  · refine (h.haltEnded hr n c).ite ?_
    unfold State.moveEnded
    dsimp only
    rw [if_neg hen, abort_of_rest _ (EngineState.running_of_atRest _ hr)]
    exact h

theorem Sides.cutExchange (n : Deck) : Sides s (t.cutExchange n) := by
  unfold State.cutExchange
  split
  · exact h
  · next e he =>
    extract_lets a b
    have ha : Sides s a := h.onLink n fun _ => rfl
    have hra : a.engine.state.atRest = true := hr
    clear_value a
    refine Sides.offerDeck ?_ n _ _ _
    unfold b
    split
    · exact ha.hostFaulted n _
    · exact (ha.engineOutcome hra n _ _ _).ite ha
    · exact (ha.onChase n _).ite ha
    · exact ha

theorem Sides.endSeek (n : Deck) (c : FaultCode) : Sides s (t.endSeek n (some c)) := by
  cases hq : (t.deck n).link.seek with
  | none => rw [endSeek_of_none hq]; exact h
  | some q =>
    have ha : Sides s (t.onLink n Link.unsought) := h.onLink n fun _ => rfl
    have hen : t.engine.state ≠ .cueing := fun he => by rw [he] at hr; cases hr
    rw [endSeek_of_some hq]
    cases hreq : q.requester with
    | host => rw [tellSeek_host hreq]; exact ha.hostSeekEnd n c
    | engine => rw [tellSeek_engine_idle (s := t.onLink n Link.unsought) hreq (.inr hen)]; exact ha
    | chase =>
      have htell : (t.onLink n Link.unsought).tellSeek n q (some c) =
          (t.onLink n Link.unsought).chaseSeekFailed n q (c == .superseded) := by
        simp only [State.tellSeek, hreq]
      rw [htell]
      exact ha.chaseSeekFailed n q _
    | tracker => simp only [State.tellSeek, hreq]; exact ha
    | poll => simp only [State.tellSeek, hreq]; exact ha

theorem Sides.reenter (n : Deck) (on : Bool) : Sides s (t.reenter n on) := by
  have hx := h.cutExchange hr n
  have hcut : Sides s (t.cutOff n) := hx.endSeek (by rw [hx.state, ← h.state]; exact hr) n _
  cases on with
  | true => exact hcut.onDeck n (f := DeckUnit.probing) fun _ => rfl
  | false => exact ((hcut.onDeck n (f := DeckUnit.absent) fun _ => rfl).endChase n).examineSoon n

theorem Sides.configurePort (n : Deck) (p : PortSettings) : Sides s (t.configurePort n p) := by
  by_cases hs : (t.deck n).port.enabled = true ∧ (!(t.deck n).port.sameLine p) = true
  · rw [configurePort_of_restart hs]
    exact (h.onDeck n (f := DeckUnit.restarted p) fun _ => rfl).reenter hr n _
  · by_cases ht : (t.deck n).port.txEnable = p.txEnable
    · rw [configurePort_of_kept hs ht]
      exact h.onDeck n fun _ => rfl
    · rw [configurePort_of_changed hs ht]
      exact (h.onDeck n (f := DeckUnit.portSet p) fun _ => rfl).reenter hr n _

end

/-! ## The settling with nothing held -/

/-- `Sides`, and every chase keeps its state. -/
structure Unstirred (s t : State) : Prop extends Sides s t where
  chase : ∀ n, (t.deck n).chase.state = (s.deck n).chase.state

theorem Unstirred.refl (s : State) : Unstirred s s := ⟨.refl s, fun _ => rfl⟩

theorem Unstirred.onDeck (h : Unstirred s t) (n : Deck) {f : DeckUnit → DeckUnit}
    (hf : ∀ d, (f d).holding = d.holding) (hc : ∀ d, (f d).chase.state = d.chase.state) :
    Unstirred s (t.onDeck n f) := by
  refine ⟨h.toSides.onDeck n hf, fun m => ?_⟩
  rw [State.onDeck_deck]
  split
  · next hm => rw [hm, hc]; exact h.chase n
  · exact h.chase m

theorem Unstirred.ite {c : Prop} [Decidable c] (h : Unstirred s t) (k : Unstirred s u) :
    Unstirred s (if c then t else u) := by
  split <;> assumption

theorem Unstirred.eachDeck (h : Unstirred s t) {f : Deck → State → State}
    (hf : ∀ n u, Unstirred s u → Unstirred s (f n u)) : Unstirred s (t.eachDeck f) := by
  simp only [State.eachDeck]
  exact hf _ _ (hf _ _ (hf _ _ (hf _ _ (hf _ _ (hf _ _ h)))))

theorem Chase.begun_state (c : Chase) (x : LinkCommand) : (c.begun x).state = c.state := by
  unfold Chase.begun
  cases x <;> rfl

theorem Unstirred.beginFrame (h : Unstirred s t) (n : Deck) (e : Exchange) : Unstirred s (t.beginFrame n e) := by
  unfold State.beginFrame
  extract_lets tag a
  have ha : Unstirred s a := h.onDeck n (fun _ => rfl) fun _ => rfl
  clear_value a
  split
  · exact (ha.onDeck n (f := fun d => { d with chase := d.chase.begun e.command }) (fun _ => rfl)
      fun d => Chase.begun_state d.chase _).ite ha
  · next i _ _ => exact Unstirred.ite ⟨ha.toSides.onEngine rfl, ha.chase⟩ ha
  · exact ha.onDeck n (f := fun d =>
      { d with link := { d.link with pollPending := false, pollTimer := loadTimer d.settings.pollInterval } })
      (fun _ => rfl) fun _ => rfl
  · exact ha

theorem choice_ne_host (hq : (s.deck n).list.queue = []) (h : HeldRecord) (c : LinkCommand) :
    s.choice n ≠ some (.host h c) := by
  have hsource : (s.deck n).list.source = none := by
    simp [CommandList.source, CommandList.blocked, CommandList.head, hq]
  unfold State.choice
  extract_lets d window
  change d.list.source = none at hsource
  rw [hsource, ite_self]
  split
  · split <;> exact fun k => nomatch k
  · split
    · exact fun k => nomatch k
    · next k => exact nomatch k
    · split
      · exact fun k => nomatch k
      · split <;> exact fun k => nomatch k

theorem Unstirred.handOver (h : Unstirred s t) (n : Deck) {c : Choice} (hc : ∀ x k, c ≠ .host x k) :
    Unstirred s (t.handOver n c) := by
  have harb (f : Arbiter → Arbiter) : Unstirred s (t.onArbiter n f) := h.onDeck n (fun _ => rfl) fun _ => rfl
  unfold State.handOver
  extract_lets k
  split
  · exact (harb _).beginFrame n _
  · exact (harb _).beginFrame n _
  · exact absurd rfl (hc _ _)
  · exact (harb _).beginFrame n _
  · exact h.beginFrame n _

section
variable (hs : ListsEmpty s) (hb : s.engine.takenSlot = none)
include hs hb

theorem bare_of_empty : s.bare := ⟨hb, fun n => (hs n).1⟩

theorem Sides.listsEmpty (h : Sides s t) : ListsEmpty t := fun n => by
  have hn := h.lists (bare_of_empty hs hb) n
  simp only [DeckUnit.holding, Prod.mk.injEq] at hn
  obtain ⟨hqueue, hrescan, -, -, hdown⟩ := hn
  rw [hqueue, hrescan, hdown]
  exact hs n

theorem Unstirred.service (h : Unstirred s t) (n : Deck) : Unstirred s (t.service n) := by
  rw [service_of_empty (h.toSides.listsEmpty hs hb)]
  exact h.onDeck n (fun _ => rfl) fun _ => rfl

theorem Unstirred.arbitrate (h : Unstirred s t) (n : Deck) (fuel : Nat) : Unstirred s (t.arbitrate n fuel) := by
  induction fuel generalizing t with
  | zero => exact h
  | succ fuel ih =>
    unfold State.arbitrate
    split
    · split
      · exact h
      · next c hc =>
        have hover := h.handOver n (c := c) fun x k hx =>
          choice_ne_host (h.toSides.listsEmpty hs hb n).1 x k (hx ▸ hc)
        exact (ih (hover.service hs hb n)).ite hover
    · exact h

/-- With nothing held and no event taken the settling only examines heads that are not there and begins exchanges. -/
theorem settleDecks_unstirred : Unstirred s s.settleDecks :=
  ((Unstirred.refl s).eachDeck (f := fun n s => s.service n) fun n _ hu => hu.service hs hb n).eachDeck
    fun n _ hu => hu.arbitrate hs hb n 32

end

end Sys2Proof.Machine
end

section
/-!
PROOFS. The settings every block takes at an acceptance (R188, R190), and what a later acceptance writes.
-/

namespace Sys2Proof.Machine

variable {s t u v : State} {n m : Deck} {d r : List Byte}

/-! ## A take and the sweep leave the trackers, the GPI unit and the log -/

theorem Spares.claim (h : Spares s t) (n : Deck) : Spares s (t.claim n) :=
  ((h.endChase n).onDeck n (f := fun d => { d with link := d.link.overtake }) fun _ => rfl).onList n
    fun l => { l with examine := true }

theorem Spares.offerRunning (h : Spares s t) (n : Deck) (c : LinkCommand) : Spares s (t.offerRunning n c) := by
  unfold State.offerRunning
  split
  · have ho := h.offerEngine n ⟨c, true, none⟩
    split
    · next e => rw [e] at ho; exact ho
    · next e => rw [e] at ho; exact ho.abort _
  · exact h

theorem Spares.offerCue (h : Spares s t) (e : Event) (n : Deck) : Spares s (t.offerCue e n) := h.offerRunning n _

theorem Spares.takeEvent (h : Spares s t) (a : Nat) (e : Event) : Spares s (t.takeEvent a e) := by
  unfold State.takeEvent
  split
  · next e' => exact h.of_writeMem e'
  · next e' =>
    refine Spares.foldl (Spares.onEngine (Spares.foldl (Spares.foldl ((h.of_writeMem e').onEngine _) ?_ _) ?_ _) _) ?_ _
    · exact fun n _ hu => hu.claim n
    · exact fun n _ hu => hu.service n
    · exact fun n _ hu => hu.offerCue e n

theorem Spares.refuseEvent (h : Spares s t) (a : Nat) (r : List Byte) (f : Nat) : Spares s (t.refuseEvent a r f) := by
  unfold State.refuseEvent
  split
  · next e => exact h.of_writeAll e
  · next e => exact ((h.of_writeAll e).raise _).onEngine _

theorem Spares.take (h : Spares s t) : Spares s t.take := by
  unfold State.take
  extract_lets a
  split
  · next e => exact h.of_readMem e
  · next e =>
    have hstate := h.of_readMem e
    split
    · exact hstate
    · split
      · next e' => exact hstate.of_readMem e'
      · next e' =>
        split
        · exact (hstate.of_readMem e').refuseEvent _ _ _
        · exact (hstate.of_readMem e').takeEvent _ _

theorem Spares.attendTake (h : Spares s t) : Spares s t.attendTake :=
  (((h.onIface _).onEngine _).take).ite (h.onIface _)

/-- The GPI unit and the log stay. -/
structure Recording (s t : State) : Prop where
  gpi : t.gpi = s.gpi
  log : t.log = s.log

theorem Recording.refl (s : State) : Recording s s := ⟨rfl, rfl⟩

theorem Recording.trans (h : Recording s t) (k : Recording t u) : Recording s u :=
  ⟨k.gpi.trans h.gpi, k.log.trans h.log⟩

theorem Recording.ite {c : Prop} [Decidable c] (h : Recording s t) (k : Recording s u) :
    Recording s (if c then t else u) := by
  split <;> assumption

theorem Spares.recording (h : Spares s t) : Recording s t := ⟨h.gpi, h.log⟩

theorem Beside.recording (h : Beside s t) : Recording s t := ⟨h.gpi, h.log⟩

theorem Spares.readRecords (h : Spares s t) (a k : Nat) : Spares s (t.readRecords a k).2 := by
  induction k generalizing t a with
  | zero => exact h
  | succ k ih =>
    unfold State.readRecords
    split
    · next e => exact h.of_readMem e
    · next e =>
      have hrest := ih (h.of_readMem e) (a + 16)
      split
      · next e' => rw [e'] at hrest; exact hrest
      · next e' => rw [e'] at hrest; exact hrest

theorem Recording.loadMarks (s : State) : Recording s s.loadMarks := by
  unfold State.loadMarks
  have hread := (Spares.refl s).readRecords (16 * s.iface.bases.mark) 16
  split
  · next e => rw [e] at hread; exact hread.recording
  · next e =>
    rw [e] at hread
    extract_lets x y
    have hy : Recording s y := ⟨hread.gpi, hread.log⟩
    exact hy.trans (Beside.writeAll y _).recording

theorem Recording.evaluateProbe (s : State) : Recording s s.evaluateProbe := by
  unfold State.evaluateProbe
  extract_lets a
  split
  · next e => exact ((Spares.refl s).of_readMem e).recording
  · next e =>
    have hread := (Spares.refl s).of_readMem e
    split
    · next e' => exact (hread.of_writeAll e').recording
    · next e' => exact ((hread.of_writeAll e').raise _).recording

theorem Beside.sweepAll (s : State) (swept : Bool × Bool) (xs : List SweepSlot) : Beside s (s.sweepAll swept xs).2 := by
  induction xs generalizing s swept with
  | nil => exact .refl s
  | cons x xs ih =>
    have hread := Beside.readMem s x.offset 1
    unfold State.sweepAll
    split
    · next e => rw [e] at hread; exact hread
    · next e =>
      rw [e] at hread
      split
      · next w _ =>
        have hwrite := Beside.writeAll w (x.writes w.F)
        split
        · next e' => rw [e'] at hwrite; exact hread.trans hwrite
        · next e' => rw [e'] at hwrite; exact (hread.trans hwrite).trans (ih _ _)
      · exact hread.trans (ih _ _)

theorem Recording.sweep (s : State) : Recording s s.sweep := by
  have hall := (Beside.sweepAll s (false, false) (sweepSlots s.iface.bases)).recording
  unfold State.sweep
  generalize s.sweepAll (false, false) (sweepSlots s.iface.bases) = x at hall ⊢
  obtain ⟨swept, w⟩ := x
  have hcommand : Recording s (if swept.1 = true then w.raise .deckFault else w) :=
    Recording.ite ⟨hall.gpi, hall.log⟩ hall
  exact Recording.ite ⟨hcommand.gpi, hcommand.log⟩ hcommand

theorem Recording.deferredGroups (s : State) : Recording s s.deferredGroups := by
  unfold State.deferredGroups
  extract_lets scanned taken loaded
  have hscanned : Spares s scanned := (Spares.refl s).eachDeck fun n _ hu => ((hu.onList n _).service n).ite hu
  clear_value scanned
  have htaken : Spares s taken := (hscanned.onEngine _).attendTake.ite hscanned
  clear_value taken
  have hloaded : Recording s loaded :=
    Recording.ite ((htaken.onIface _).recording.trans (.loadMarks _)) htaken.recording
  clear_value loaded
  have hcleared : Recording s (loaded.setAttention 12 false) := ⟨hloaded.gpi, hloaded.log⟩
  exact (hcleared.trans (.evaluateProbe _)).ite hloaded

/-! ## The settings taken, block by block -/

/-- The timeline, the suite and the decks with their new settings. -/
def State.described (s : State) (r : List Byte) : State :=
  ({ (s.onTimeline fun t => t.configure (readStandard r) (readRefMode r)) with suite := readSuite r }).eachDeck
    fun n s => s.configureDeck n r

/-- The deck ports with their new settings. -/
def State.ported (s : State) (r : List Byte) : State :=
  (s.described r).eachDeck fun n s => s.configurePort n (readPort r (0x10 + 4 * n.num))

/-- The effects port with its new settings. -/
def State.effected (s : State) (r : List Byte) : State := (s.ported r).configureEffects (readEffectsPort r 0x28)

/-- The poll timers loaded. -/
def State.polled (s : State) (r : List Byte) : State := (s.effected r).eachDeck fun n s => s.loadPollTimer n

/-- What a change of standard ends, ended. -/
def State.standardTaken (s : State) (r : List Byte) : State :=
  if s.standard = (s.polled r).standard then s.polled r else (s.polled r).changeStandard

theorem takeSettings_eq (s : State) (d r : List Byte) : s.takeSettings d r =
    (((s.standardTaken r).onGpi fun g => g.configure r).configureLog d r).onIface fun i =>
      { i with levels := readLevels r, bases := readBases d } := by
  unfold State.takeSettings State.standardTaken State.polled State.effected State.ported State.described
  rfl

theorem eachDeck_settings {f : Deck → State → State} {x : Deck → DeckSettings}
    (hf : ∀ n u, (f n u).standing = { u.standing with settings := u.standing.settings.set n (x n) }) (s : State) :
    (s.eachDeck f).standing = { s.standing with settings := .of x } := by
  simp only [State.eachDeck, hf]
  rfl

theorem eachDeck_ports {f : Deck → State → State} {x : Deck → PortSettings}
    (hf : ∀ n u, (f n u).standing = { u.standing with ports := u.standing.ports.set n (x n) }) (s : State) :
    (s.eachDeck f).standing = { s.standing with ports := .of x } := by
  simp only [State.eachDeck, hf]
  rfl

@[simp] theorem Six.get_of {α : Type} (f : Deck → α) (n : Deck) : (Six.of f).get n = f n := by
  cases n <;> rfl

/-- A change of one deck changes its settings and its port where it does. -/
theorem onDeck_standing (s : State) (n : Deck) (f : DeckUnit → DeckUnit) :
    (s.onDeck n f).standing =
      { s.standing with
        settings := s.standing.settings.set n (f (s.deck n)).settings
        ports := s.standing.ports.set n (f (s.deck n)).port } := by
  have hview {α : Type} (g : DeckUnit → α) : Six.of (fun m => g ((s.onDeck n f).deck m)) =
      (Six.of fun m => g (s.deck m)).set n (g (f (s.deck n))) := by
    refine Six.ext_get fun m => ?_
    rw [Six.get_of, Six.get_set, State.onDeck_deck]
    split
    · next hm => rw [hm]
    · rw [Six.get_of]
  simp only [State.standing, hview DeckUnit.settings, hview DeckUnit.port]
  rfl

theorem standing_ep (s : State) : s.standing.ep = s.ep := rfl

theorem standing_settings (s : State) (n : Deck) : s.standing.settings.get n = (s.deck n).settings := Six.get_of _ n

theorem standing_ports (s : State) (n : Deck) : s.standing.ports.get n = (s.deck n).port := Six.get_of _ n

theorem configureDeck_standing (s : State) (n : Deck) (r : List Byte) :
    (s.configureDeck n r).standing =
      { s.standing with settings := s.standing.settings.set n (readDeck r (0x60 + 24 * n.num)) } := by
  rw [State.configureDeck, onDeck_standing]
  have hport : s.standing.ports.set n (s.deck n).port = s.standing.ports := by
    rw [← standing_ports s n, Six.set_get]
  simp only [hport]

theorem Calm.reenter (h : Calm s t) (n : Deck) (on : Bool) : Calm s (t.reenter n on) :=
  (h.enterProbing n).ite (h.enterAbsent n)

theorem configurePort_standing (s : State) (n : Deck) (p : PortSettings) :
    (s.configurePort n p).standing = { s.standing with ports := s.standing.ports.set n p } := by
  have hset {g : DeckUnit → DeckUnit} (hp : (g (s.deck n)).port = p)
      (hs : (g (s.deck n)).settings = (s.deck n).settings) :
      (s.onDeck n g).standing = { s.standing with ports := s.standing.ports.set n p } := by
    have hsettings : s.standing.settings.set n (s.deck n).settings = s.standing.settings := by
      rw [← standing_settings s n, Six.set_get]
    simp only [onDeck_standing, hp, hs, hsettings]
  by_cases hr : (s.deck n).port.enabled = true ∧ (!(s.deck n).port.sameLine p) = true
  · rw [configurePort_of_restart hr, ((Calm.refl _).reenter n _).standing]
    exact hset rfl rfl
  · by_cases ht : (s.deck n).port.txEnable = p.txEnable
    · rw [configurePort_of_kept hr ht]
      exact hset rfl rfl
    · rw [configurePort_of_changed hr ht, ((Calm.refl _).reenter n _).standing]
      exact hset rfl rfl

theorem configureEffects_standing (s : State) (p : PortSettings) :
    (s.configureEffects p).standing = { s.standing with ep := (s.configureEffects p).ep } ∧
      (s.configureEffects p).ep.port = p := by
  obtain ⟨hsame, hrestarted, hfresh⟩ := configureEffects_cases s p
  by_cases hp : s.ep.port = p
  · rw [hsame hp]
    exact ⟨rfl, hp⟩
  · cases he : s.ep.port.enabled with
    | true => rw [hrestarted hp he]; exact ⟨rfl, rfl⟩
    | false => rw [hfresh hp he]; exact ⟨rfl, rfl⟩

theorem Calm.loadPollTimer (h : Calm s t) (n : Deck) : Calm s (t.loadPollTimer n) :=
  h.onDeck n fun _ => by split <;> exact ⟨rfl, rfl⟩

theorem described_standing (s : State) (r : List Byte) :
    (s.described r).standing =
      { s.standing with
        timeline := s.timeline.configure (readStandard r) (readRefMode r)
        suite := readSuite r
        settings := .of fun n => readDeck r (0x60 + 24 * n.num) } := by
  unfold State.described
  rw [eachDeck_settings fun n u => configureDeck_standing u n r]
  rfl

theorem ported_standing (s : State) (r : List Byte) :
    (s.ported r).standing =
      { (s.described r).standing with ports := .of fun n => readPort r (0x10 + 4 * n.num) } :=
  eachDeck_ports (fun n u => configurePort_standing u n (readPort r (0x10 + 4 * n.num))) (s.described r)

theorem polled_calm (s : State) (r : List Byte) : Calm (s.effected r) (s.polled r) :=
  Calm.eachDeck (f := fun n s => s.loadPollTimer n) (.refl _) fun n _ hu => hu.loadPollTimer n

/-- What stands once the ports are set. -/
theorem polled_standing (s : State) (r : List Byte) :
    (s.polled r).standing =
      { s.standing with
        timeline := s.timeline.configure (readStandard r) (readRefMode r)
        suite := readSuite r
        settings := .of fun n => readDeck r (0x60 + 24 * n.num)
        ports := .of fun n => readPort r (0x10 + 4 * n.num)
        ep := (s.polled r).ep } ∧ (s.polled r).ep.port = readEffectsPort r 0x28 := by
  obtain ⟨heffects, hport⟩ := configureEffects_standing (s.ported r) (readEffectsPort r 0x28)
  have hpolled := (polled_calm s r).standing
  have hep : (s.polled r).ep = (s.effected r).ep := by rw [← standing_ep, hpolled, standing_ep]
  rw [hpolled, hep]
  change (s.effected r).standing = { (s.ported r).standing with ep := (s.effected r).ep } at heffects
  rw [heffects, ported_standing, described_standing]
  exact ⟨rfl, hport⟩

theorem described_sides (s : State) (r : List Byte) : Sides s (s.described r) := by
  have hset : Sides s ({ (s.onTimeline fun t => t.configure (readStandard r) (readRefMode r)) with
      suite := readSuite r }) := ⟨rfl, rfl, rfl, rfl, rfl, fun _ => rfl, fun _ _ => rfl⟩
  exact hset.eachDeck (f := fun n s => s.configureDeck n r) fun n _ hu => hu.onDeck n fun _ => rfl

theorem Sides.configureEffects (h : Sides s t) (p : PortSettings) : Sides s (t.configureEffects p) := by
  have hep : Sides s { t with ep := ⟨p, .enabled p.txEnable⟩ } :=
    h.trans ⟨rfl, rfl, rfl, rfl, rfl, fun _ => rfl, fun _ _ => rfl⟩
  unfold State.configureEffects
  exact h.ite ((hep.onGenerator Generator.abandonFrame).ite hep)

theorem polled_sides (hr : s.engine.state.atRest = true) (r : List Byte) : Sides s (s.polled r) := by
  have hported : Sides s (s.ported r) := (described_sides s r).eachDeck fun n _ hu =>
    hu.configurePort (by rw [hu.state]; exact hr) n _
  have heffects : Sides s (s.effected r) := hported.configureEffects _
  exact heffects.eachDeck (f := fun n s => s.loadPollTimer n) fun n _ hu => hu.onDeck n fun d => by split <;> rfl

end Sys2Proof.Machine
end

section
/-!
PROOFS. An accepted configuration (R188, R190): every block holds its settings; a later acceptance writes its result.
-/

namespace Sys2Proof.Machine

variable {s t u v : State} {n m : Deck} {d r : List Byte}

/-! ## A change of standard -/

/-- The decks after a change of standard, the mark table apart. -/
def State.decksUnder (s : State) : State :=
  ((s.eachDeck fun n s => s.endChase n).eachDeck fun n s => s.onTracker n fun _ => .reset).eachDeck fun n u =>
    u.onLink n fun l => l.rejudge u.standard

theorem changeStandard_eq (s : State) : s.changeStandard = s.decksUnder.onMarks fun _ => .reset := rfl

theorem Sides.decksUnder (h : Sides s t) : Sides s t.decksUnder := by
  have hended : Sides s (t.eachDeck fun n s => s.endChase n) := h.eachDeck fun n _ hu => hu.endChase n
  have hreset : Sides s ((t.eachDeck fun n s => s.endChase n).eachDeck fun n s => s.onTracker n fun _ => .reset) :=
    hended.eachDeck fun n _ hu => hu.onTracker n _
  exact hreset.eachDeck fun n _ hu => hu.onLink n fun _ => rfl

theorem decksUnder_deck (s : State) (m : Deck) :
    ((s.decksUnder.deck m).chase = (s.deck m).chaseEnded.chase) ∧ (s.decksUnder.deck m).tracker = .reset := by
  have hended : (s.eachDeck fun n s => s.endChase n).deck m = (s.deck m).chaseEnded :=
    eachDeck_deck (P := fun _ => True) (f := fun n s => s.endChase n) (g := fun _ => DeckUnit.chaseEnded)
      (fun _ _ _ => trivial) (fun u k j _ => endChase_deck u k j) trivial m
  have hreset : ((s.eachDeck fun n s => s.endChase n).eachDeck fun n s => s.onTracker n fun _ => .reset).deck m =
      { (s.deck m).chaseEnded with tracker := .reset } :=
    (eachDeck_onDeck_deck (s.eachDeck fun n s => s.endChase n) (fun x => { x with tracker := .reset }) m).trans
      (by rw [hended])
  have hrejudged {α : Type} (g : DeckUnit → α) (hg : ∀ x l, g { x with link := l } = g x) (w : State) :
      g ((w.eachDeck fun n u => u.onLink n fun l => l.rejudge u.standard).deck m) = g (w.deck m) := by
    refine eachDeck_keeps (fun u => g (u.deck m)) (fun k u => ?_) w
    change g ((u.onDeck k _).deck m) = _
    rw [State.onDeck_deck]
    split
    · next hm => rw [hg, hm]
    · rfl
  exact ⟨(hrejudged DeckUnit.chase (fun _ _ => rfl) _).trans (by rw [hreset]),
    (hrejudged DeckUnit.tracker (fun _ _ => rfl) _).trans (by rw [hreset])⟩

theorem Timeline.configure_standard (t : Timeline) (std : Standard) (mode : RefMode) :
    (t.configure std mode).standard = std := by
  unfold Timeline.configure
  split
  · next h => exact h.1
  · split <;> rfl

theorem Timeline.configure_eq (t : Timeline) (std : Standard) (mode : RefMode) : t.configure std mode =
    if t.standard = std ∧ t.refMode = mode then t
    else if t.refMode = .internal ∧ mode = .internal then { t with standard := std }
    else
      { t with
        standard := std, refMode := mode, good := 0, prevPulse := none, miss := 0
        refState := if mode = .internal then .absent else .acquiring } := by
  unfold Timeline.configure
  cases mode <;> rfl

theorem standing_timeline (s : State) : s.standing.timeline = s.timeline := rfl

theorem polled_timeline (s : State) (r : List Byte) :
    (s.polled r).timeline = s.timeline.configure (readStandard r) (readRefMode r) := by
  rw [← standing_timeline, (polled_standing s r).1]

theorem polled_standard (s : State) (r : List Byte) : (s.polled r).standard = readStandard r := by
  rw [State.standard, polled_timeline, Timeline.configure_standard]

theorem onMarks_onMarks (s : State) (f : MarkUnit → MarkUnit) (x : MarkUnit) :
    (s.onMarks f).onMarks (fun _ => x) = s.onMarks fun _ => x := rfl

theorem standardTaken_same (h : s.standard = readStandard r) : s.standardTaken r = s.polled r := by
  unfold State.standardTaken
  rw [polled_standard, if_pos h]

theorem standardTaken_changed (h : s.standard ≠ readStandard r) :
    s.standardTaken r = (s.polled r).decksUnder.onMarks fun _ => .reset := by
  unfold State.standardTaken
  rw [polled_standard, if_neg h, changeStandard_eq]

theorem standardTaken_calm (s : State) (r : List Byte) : Calm (s.polled r) (s.standardTaken r) := by
  unfold State.standardTaken
  exact (Calm.refl _).ite (Calm.refl _).changeStandard

/-- All but the mark unit stays as the ports left it. -/
theorem standardTaken_sides (hr : s.engine.state.atRest = true) (r : List Byte) :
    Sides s ((s.standardTaken r).onMarks fun _ => s.marks) := by
  have hp := polled_sides hr r
  have hmarks {x : State} (h : Sides s x) : Sides s (x.onMarks fun _ => s.marks) :=
    ⟨rfl, h.gpi, h.log, h.attention, h.engine, h.mem, h.lists⟩
  by_cases h : s.standard = readStandard r
  · rw [standardTaken_same h]
    exact hmarks hp
  · rw [standardTaken_changed h, onMarks_onMarks]
    exact hmarks hp.decksUnder

/-! ## The settings held -/

/-- Every block holds the settings of the record and the directory. -/
structure SettingsHeld (s : State) (d r : List Byte) (t : State) : Prop where
  timeline : t.timeline = s.timeline.configure (readStandard r) (readRefMode r)
  suite : t.suite = readSuite r
  levels : t.iface.levels = readLevels r
  bases : t.iface.bases = readBases d
  settings : ∀ n, (t.deck n).settings = readDeck r (0x60 + 24 * n.num)
  ports : ∀ n, (t.deck n).port = readPort r (0x10 + 4 * n.num)
  effects : t.ep.port = readEffectsPort r 0x28
  topmem : t.iface.topmem = s.iface.topmem
  floor : t.iface.floor = s.iface.floor
  resetCause : t.iface.resetCause = s.iface.resetCause
  gpi : t.gpi = s.gpi.configure r
  log : t.log = s.log.configure d r

theorem deck_settings_of_standing (h : t.standing = s.standing) (n : Deck) :
    (t.deck n).settings = (s.deck n).settings := by
  rw [← standing_settings, ← standing_settings, h]

theorem deck_port_of_standing (h : t.standing = s.standing) (n : Deck) : (t.deck n).port = (s.deck n).port := by
  rw [← standing_ports, ← standing_ports, h]

theorem SettingsHeld.of_calm (h : SettingsHeld s d r t) (k : Calm t u) (hr : Recording t u) :
    SettingsHeld s d r u := by
  have hst := k.standing
  exact ⟨(congrArg Standing.timeline hst).trans h.timeline, (congrArg Standing.suite hst).trans h.suite,
    (congrArg Standing.levels hst).trans h.levels, (congrArg Standing.bases hst).trans h.bases,
    fun n => (deck_settings_of_standing hst n).trans (h.settings n),
    fun n => (deck_port_of_standing hst n).trans (h.ports n),
    (congrArg (fun x => x.ep.port) hst).trans h.effects, (congrArg Standing.topmem hst).trans h.topmem,
    (congrArg Standing.floor hst).trans h.floor, (congrArg Standing.resetCause hst).trans h.resetCause,
    hr.gpi.trans h.gpi, hr.log.trans h.log⟩

theorem configureLog_beside (s : State) (d r : List Byte) :
    Beside (s.onLog fun l => l.configure d r) (s.configureLog d r) := by
  unfold State.configureLog
  extract_lets old a
  split
  · exact .refl _
  · exact Beside.writeMem a _ _

theorem configureLog_calm (s : State) (d r : List Byte) :
    Calm (s.onLog fun l => l.configure d r) (s.configureLog d r) := by
  unfold State.configureLog
  extract_lets old a
  exact (Calm.refl a).ite ((Calm.refl a).writeMem _ _)

theorem configureLog_attention (s : State) (d r : List Byte) :
    (s.configureLog d r).iface.attention = s.iface.attention := by
  unfold State.configureLog
  extract_lets old a
  split
  · rfl
  · exact writeMem_attention a _ _

/-- The settings held once the GPI unit, the log and the interface have taken theirs as well. -/
theorem settingsHeld_of_standing {x : State}
    (hst : x.standing =
      { s.standing with
        timeline := s.timeline.configure (readStandard r) (readRefMode r)
        suite := readSuite r
        settings := .of fun n => readDeck r (0x60 + 24 * n.num)
        ports := .of fun n => readPort r (0x10 + 4 * n.num)
        ep := x.ep })
    (hep : x.ep.port = readEffectsPort r 0x28) (hg : x.gpi = s.gpi) (hl : x.log = s.log) :
    SettingsHeld s d r (((x.onGpi fun g => g.configure r).configureLog d r).onIface fun i =>
      { i with levels := readLevels r, bases := readBases d }) := by
  have hbeside := configureLog_beside (x.onGpi fun g => g.configure r) d r
  have hcalm := (configureLog_calm (x.onGpi fun g => g.configure r) d r).standing
  generalize (x.onGpi fun g => g.configure r).configureLog d r = c at hbeside hcalm
  have hx (n : Deck) : c.deck n = x.deck n := hbeside.decks n
  refine ⟨(congrArg Standing.timeline hcalm).trans (congrArg Standing.timeline hst),
    (congrArg Standing.suite hcalm).trans (congrArg Standing.suite hst), rfl, rfl, fun n => ?_, fun n => ?_,
    (congrArg (fun y => y.ep.port) hcalm).trans hep,
    (congrArg Standing.topmem hcalm).trans (congrArg Standing.topmem hst),
    (congrArg Standing.floor hcalm).trans (congrArg Standing.floor hst),
    (congrArg Standing.resetCause hcalm).trans (congrArg Standing.resetCause hst),
    hbeside.gpi.trans (congrArg (GpiUnit.configure · r) hg),
    hbeside.log.trans (congrArg (LogWriter.configure · d r) hl)⟩
  · change (c.deck n).settings = _
    rw [hx, ← standing_settings, hst, Six.get_of]
  · change (c.deck n).port = _
    rw [hx, ← standing_ports, hst, Six.get_of]

theorem standardTaken_standing (s : State) (r : List Byte) :
    (s.standardTaken r).standing =
      { s.standing with
        timeline := s.timeline.configure (readStandard r) (readRefMode r)
        suite := readSuite r
        settings := .of fun n => readDeck r (0x60 + 24 * n.num)
        ports := .of fun n => readPort r (0x10 + 4 * n.num)
        ep := (s.standardTaken r).ep } ∧ (s.standardTaken r).ep.port = readEffectsPort r 0x28 := by
  obtain ⟨hst, hport⟩ := polled_standing s r
  have hcalm := (standardTaken_calm s r).standing
  have hep : (s.standardTaken r).ep = (s.polled r).ep := by rw [← standing_ep, hcalm, standing_ep]
  rw [hep, hcalm]
  exact ⟨hst, hport⟩

theorem takeSettings_held (hr : s.engine.state.atRest = true) (d r : List Byte) :
    SettingsHeld s d r (s.takeSettings d r) := by
  obtain ⟨hst, hep⟩ := standardTaken_standing s r
  have hsides := standardTaken_sides hr r
  have hg : (s.standardTaken r).gpi = s.gpi := hsides.gpi
  have hl : (s.standardTaken r).log = s.log := hsides.log
  rw [takeSettings_eq]
  exact settingsHeld_of_standing hst hep hg hl

/-! ## The acceptance -/

/-- The settings taken, the result written, and the configured flag set. -/
def State.accepted (s : State) (d r : List Byte) (base : Nat) : State :=
  ((s.takeSettings d r).writeResult base .accepted 0).onIface fun i => { i with configured := true }

theorem accepted_held (hr : s.engine.state.atRest = true) (d r : List Byte) (base : Nat) :
    SettingsHeld s d r (s.accepted d r base) := by
  have h := takeSettings_held hr d r
  unfold State.accepted
  generalize s.takeSettings d r = w at h
  have hw := h.of_calm (Calm.writeResult (.refl w) base .accepted 0)
    (Beside.writeAll w [(base + 8, [byte FaultCode.accepted.num]), (base + 0x0A, halfSat 0)]).recording
  exact ⟨hw.timeline, hw.suite, hw.levels, hw.bases, hw.settings, hw.ports, hw.effects, hw.topmem, hw.floor,
    hw.resetCause, hw.gpi, hw.log⟩

theorem acceptConfig_eq (s : State) (d r : List Byte) (base : Nat) : s.acceptConfig d r base =
    State.raise (if (!s.iface.configured) = true then (s.accepted d r base).sweep.deferredGroups
      else s.accepted d r base) .config := rfl

/-- The settled acceptance: what stands, the GPI unit and the log are the accepted ones, and CONFIG is pending. -/
theorem acceptConfig_settled (s : State) (d r : List Byte) (base : Nat) :
    Calm (s.accepted d r base) (s.acceptConfig d r base).settleDecks ∧
      Recording (s.accepted d r base) (s.acceptConfig d r base).settleDecks ∧
      (s.acceptConfig d r base).settleDecks.iface.pending.get .config = true := by
  rw [acceptConfig_eq]
  generalize s.accepted d r base = y
  have hcalm : Calm y (if (!s.iface.configured) = true then y.sweep.deferredGroups else y) :=
    ((Calm.refl y).sweep.deferredGroups).ite (Calm.refl y)
  have hrec : Recording y (if (!s.iface.configured) = true then y.sweep.deferredGroups else y) :=
    Recording.ite ((Recording.sweep y).trans (.deferredGroups _)) (.refl y)
  generalize (if (!s.iface.configured) = true then y.sweep.deferredGroups else y) = z at hcalm hrec
  have hraise : Recording y (z.raise .config) := ⟨hrec.gpi, hrec.log⟩
  refine ⟨(hcalm.raise .config).settleDecks, hraise.trans (Spares.refl _).settleDecks.recording, ?_⟩
  exact (Calm.refl (z.raise .config)).settleDecks.causes _ (by simp [State.raise])

/-! ## What an acceptance writes with nothing held -/

/-- Every region lies in bounds and none shares a byte with an earlier one (R189). -/
theorem regions_of_accepted {base limit : Nat} (h : configFailure d r base limit = none) :
    (∀ x ∈ regions d, x.inBounds limit = true) ∧ firstOverlap [] (regions d) = none := by
  unfold configFailure at h
  split at h
  · cases h
  · split at h
    · cases h
    · split at h
      · cases h
      · next hfind =>
        refine ⟨fun x hx => ?_, Option.map_eq_none_iff.mp h⟩
        have := List.find?_eq_none.mp hfind x hx
        simpa using this

/-- The log's region, when there is one, lies below the limit. -/
theorem log_inBounds {limit : Nat} (h : ∀ x ∈ regions d, x.inBounds limit = true) (hc : halfAt d 0x16 ≠ 0) :
    16 * halfAt d 0x10 + 16 ≤ limit := by
  have hlog := h ⟨0x10, 16 * halfAt d 0x10, 16 + 16 * halfAt d 0x16⟩ (by simp [regions, hc])
  simp only [Region.inBounds, Bool.and_eq_true, decide_eq_true_eq] at hlog
  omega

/-- Suite memory with the header of a new log region written (R179). -/
def Memory.withLogHeader (x : Memory) (l : LogWriter) (d : List Byte) : Memory :=
  if (l.base = halfAt d 0x10 ∧ l.count = halfAt d 0x16) ∨ halfAt d 0x16 = 0 then x
  else x.store (16 * halfAt d 0x10 + 2) newLogHeader

theorem LogWriter.configure_region (l : LogWriter) (d r : List Byte) :
    (l.configure d r).base = halfAt d 0x10 ∧ (l.configure d r).count = halfAt d 0x16 := by
  unfold LogWriter.configure
  extract_lets base count threshold edits
  split
  · next h => exact h
  · exact ⟨rfl, rfl⟩

theorem configureLog_mem (h : halfAt d 0x16 ≠ 0 → 16 * halfAt d 0x10 + 16 ≤ s.iface.limit) (r : List Byte) :
    (s.configureLog d r).mem = s.mem.withLogHeader s.log d := by
  obtain ⟨hbase, hcount⟩ := LogWriter.configure_region s.log d r
  unfold State.configureLog Memory.withLogHeader
  extract_lets old a
  have ha : a.log.base = halfAt d 0x10 ∧ a.log.count = halfAt d 0x16 := ⟨hbase, hcount⟩
  rw [ha.1, ha.2]
  by_cases hc : (s.log.base = halfAt d 0x10 ∧ s.log.count = halfAt d 0x16) ∨ halfAt d 0x16 = 0
  · rw [if_pos hc, if_pos hc]
    rfl
  · have hlimit := h fun hz => hc (.inr hz)
    rw [if_neg hc, if_neg hc, LogWriter.header, ha.1, writeMem_of_limit]
    · rfl
    · change _ + newLogHeader.length ≤ s.iface.limit
      simp only [newLogHeader, List.length_replicate]
      omega

/-- What an acceptance leaves before its sweep with nothing held and no event taken. -/
structure Written (s : State) (d : List Byte) (base : Nat) (y : State) : Prop where
  mem : y.mem = ((s.mem.withLogHeader s.log d).store (base + 8) [0x40]).store (base + 10) [0, 0]
  attention : y.iface.attention = s.iface.attention
  engine : y.engine.uptake = s.engine.uptake
  lists : ∀ n, (y.deck n).holding = (s.deck n).holding

theorem written_of_sides {x : State} (hs : s.bare) (h : Sides s (x.onMarks fun _ => s.marks))
    (hlimit : x.iface.limit = s.iface.limit)
    (hl : halfAt d 0x16 ≠ 0 → 16 * halfAt d 0x10 + 16 ≤ s.iface.limit) {base : Nat} (hb : base + 256 ≤ s.iface.limit)
    (r : List Byte) :
    Written s d base (State.onIface (State.writeResult ((((x.onGpi fun g => g.configure r).configureLog d r).onIface
      fun i => { i with levels := readLevels r, bases := readBases d })) base .accepted 0)
      fun i => { i with configured := true }) := by
  have hbeside := configureLog_beside (x.onGpi fun g => g.configure r) d r
  have hatt := configureLog_attention (x.onGpi fun g => g.configure r) d r
  have hmem := configureLog_mem (s := x.onGpi fun g => g.configure r) (d := d) (by rw [← hlimit] at hl; exact hl) r
  have hlim := (configureLog_calm (x.onGpi fun g => g.configure r) d r).limit
  have hlim' : ((x.onGpi fun g => g.configure r).onLog fun l => l.configure d r).iface.limit = s.iface.limit := hlimit
  rw [hlim'] at hlim
  generalize (x.onGpi fun g => g.configure r).configureLog d r = c at hbeside hatt hmem hlim
  have hx (n : Deck) : c.deck n = x.deck n := hbeside.decks n
  unfold State.writeResult
  rw [writeAll_of_limit]
  · refine ⟨?_, hatt.trans h.attention, (congrArg Engine.uptake hbeside.engine).trans h.engine, fun n => ?_⟩
    · have hm : c.mem = s.mem.withLogHeader s.log d := by
        rw [hmem]
        exact congrArg₂ (Memory.withLogHeader · · d) (h.mem hs) h.log
      change ((c.mem.store (base + 8) [byte FaultCode.accepted.num]).store (base + 10) (halfSat 0)) = _
      rw [hm]
      rfl
    · change (c.deck n).holding = _
      rw [hx]
      exact h.lists hs n
  · change ∀ w ∈ _, _ ≤ c.iface.limit
    rw [hlim]
    simp only [List.forall_mem_cons, length_halfSat, List.length_singleton]
    exact ⟨by omega, by omega, by simp⟩

theorem accepted_written (hr : s.engine.state.atRest = true) (hs : s.bare) {base : Nat}
    (hl : halfAt d 0x16 ≠ 0 → 16 * halfAt d 0x10 + 16 ≤ s.iface.limit) (hb : base + 256 ≤ s.iface.limit)
    (r : List Byte) : Written s d base (s.accepted d r base) := by
  have hsides := standardTaken_sides hr r
  have hlimit : (s.standardTaken r).iface.limit = s.iface.limit := by
    have htop : (s.standardTaken r).iface.topmem = s.iface.topmem :=
      congrArg Standing.topmem (standardTaken_standing s r).1
    simp [Interface.limit, htop]
  unfold State.accepted
  rw [takeSettings_eq]
  exact written_of_sides hs hsides hlimit hl hb r

end Sys2Proof.Machine
end

section
/-!
PROOFS. A load accepted (R188, R190): the settings held, and what a later acceptance writes and ends.
-/

namespace Sys2Proof.Machine

variable {s t u v : State} {n m : Deck} {d r : List Byte}

/-- After the settings the acceptance leaves the decks and the mark unit alone. -/
theorem accepted_after {x : State} (base : Nat) :
    (∀ n, ((State.onIface (State.writeResult ((((x.onGpi fun g => g.configure r).configureLog d r).onIface
      fun i => { i with levels := readLevels r, bases := readBases d })) base .accepted 0)
      fun i => { i with configured := true }).deck n) = x.deck n) ∧
    (State.onIface (State.writeResult ((((x.onGpi fun g => g.configure r).configureLog d r).onIface
      fun i => { i with levels := readLevels r, bases := readBases d })) base .accepted 0)
      fun i => { i with configured := true }).marks = x.marks := by
  have hlog := configureLog_beside (x.onGpi fun g => g.configure r) d r
  generalize (x.onGpi fun g => g.configure r).configureLog d r = c at hlog
  have hwrite := Beside.writeAll (c.onIface fun i => { i with levels := readLevels r, bases := readBases d })
    [(base + 8, [byte FaultCode.accepted.num]), (base + 0x0A, halfSat 0)]
  exact ⟨fun n => (hwrite.decks n).trans (hlog.decks n), hwrite.marks.trans hlog.marks⟩

theorem accepted_deck (s : State) (d r : List Byte) (base : Nat) (n : Deck) :
    (s.accepted d r base).deck n = (s.standardTaken r).deck n := by
  unfold State.accepted
  rw [takeSettings_eq]
  exact (accepted_after base).1 n

theorem accepted_marks (s : State) (d r : List Byte) (base : Nat) :
    (s.accepted d r base).marks = (s.standardTaken r).marks := by
  unfold State.accepted
  rw [takeSettings_eq]
  exact (accepted_after base).2

theorem standardTaken_marks (hr : s.engine.state.atRest = true) (h : s.standard = readStandard r) :
    (s.standardTaken r).marks = s.marks := by
  rw [standardTaken_same h]
  exact (polled_sides hr r).marks

/-- A change of standard ends every chase, resets every tracker and the mark unit (R91, R108, R174). -/
theorem standardTaken_ended (h : s.standard ≠ readStandard r) :
    (s.standardTaken r).marks = .reset ∧
      ∀ n, ((s.standardTaken r).deck n).chase.state = .off ∧ ((s.standardTaken r).deck n).tracker = .reset := by
  rw [standardTaken_changed h]
  have hdecks := decksUnder_deck (s.polled r)
  generalize (s.polled r).decksUnder = x at hdecks
  exact ⟨rfl, fun n => ⟨(congrArg Chase.state (hdecks n).1).trans (DeckUnit.chaseEnded_chase _), (hdecks n).2⟩⟩

theorem MarkUnit.reset_disabled : MarkUnit.reset.entries.length = 16 ∧
    (∀ m ∈ MarkUnit.reset.entries, m.enabled = false ∧ m.matching = false) ∧
    ∀ n, MarkUnit.reset.previous.get n = none := by
  refine ⟨rfl, fun m hm => ?_, fun n => Six.get_all _ n⟩
  rw [List.eq_of_mem_replicate hm]
  exact ⟨rfl, rfl⟩

/-! ## The outcome of a load -/

/-- A load accepted, then settled. -/
def State.loaded (s : State) (d r : List Byte) (base : Nat) : State := (s.acceptConfig d r base).settleDecks

theorem exec_attnConfigLoad_accepted (hs : s.ready) (h₀ : 256 ≤ s.iface.limit) (hd : d = s.mem.load 0 24)
    (hb : 16 * halfAt d 0x12 + 256 ≤ s.iface.limit) (hr : r = s.mem.load (16 * halfAt d 0x12) 256)
    (hst : s.engine.state.atRest = true) (hp : s.engine.takeInProgress = false)
    (hf : configFailure d r (16 * halfAt d 0x12) s.iface.limit = none) :
    exec .attnConfigLoad s = .next ((s.setAttention 10 false).loaded d r (16 * halfAt d 0x12)) := by
  have hexec : exec .attnConfigLoad s = .next ((s.setAttention 10 false).loadConfig.settleDecks) :=
    registerWrite_of_ready hs fun s => (s.setAttention 10 false).loadConfig.settleDecks
  have hload := loadConfig_of_limit (s := s.setAttention 10 false) (d := d) (r := r) h₀ hd hb hr
  have hrun : ¬((!(s.setAttention 10 false).engine.state.atRest) = true ∨
      (s.setAttention 10 false).engine.takeInProgress = true) := by
    simp [State.setAttention, hst, hp]
  have hf' : configFailure d r (16 * halfAt d 0x12) (s.setAttention 10 false).iface.limit = none := hf
  rw [if_neg hrun, hf', Option.elim_none] at hload
  rw [hexec, hload, State.loaded]

theorem standing_configured (s : State) : s.standing.configured = s.iface.configured := rfl

theorem onIface_configured (s : State) :
    (s.onIface fun i => { i with configured := true }).iface.configured = true := rfl

theorem accepted_configured (s : State) (d r : List Byte) (base : Nat) :
    (s.accepted d r base).iface.configured = true := by
  unfold State.accepted
  exact onIface_configured _

theorem loaded_held (hr : s.engine.state.atRest = true) (d r : List Byte) (base : Nat) :
    SettingsHeld s d r (s.loaded d r base) ∧ (s.loaded d r base).iface.configured = true ∧
      (s.loaded d r base).iface.pending.get .config = true := by
  obtain ⟨hcalm, hrec, hpending⟩ := acceptConfig_settled s d r base
  have hconf : (s.acceptConfig d r base).settleDecks.iface.configured = true := by
    rw [← standing_configured, hcalm.standing, standing_configured, accepted_configured]
  unfold State.loaded
  exact ⟨(accepted_held hr d r base).of_calm hcalm hrec, hconf, hpending⟩

/-! ## A later acceptance -/

theorem loaded_again (hc : s.iface.configured = true) (d r : List Byte) (base : Nat) :
    s.loaded d r base = ((s.accepted d r base).raise .config).settleDecks := by
  rw [State.loaded, acceptConfig_eq, hc]
  rfl

theorem Written.takenSlot {base : Nat} {y : State} (h : Written s d base y) :
    y.engine.takenSlot = s.engine.takenSlot := congrArg (fun x => x.2.1) h.engine

theorem Written.listsEmpty {base : Nat} {y : State} (h : Written s d base y) (he : ListsEmpty s) : ListsEmpty y :=
  fun n => by
    have hn := h.lists n
    simp only [DeckUnit.holding, Prod.mk.injEq] at hn
    obtain ⟨hqueue, hrescan, -, -, hdown⟩ := hn
    rw [hqueue, hrescan, hdown]
    exact he n

/-- With nothing held the settling examines no head and begins exchanges. -/
theorem settleDecks_raised {y : State} (hy : ListsEmpty y) (ht : y.engine.takenSlot = none) :
    Unstirred y (y.raise .config).settleDecks ∧
      ∀ n, ((y.raise .config).settleDecks.deck n).tracker = (y.deck n).tracker := by
  have h := settleDecks_unstirred (s := y.raise .config) hy ht
  exact ⟨⟨((Sides.refl y).raise .config).trans h.toSides, h.chase⟩,
    fun n => congrArg Prod.fst ((Spares.refl (y.raise .config)).settleDecks.decks n)⟩

/-- What a later acceptance writes and leaves of the decks, with nothing held and no event taken. -/
theorem loaded_again_eq (hr : s.engine.state.atRest = true) (hc : s.iface.configured = true)
    (ht : s.engine.takenSlot = none) (he : ListsEmpty s) {base : Nat}
    (hl : halfAt d 0x16 ≠ 0 → 16 * halfAt d 0x10 + 16 ≤ s.iface.limit) (hb : base + 256 ≤ s.iface.limit)
    (r : List Byte) :
    (s.loaded d r base).mem = ((s.mem.withLogHeader s.log d).store (base + 8) [0x40]).store (base + 10) [0, 0] ∧
      (s.loaded d r base).marks = (s.standardTaken r).marks ∧
      ∀ n, ((s.loaded d r base).deck n).chase.state = ((s.standardTaken r).deck n).chase.state ∧
        ((s.loaded d r base).deck n).tracker = ((s.standardTaken r).deck n).tracker := by
  have hw := accepted_written hr (bare_of_empty he ht) hl hb r
  have hmarks := accepted_marks s d r base
  have hdeck := accepted_deck s d r base
  rw [loaded_again hc]
  generalize s.accepted d r base = y at hw hmarks hdeck
  obtain ⟨hstirred, htracker⟩ := settleDecks_raised (hw.listsEmpty he) (hw.takenSlot.trans ht)
  refine ⟨(hstirred.mem (bare_of_empty (hw.listsEmpty he) (hw.takenSlot.trans ht))).trans hw.mem,
    hstirred.marks.trans hmarks, fun n => ⟨?_, ?_⟩⟩
  · rw [hstirred.chase, hdeck]
  · rw [htracker, hdeck]

/-! ## The settings of the GPI unit and the interface, one by one -/

@[simp] theorem Eight.get_of {α : Type} (f : Line → α) (l : Line) : (Eight.of f).get l = f l := by
  cases l <;> rfl

theorem InputFunction.ofCode_eq (k : Nat) : InputFunction.ofCode k =
    if k = 0 then .none else if k = 1 then .start else if k = 2 then .capture else .chord := by
  unfold InputFunction.ofCode
  split <;> simp_all

theorem EdgeSelection.ofCode_eq (k : Nat) : EdgeSelection.ofCode k =
    if k = 0 then .rising else if k = 1 then .falling else .both := by
  unfold EdgeSelection.ofCode
  split <;> simp_all

theorem configure_outputs (g : GpiUnit) (r : List Byte) (l : Line) :
    (g.configure r).outputs.get l = (OutputFunction.ofCode? (byteAt r (0x50 + l.num))).getD .off := Eight.get_of _ l

theorem configure_inputs (g : GpiUnit) (r : List Byte) (l : Line) :
    (g.configure r).inputs.get l = readInput r l := Eight.get_of _ l

/-- An output keeps its pulse while its function stays (R174). -/
theorem configure_pulses (g : GpiUnit) (r : List Byte) (l : Line) : (g.configure r).pulses.get l =
    if (g.configure r).outputs.get l = g.outputs.get l then g.pulses.get l else none := by
  have hpulses : (g.configure r).pulses.get l =
      if g.outputs.get l = (g.configure r).outputs.get l then g.pulses.get l else none := Eight.get_of _ l
  rw [hpulses]
  simp only [eq_comm]

/-- Settles O17. -/
theorem configLoadAccepted : Obligations.ConfigLoadAccepted := by
  intro s d r hs h₀ hd hb hr hst hp hf
  have hexec := exec_attnConfigLoad_accepted hs h₀ hd hb hr hst hp hf
  obtain ⟨hbounds, -⟩ := regions_of_accepted hf
  obtain ⟨hheld, hconf, hpending⟩ := loaded_held (s := s.setAttention 10 false) hst d r (16 * halfAt d 0x12)
  have hstandard : ((s.setAttention 10 false).loaded d r (16 * halfAt d 0x12)).timeline.standard = readStandard r := by
    rw [hheld.timeline, Timeline.configure_standard]
  refine ⟨_, hexec, hconf, hpending, hheld.suite, fun std mode hstd hmode => ?_, fun c => ?_, fun n => ?_, ?_, ?_, ?_,
    fun n => ⟨hheld.settings n, hheld.ports n⟩, hheld.effects, fun l => ?_, ?_, ?_, fun l => ?_, ?_, hheld.topmem,
    hheld.floor, hheld.resetCause, fun hc ht hq => ?_⟩
  · rw [hheld.timeline, Timeline.configure_eq, hstd, hmode]
    rfl
  · rw [hheld.levels]
    cases c <;> rfl
  · rw [hheld.bases]
    exact Six.get_of _ n
  · rw [hheld.bases]; rfl
  · rw [hheld.bases]; rfl
  · rw [hheld.bases]; rfl
  · rw [hheld.gpi, configure_inputs]
    exact ⟨configure_outputs _ _ _, EdgeSelection.ofCode_eq _, InputFunction.ofCode_eq _⟩
  · rw [hheld.gpi]; rfl
  · rw [hheld.gpi]; rfl
  · rw [hheld.gpi]
    exact configure_pulses _ _ _
  · rw [hheld.log]; rfl
  · have he : ListsEmpty (s.setAttention 10 false) := fun n => ⟨(hq n).1, (hq n).2, hs.downDue n⟩
    obtain ⟨hmem, hmarks, hdecks⟩ := loaded_again_eq (s := s.setAttention 10 false) hst hc ht he
      (log_inBounds hbounds) hb r
    refine ⟨hmem, fun hsame => ?_, fun hdiff => ?_⟩
    · rw [hstandard] at hsame
      exact hmarks.trans (standardTaken_marks (s := s.setAttention 10 false) hst hsame.symm)
    · rw [hstandard] at hdiff
      obtain ⟨hreset, hended⟩ := standardTaken_ended (s := s.setAttention 10 false) (Ne.symm hdiff)
      rw [hmarks, hreset]
      exact ⟨fun n => ⟨(hdecks n).1.trans (hended n).1, (hdecks n).2.trans (hended n).2⟩, MarkUnit.reset_disabled⟩

end Sys2Proof.Machine
end

section
/-!
PROOFS. The slots of the post-reset sweep (R74) lie apart, and what the sweep writes into each.
-/

namespace Sys2Proof.Machine

variable {s t u v : State} {n m : Deck} {d r : List Byte}

/-! ## Regions and slots apart -/

/-- Two spans of suite memory share no byte. -/
def Apart (a k b l : Nat) : Prop := a + k ≤ b ∨ b + l ≤ a

theorem Region.apart_of_not_overlaps {x y : Region} (h : y.overlaps x = false) :
    Apart x.start x.size y.start y.size := by
  simp only [Region.overlaps, Bool.and_eq_false_iff, decide_eq_false_iff_not] at h
  unfold Apart
  omega

/-- No region after another shares a byte with it. -/
theorem pairwise_of_firstOverlap {earlier l : List Region} (h : firstOverlap earlier l = none) :
    (∀ y ∈ l, ∀ x ∈ earlier, Apart x.start x.size y.start y.size) ∧
      l.Pairwise fun x y => Apart x.start x.size y.start y.size := by
  induction l generalizing earlier with
  | nil => exact ⟨fun _ h => absurd h List.not_mem_nil, .nil⟩
  | cons z l ih =>
    unfold firstOverlap at h
    split at h
    · cases h
    · next hz =>
      obtain ⟨hearlier, hl⟩ := ih h
      refine ⟨fun y hy x hx => ?_, List.pairwise_cons.mpr ⟨fun y hy => hearlier y hy z List.mem_cons_self, hl⟩⟩
      rcases List.mem_cons.mp hy with rfl | hy
      · refine Region.apart_of_not_overlaps ?_
        simpa using fun k => hz (List.any_eq_true.mpr ⟨x, hx, k⟩)
      · exact hearlier y hy x (List.mem_cons_of_mem _ hx)

/-- The region of deck `n`'s ring and status record. -/
def ringRegion (d : List Byte) (n : Deck) : Region := ⟨2 * n.num, 16 * halfAt d (2 * n.num), 320⟩

/-- The region of the edit list. -/
def editRegion (d : List Byte) : Region := ⟨0x0C, 16 * halfAt d 0x0C, 4096⟩

/-- The regions after the edit list. -/
def laterRegions (d : List Byte) : List Region :=
  ⟨0x0E, 16 * halfAt d 0x0E, 256⟩ ::
    ((if halfAt d 0x16 = 0 then [] else [⟨0x10, 16 * halfAt d 0x10, 16 + 16 * halfAt d 0x16⟩]) ++
      [⟨0x12, 16 * halfAt d 0x12, 256⟩, ⟨0x14, 16 * halfAt d 0x14, 16⟩])

theorem regions_eq (d : List Byte) :
    regions d = Deck.list.map (ringRegion d) ++ editRegion d :: laterRegions d := by
  unfold regions laterRegions
  dsimp only
  by_cases hc : halfAt d 0x16 = 0
  · rw [if_pos hc]
    rfl
  · rw [if_neg hc]
    rfl

/-- What an accepted directory says of the regions the sweep reads. -/
structure SweepRegions (d : List Byte) (limit : Nat) : Prop where
  rings : Deck.list.Pairwise fun n m => Apart (16 * halfAt d (2 * n.num)) 320 (16 * halfAt d (2 * m.num)) 320
  ringEdit : ∀ n : Deck, Apart (16 * halfAt d (2 * n.num)) 320 (16 * halfAt d 0x0C) 4096
  ringLater : ∀ n : Deck, ∀ x ∈ laterRegions d, Apart (16 * halfAt d (2 * n.num)) 320 x.start x.size
  editLater : ∀ x ∈ laterRegions d, Apart (16 * halfAt d 0x0C) 4096 x.start x.size
  later : (laterRegions d).Pairwise fun x y => Apart x.start x.size y.start y.size
  ringBelow : ∀ n : Deck, 16 * halfAt d (2 * n.num) + 320 ≤ limit
  editBelow : 16 * halfAt d 0x0C + 4096 ≤ limit

theorem sweepRegions_of_accepted {base limit : Nat} (h : configFailure d r base limit = none) :
    SweepRegions d limit := by
  obtain ⟨hbounds, hoverlap⟩ := regions_of_accepted h
  obtain ⟨-, hpair⟩ := pairwise_of_firstOverlap hoverlap
  have hbelow {x : Region} (hx : x ∈ regions d) : x.start + x.size ≤ limit := by
    have := hbounds x hx
    simp only [Region.inBounds, Bool.and_eq_true, decide_eq_true_eq] at this
    exact this.2
  rw [regions_eq] at hpair hbelow
  obtain ⟨hrings, hafter, hcross⟩ := List.pairwise_append.mp hpair
  obtain ⟨hedit, hlater⟩ := List.pairwise_cons.mp hafter
  have hring (n : Deck) : ringRegion d n ∈ Deck.list.map (ringRegion d) := List.mem_map_of_mem (Deck.mem_list n)
  exact ⟨List.pairwise_map.mp hrings, fun n => hcross _ (hring n) _ List.mem_cons_self,
    fun n x hx => hcross _ (hring n) x (List.mem_cons_of_mem _ hx), hedit, hlater,
    fun n => hbelow (List.mem_append_left _ (hring n)),
    hbelow (List.mem_append_right _ List.mem_cons_self)⟩

/-- The bytes of a slot. -/
def SweepSlot.size (x : SweepSlot) : Nat := if x.event = true then 64 else 16

/-- Slot `i` of deck `n`'s ring. -/
def ringSlotAt (b : Bases) (n : Deck) (i : Nat) : SweepSlot := ⟨16 * b.deck.get n + 16 * i, false⟩

/-- Slot `i` of the edit list. -/
def editSlotAt (b : Bases) (i : Nat) : SweepSlot := ⟨16 * b.edit + 64 * i, true⟩

theorem sweepSlots_eq (b : Bases) : sweepSlots b =
    (Deck.list.map fun n => (List.range 16).map (ringSlotAt b n)).flatten ++ (List.range 64).map (editSlotAt b) := rfl

theorem ringSlotAt_mem (b : Bases) (n : Deck) (i : Fin 16) : ringSlotAt b n i.val ∈ sweepSlots b := by
  rw [sweepSlots_eq]
  refine List.mem_append_left _ (List.mem_flatten.mpr ⟨_, List.mem_map_of_mem (Deck.mem_list n), ?_⟩)
  exact List.mem_map_of_mem (List.mem_range.mpr i.isLt)

theorem editSlotAt_mem (b : Bases) (i : Fin 64) : editSlotAt b i.val ∈ sweepSlots b := by
  rw [sweepSlots_eq]
  exact List.mem_append_right _ (List.mem_map_of_mem (List.mem_range.mpr i.isLt))

theorem mem_sweepSlots {b : Bases} {x : SweepSlot} (h : x ∈ sweepSlots b) :
    (∃ n : Deck, ∃ i < 16, x = ringSlotAt b n i) ∨ ∃ i < 64, x = editSlotAt b i := by
  rw [sweepSlots_eq] at h
  rcases List.mem_append.mp h with h | h
  · obtain ⟨l, hl, hx⟩ := List.mem_flatten.mp h
    obtain ⟨n, -, rfl⟩ := List.mem_map.mp hl
    obtain ⟨i, hi, rfl⟩ := List.mem_map.mp hx
    exact .inl ⟨n, i, List.mem_range.mp hi, rfl⟩
  · obtain ⟨i, hi, rfl⟩ := List.mem_map.mp h
    exact .inr ⟨i, List.mem_range.mp hi, rfl⟩

section
variable {limit : Nat} (h : SweepRegions d limit)
include h

theorem SweepRegions.slots_below {x : SweepSlot} (hx : x ∈ sweepSlots (readBases d)) : x.offset + x.size ≤ limit := by
  rcases mem_sweepSlots hx with ⟨n, i, hi, rfl⟩ | ⟨i, hi, rfl⟩
  · have hb := h.ringBelow n
    have hn : (readBases d).deck.get n = halfAt d (2 * n.num) := Six.get_of _ n
    simp only [ringSlotAt, SweepSlot.size, hn, Bool.false_eq_true, if_false]
    omega
  · have hb := h.editBelow
    have he : (readBases d).edit = halfAt d 0x0C := rfl
    simp only [editSlotAt, SweepSlot.size, he, if_true]
    omega

/-- Every slot lies apart from every later region. -/
theorem SweepRegions.slots_later {x : SweepSlot} (hx : x ∈ sweepSlots (readBases d)) {y : Region}
    (hy : y ∈ laterRegions d) : Apart x.offset x.size y.start y.size := by
  rcases mem_sweepSlots hx with ⟨n, i, hi, rfl⟩ | ⟨i, hi, rfl⟩
  · have hb := h.ringLater n y hy
    have hn : (readBases d).deck.get n = halfAt d (2 * n.num) := Six.get_of _ n
    simp only [Apart, ringSlotAt, SweepSlot.size, hn, Bool.false_eq_true, if_false] at hb ⊢
    omega
  · have hb := h.editLater y hy
    have he : (readBases d).edit = halfAt d 0x0C := rfl
    simp only [Apart, editSlotAt, SweepSlot.size, he, if_true] at hb ⊢
    omega

/-- The slots of the sweep lie apart. -/
theorem SweepRegions.slots_apart :
    (sweepSlots (readBases d)).Pairwise fun x y => Apart x.offset x.size y.offset y.size := by
  have hn (n : Deck) : (readBases d).deck.get n = halfAt d (2 * n.num) := Six.get_of _ n
  have he : (readBases d).edit = halfAt d 0x0C := rfl
  rw [sweepSlots_eq, List.pairwise_append, List.pairwise_flatten]
  refine ⟨⟨fun l hl => ?_, ?_⟩, ?_, fun x hx y hy => ?_⟩
  · obtain ⟨n, -, rfl⟩ := List.mem_map.mp hl
    rw [List.pairwise_map]
    refine List.pairwise_lt_range.imp fun {i j} hij => ?_
    simp only [Apart, ringSlotAt, SweepSlot.size, Bool.false_eq_true, if_false]
    omega
  · rw [List.pairwise_map]
    refine h.rings.imp fun {n m} hnm x hx y hy => ?_
    obtain ⟨i, hi, rfl⟩ := List.mem_map.mp hx
    obtain ⟨j, hj, rfl⟩ := List.mem_map.mp hy
    rw [List.mem_range] at hi hj
    simp only [Apart, ringSlotAt, SweepSlot.size, hn, Bool.false_eq_true, if_false] at hnm ⊢
    omega
  · rw [List.pairwise_map]
    refine List.pairwise_lt_range.imp fun {i j} hij => ?_
    simp only [Apart, editSlotAt, SweepSlot.size, if_true]
    omega
  · obtain ⟨l, hl, hx⟩ := List.mem_flatten.mp hx
    obtain ⟨n, -, rfl⟩ := List.mem_map.mp hl
    obtain ⟨i, hi, rfl⟩ := List.mem_map.mp hx
    obtain ⟨j, hj, rfl⟩ := List.mem_map.mp hy
    rw [List.mem_range] at hi hj
    have hb := h.ringEdit n
    simp only [Apart, ringSlotAt, editSlotAt, SweepSlot.size, hn, he, Bool.false_eq_true, if_false, if_true] at hb ⊢
    omega

end

/-! ## The sweep of slots that lie apart -/

/-- A byte written by several stores or left by them all, on memories that agree about it. -/
theorem Memory.read_store_congr {x y : Memory} (hx : x.wf = true) (hy : y.wf = true) {b : Nat}
    (h : x.read b = y.read b) (a : Nat) (bs : List Byte) : (x.store a bs).read b = (y.store a bs).read b := by
  by_cases hb : a ≤ b ∧ b < a + bs.length
  · obtain ⟨i, rfl⟩ := Nat.exists_eq_add_of_le hb.1
    rw [Memory.read_store_inside a bs hx (by omega), Memory.read_store_inside a bs hy (by omega)]
  · rw [Memory.read_store_outside _ _ _ (by omega), Memory.read_store_outside _ _ _ (by omega), h]

theorem Memory.read_storeAll_congr {x y : Memory} (hx : x.wf = true) (hy : y.wf = true) {b : Nat}
    (h : x.read b = y.read b) (ws : List (Nat × List Byte)) : (x.storeAll ws).read b = (y.storeAll ws).read b := by
  induction ws generalizing x y with
  | nil => exact h
  | cons w ws ih =>
    exact ih (Memory.wf_store w.1 w.2 hx) (Memory.wf_store w.1 w.2 hy) (Memory.read_store_congr hx hy h w.1 w.2)

/-- Suite memory with one slot swept. -/
def Memory.sweptAt (x : Memory) (f : FieldCount) (y : SweepSlot) : Memory :=
  if x.read y.offset = 2 then x.storeAll (y.writes f) else x

theorem SweepSlot.writes_inside (x : SweepSlot) (f : FieldCount) :
    ∀ w ∈ x.writes f, x.offset ≤ w.1 ∧ w.1 + w.2.length ≤ x.offset + x.size := by
  unfold SweepSlot.writes SweepSlot.size
  extract_lets code
  cases x.event <;> simp [halfOfField]

theorem Memory.wf_sweptAt {x : Memory} (hx : x.wf = true) (f : FieldCount) (y : SweepSlot) :
    (x.sweptAt f y).wf = true := by
  unfold Memory.sweptAt
  split
  · exact Memory.wf_storeAll hx _
  · exact hx

theorem Memory.read_sweptAt_outside (x : Memory) (f : FieldCount) {y : SweepSlot} {b : Nat}
    (h : b < y.offset ∨ y.offset + y.size ≤ b) : (x.sweptAt f y).read b = x.read b := by
  unfold Memory.sweptAt
  split
  · refine Memory.read_storeAll_outside _ fun w hw => ?_
    have := y.writes_inside f w hw
    omega
  · rfl

/-- What the sweep of slots leaves: the memory, and whether a command slot and an event slot were swept. -/
structure Swept (x : Memory) (f : FieldCount) (l : List SweepSlot) (y : Memory) (swept flags : Bool × Bool) : Prop where
  wf : y.wf = true
  outside : ∀ b, (∀ z ∈ l, b < z.offset ∨ z.offset + z.size ≤ b) → y.read b = x.read b
  inside : ∀ z ∈ l, ∀ b, z.offset ≤ b → b < z.offset + z.size → y.read b = (x.sweptAt f z).read b
  commands : (swept.1 = true ∨ ∃ z ∈ l, z.event = false ∧ x.read z.offset = 2) → flags.1 = true
  events : (swept.2 = true ∨ ∃ z ∈ l, z.event = true ∧ x.read z.offset = 2) → flags.2 = true

theorem SweepSlot.size_pos (x : SweepSlot) : 0 < x.size := by
  unfold SweepSlot.size
  split <;> omega

/-- One slot swept before slots that lie apart from it. -/
theorem Swept.cons {x y : Memory} (hx : x.wf = true) {f : FieldCount} {z : SweepSlot} {l : List SweepSlot}
    {swept next flags : Bool × Bool} (h : Swept (x.sweptAt f z) f l y next flags)
    (hz : ∀ w ∈ l, Apart z.offset z.size w.offset w.size)
    (hcommand : swept.1 = true ∨ z.event = false ∧ x.read z.offset = 2 → next.1 = true)
    (hevent : swept.2 = true ∨ z.event = true ∧ x.read z.offset = 2 → next.2 = true) :
    Swept x f (z :: l) y swept flags := by
  have hlater {w : SweepSlot} (hw : w ∈ l) {b : Nat} (h₁ : w.offset ≤ b) (h₂ : b < w.offset + w.size) :
      (x.sweptAt f z).read b = x.read b := by
    have ha := hz w hw
    unfold Apart at ha
    exact Memory.read_sweptAt_outside x f (by omega)
  have hstate {w : SweepSlot} (hw : w ∈ l) : (x.sweptAt f z).read w.offset = x.read w.offset :=
    hlater hw (Nat.le_refl _) (by have := w.size_pos; omega)
  refine ⟨h.wf, fun b hb => ?_, fun w hw b h₁ h₂ => ?_, fun hs => h.commands ?_, fun hs => h.events ?_⟩
  · obtain ⟨hbz, hbl⟩ := List.forall_mem_cons.mp hb
    rw [h.outside b hbl, Memory.read_sweptAt_outside x f hbz]
  · rcases List.mem_cons.mp hw with rfl | hw
    · refine h.outside b fun v hv => ?_
      have ha := hz v hv
      unfold Apart at ha
      omega
    · rw [h.inside w hw b h₁ h₂]
      unfold Memory.sweptAt
      rw [show (if x.read z.offset = 2 then x.storeAll (z.writes f) else x) = x.sweptAt f z from rfl, hstate hw]
      split
      · exact Memory.read_storeAll_congr (Memory.wf_sweptAt hx f z) hx (hlater hw h₁ h₂) _
      · exact hlater hw h₁ h₂
  · rcases hs with hs | ⟨w, hw, he, hr⟩
    · exact .inl (hcommand (.inl hs))
    · rcases List.mem_cons.mp hw with rfl | hw
      · exact .inl (hcommand (.inr ⟨he, hr⟩))
      · exact .inr ⟨w, hw, he, by rw [hstate hw]; exact hr⟩
  · rcases hs with hs | ⟨w, hw, he, hr⟩
    · exact .inl (hevent (.inl hs))
    · rcases List.mem_cons.mp hw with rfl | hw
      · exact .inl (hevent (.inr ⟨he, hr⟩))
      · exact .inr ⟨w, hw, he, by rw [hstate hw]; exact hr⟩

theorem byteAt_load_two (x : Memory) (a : Nat) : byteAt (x.load a 1) 0 = 2 ↔ x.read a = 2 := by
  rw [← BitVec.toNat_inj]
  rfl

/-- The sweep of slots below the limit that lie apart (R74). -/
theorem sweepAll_of_apart (l : List SweepSlot) (hl : l.Pairwise fun x y => Apart x.offset x.size y.offset y.size)
    (hb : ∀ x ∈ l, x.offset + x.size ≤ s.iface.limit) (hm : s.mem.wf = true) (swept : Bool × Bool) :
    ∃ flags y, s.sweepAll swept l = (flags, { s with mem := y }) ∧ Swept s.mem s.F l y swept flags := by
  induction l generalizing s swept with
  | nil =>
    exact ⟨swept, s.mem, rfl, hm, fun _ _ => rfl, fun _ h => absurd h List.not_mem_nil,
      fun h => h.elim id fun ⟨_, hz, _⟩ => absurd hz List.not_mem_nil,
      fun h => h.elim id fun ⟨_, hz, _⟩ => absurd hz List.not_mem_nil⟩
  | cons z l ih =>
    obtain ⟨hz, hl⟩ := List.pairwise_cons.mp hl
    obtain ⟨hbz, hbl⟩ := List.forall_mem_cons.mp hb
    have hsize := z.size_pos
    have hread : s.readMem z.offset 1 = (some (s.mem.load z.offset 1), s) := readMem_of_limit (by omega)
    have hst := byteAt_load_two s.mem z.offset
    unfold State.sweepAll
    rw [hread]
    dsimp only
    by_cases hr : s.mem.read z.offset = 2
    · have hwrite : s.writeAll (z.writes s.F) = (true, { s with mem := s.mem.storeAll (z.writes s.F) }) :=
        writeAll_of_limit fun w hw => by have := z.writes_inside s.F w hw; omega
      have hone : s.mem.sweptAt s.F z = s.mem.storeAll (z.writes s.F) := if_pos hr
      rw [if_pos (hst.mpr hr), hwrite]
      obtain ⟨flags, y, hy, hswept⟩ := ih (s := { s with mem := s.mem.storeAll (z.writes s.F) }) hl hbl
        (Memory.wf_storeAll hm _) (swept.1 || !z.event, swept.2 || z.event)
      refine ⟨flags, y, hy, Swept.cons hm (by rw [hone]; exact hswept) hz (fun h => ?_) fun h => ?_⟩
      · rcases h with h | ⟨h, -⟩ <;> simp [h]
      · rcases h with h | ⟨h, -⟩ <;> simp [h]
    · have hone : s.mem.sweptAt s.F z = s.mem := if_neg hr
      rw [if_neg (mt hst.mp hr)]
      obtain ⟨flags, y, hy, hswept⟩ := ih hl hbl hm swept
      exact ⟨flags, y, hy, Swept.cons hm (by rw [hone]; exact hswept) hz
        (fun h => h.elim id fun k => absurd k.2 hr) fun h => h.elim id fun k => absurd k.2 hr⟩

/-! ## The bytes of a slot after the sweep -/

section
variable {x y : Memory} {f : FieldCount} {l : List SweepSlot} {swept flags : Bool × Bool} {z : SweepSlot}

theorem Swept.load (h : Swept x f l y swept flags) (hz : z ∈ l) {a k : Nat} (h₁ : z.offset ≤ a)
    (h₂ : a + k ≤ z.offset + z.size) : y.load a k = (x.sweptAt f z).load a k :=
  Memory.load_congr fun b hb hb' => h.inside z hz b (by omega) (by omega)

theorem Swept.untaken (h : Swept x f l y swept flags) (hz : z ∈ l) (hr : x.read z.offset ≠ 2) :
    y.load z.offset z.size = x.load z.offset z.size := by
  rw [h.load hz (Nat.le_refl _) (Nat.le_refl _), Memory.sweptAt, if_neg hr]

theorem Swept.read_state (h : Swept x f l y swept flags) (hz : z ∈ l) :
    y.read z.offset = (x.sweptAt f z).read z.offset :=
  h.inside z hz _ (Nat.le_refl _) (by have := z.size_pos; omega)

theorem SweepSlot.writes_command (a : Nat) (f : FieldCount) : SweepSlot.writes ⟨a, false⟩ f =
    [(a + 4, [0, 0, 0x0A, 0] ++ halfOfField f), (a, [4])] := rfl

theorem SweepSlot.writes_event (a : Nat) (f : FieldCount) : SweepSlot.writes ⟨a, true⟩ f =
    [(a + 30, [0, 0x0A, 0, 0] ++ halfOfField f ++ List.replicate 28 0), (a, [4])] := by
  have hcode : byte FaultCode.restarted.num = 0x0A := rfl
  unfold SweepSlot.writes
  dsimp only
  rw [hcode, if_pos rfl]

/-- A command slot found TAKEN: RESTARTED, its completion field and FAULTED; its other fields stay (R74). -/
theorem Swept.command (h : Swept x f l y swept flags) (hx : x.wf = true) {a : Nat} (hz : ⟨a, false⟩ ∈ l)
    (hr : x.read a = 2) :
    y.read a = 4 ∧ y.load (a + 4) 6 = [0, 0, 0x0A, 0] ++ halfOfField f ∧ y.load (a + 1) 3 = x.load (a + 1) 3 := by
  have hone : x.sweptAt f ⟨a, false⟩ = (x.store (a + 4) ([0, 0, 0x0A, 0] ++ halfOfField f)).store a [4] := by
    rw [Memory.sweptAt, if_pos hr, SweepSlot.writes_command, Memory.storeAll_cons, Memory.storeAll_cons,
      Memory.storeAll_nil]
  have hstore := Memory.wf_store (a + 4) ([0, 0, 0x0A, 0] ++ halfOfField f) hx
  have hload (b k : Nat) (h₁ : a ≤ b) (h₂ : b + k ≤ a + 16) := h.load hz (a := b) (k := k) h₁ h₂
  refine ⟨?_, ?_, ?_⟩
  · rw [h.read_state hz, hone]
    exact Memory.read_store_one hstore a 4
  · rw [hload (a + 4) 6 (by omega) (by omega), hone, Memory.load_store_beside _ (.inr (by simp))]
    exact Memory.load_store_eq hx (by simp [halfOfField])
  · rw [hload (a + 1) 3 (by omega) (by omega), hone, Memory.load_store_beside _ (.inr (by simp)),
      Memory.load_store_beside _ (.inl (by omega))]

/-- An event slot found TAKEN: RESTARTED with its completion field, every other result byte 0, and FAULTED (R74). -/
theorem Swept.event (h : Swept x f l y swept flags) (hx : x.wf = true) {a : Nat} (hz : ⟨a, true⟩ ∈ l)
    (hr : x.read a = 2) :
    y.read a = 4 ∧ y.load (a + 30) 34 = [0, 0x0A, 0, 0] ++ halfOfField f ++ List.replicate 28 0 ∧
      y.load (a + 1) 29 = x.load (a + 1) 29 := by
  have hone : x.sweptAt f ⟨a, true⟩ =
      (x.store (a + 30) ([0, 0x0A, 0, 0] ++ halfOfField f ++ List.replicate 28 0)).store a [4] := by
    rw [Memory.sweptAt, if_pos hr, SweepSlot.writes_event, Memory.storeAll_cons, Memory.storeAll_cons,
      Memory.storeAll_nil]
  have hstore := Memory.wf_store (a + 30) ([0, 0x0A, 0, 0] ++ halfOfField f ++ List.replicate 28 0) hx
  have hload (b k : Nat) (h₁ : a ≤ b) (h₂ : b + k ≤ a + 64) := h.load hz (a := b) (k := k) h₁ h₂
  refine ⟨?_, ?_, ?_⟩
  · rw [h.read_state hz, hone]
    exact Memory.read_store_one hstore a 4
  · rw [hload (a + 30) 34 (by omega) (by omega), hone, Memory.load_store_beside _ (.inr (by simp))]
    exact Memory.load_store_eq hx (by simp [halfOfField])
  · rw [hload (a + 1) 29 (by omega) (by omega), hone, Memory.load_store_beside _ (.inr (by simp)),
      Memory.load_store_beside _ (.inl (by omega))]

/-- A slot not POSTED before the sweep is not POSTED after it. -/
theorem Swept.unposted (h : Swept x f l y swept flags) (hx : x.wf = true) (hz : z ∈ l) (hr : x.read z.offset ≠ 1) :
    y.read z.offset ≠ 1 := by
  by_cases ht : x.read z.offset = 2
  · have hfour : y.read z.offset = 4 := by
      obtain ⟨a, e⟩ := z
      cases e with
      | false => exact (h.command hx hz ht).1
      | true => exact (h.event hx hz ht).1
    rw [hfour]
    decide
  · rw [h.read_state hz, Memory.sweptAt, if_neg ht]
    exact hr

end

end Sys2Proof.Machine
end

section
/-!
PROOFS. The first acceptance: the sweep, and the scans and the take deferred until then (R59, R74, R115, R183).
-/

namespace Sys2Proof.Machine

variable {s t u v w : State} {n m : Deck} {d r : List Byte}

/-! ## Attention bits -/

theorem setAttention_false_bit (s : State) (g k : Nat) (hk : k < 13) :
    (s.setAttention g false).iface.attention.getLsbD k = (s.iface.attention.getLsbD k && decide (k ≠ g)) := by
  change (s.iface.attention &&& ~~~ (1#13 <<< g)).getLsbD k = _
  rw [BitVec.getLsbD_and, BitVec.getLsbD_not, BitVec.getLsbD_shiftLeft]
  by_cases h : k = g
  · subst h
    simp [hk]
  · by_cases hlt : k < g
    · simp [hk, h, hlt]
    · have hpos : k - g ≠ 0 := by omega
      simp [hk, h, hpos]

/-! ## The deferred scans -/

/-- What the deferred scans need and keep: nothing held, no ring with a POSTED slot next. -/
structure Unposted (z w : State) : Prop where
  mem : w.mem = z.mem
  engine : w.engine = z.engine
  limit : w.iface.limit = z.iface.limit
  bases : w.iface.bases = z.iface.bases
  configured : w.iface.configured = z.iface.configured
  attention : ∀ k < 13, w.iface.attention.getLsbD k = true → z.iface.attention.getLsbD k = true
  empty : ListsEmpty w
  nextSlot : ∀ m, (w.deck m).list.nextSlot = (z.deck m).list.nextSlot
  deferred : ∀ m, (w.deck m).list.deferred = true → (z.deck m).list.deferred = true
  cleared : ∀ m : Deck, (w.deck m).list.deferred = false → (z.deck m).list.deferred = true →
    w.iface.attention.getLsbD m.num = false

theorem Unposted.refl (h : ListsEmpty s) : Unposted s s :=
  ⟨rfl, rfl, rfl, rfl, rfl, fun _ _ => id, h, fun _ => rfl, fun _ => id, fun m h k => by rw [h] at k; cases k⟩

/-- A ring whose next slot is below the limit and not POSTED. -/
structure RingsEnd (z : State) : Prop where
  configured : z.iface.configured = true
  below : ∀ n, z.ringSlot n (z.deck n).list.nextSlot + 16 ≤ z.iface.limit
  unposted : ∀ n, z.mem.read (z.ringSlot n (z.deck n).list.nextSlot) ≠ 1

/-- Deck `n`'s deferred scan made, and its ring found empty. -/
def State.searched (s : State) (n : Deck) : State :=
  (s.setAttention n.num false).onList n fun l => { l with deferred := false, rescan := false, examine := false }

/-- A deferred scan that finds its slot not POSTED. -/
theorem deferredScan_of_end (hw : ListsEmpty w) (hc : w.iface.configured = true)
    (hl : w.ringSlot n (w.deck n).list.nextSlot + 16 ≤ w.iface.limit)
    (hm : w.mem.read (w.ringSlot n (w.deck n).list.nextSlot) ≠ 1) (hd : (w.deck n).list.deferred = true) :
    w.deferredScan n = w.searched n := by
  obtain ⟨hq, hr, hdown⟩ := hw n
  have ha := State.onList_deck_self w n fun l => { l with deferred := false, rescan := true }
  unfold State.deferredScan
  rw [if_pos hd]
  have hscan : (w.onList n fun l => { l with deferred := false, rescan := true }).scan n =
      (w.setAttention n.num false).onList n fun l => { l with deferred := false, rescan := false } := by
    rw [scan_of_end (by exact hc) (by rw [ha]; exact hl) (by rw [ha]; exact hm), onList_setAttention,
      State.onList_onList]
  have hrounds := serviceRounds_of_empty (n := n)
    (s := (w.setAttention n.num false).onList n fun l => { l with deferred := false, rescan := false })
    (by rw [State.onList_deck_self]; exact hq) (by rw [State.onList_deck_self]) 62
  rw [State.onList_onList] at hrounds
  refine Eq.trans ?_ hrounds
  rw [← hscan, State.service, ha, if_neg (by rw [hdown]; exact Bool.false_ne_true), State.serviceRounds]
  simp

theorem Deck.num_lt (n : Deck) : n.num < 13 := by
  cases n <;> decide

/-- One deferred scan made and found empty. -/
theorem Unposted.scanned {z : State} (h : Unposted z w) (n : Deck) :
    Unposted z (w.searched n) ∧ ((w.searched n).deck n).list.deferred = false ∧
      ∀ m, (w.deck m).list.deferred = false → ((w.searched n).deck m).list.deferred = false := by
  obtain ⟨x, hx⟩ : ∃ x, w.searched n = x := ⟨_, rfl⟩
  have hdef : x = (w.setAttention n.num false).onList n fun l =>
      { l with deferred := false, rescan := false, examine := false } := hx.symm
  rw [hx]
  have hself : x.deck n = { w.deck n with
      list := { (w.deck n).list with deferred := false, rescan := false, examine := false } } :=
    hdef ▸ State.onList_deck_self (w.setAttention n.num false) n _
  have hother {m : Deck} (hm : m ≠ n) : x.deck m = w.deck m :=
    hdef ▸ State.onList_deck_ne (w.setAttention n.num false) _ hm
  have hbit (k : Nat) (hk : k < 13) :
      x.iface.attention.getLsbD k = (w.iface.attention.getLsbD k && decide (k ≠ n.num)) :=
    hdef ▸ setAttention_false_bit w n.num k hk
  have hrest : x.mem = w.mem ∧ x.engine = w.engine ∧ x.iface.limit = w.iface.limit ∧ x.iface.bases = w.iface.bases ∧
      x.iface.configured = w.iface.configured := by
    rw [hdef]
    exact ⟨rfl, rfl, rfl, rfl, rfl⟩
  clear hdef hx
  obtain ⟨hmem, hengine, hlimit, hbases, hconf⟩ := hrest
  have hfalse : (x.deck n).list.deferred = false := by rw [hself]
  refine ⟨⟨hmem.trans h.mem, hengine.trans h.engine, hlimit.trans h.limit, hbases.trans h.bases,
    hconf.trans h.configured, fun k hk ha => ?_, fun m => ?_, fun m => ?_, fun m ha => ?_, fun m hx hm => ?_⟩, hfalse,
    fun m hm => ?_⟩
  · rw [hbit k hk, Bool.and_eq_true] at ha
    exact h.attention k hk ha.1
  · by_cases hm : m = n
    · subst hm
      rw [hself]
      exact ⟨(h.empty m).1, rfl, (h.empty m).2.2⟩
    · rw [hother hm]
      exact h.empty m
  · by_cases hm : m = n
    · subst hm
      rw [hself]
      exact h.nextSlot m
    · rw [hother hm]
      exact h.nextSlot m
  · by_cases hm : m = n
    · rw [hm, hfalse] at ha
      cases ha
    · rw [hother hm] at ha
      exact h.deferred m ha
  · rw [hbit _ (Deck.num_lt m)]
    by_cases hmn : m = n
    · simp [hmn]
    · rw [hother hmn] at hx
      rw [h.cleared m hx hm, Bool.false_and]
  · by_cases hmn : m = n
    · rw [hmn]
      exact hfalse
    · rw [hother hmn]
      exact hm

theorem Unposted.deferredScan {z : State} (hz : RingsEnd z) (h : Unposted z w) (n : Deck) :
    Unposted z (w.deferredScan n) ∧ ((w.deferredScan n).deck n).list.deferred = false ∧
      ∀ m, (w.deck m).list.deferred = false → ((w.deferredScan n).deck m).list.deferred = false := by
  cases hd : (w.deck n).list.deferred with
  | false =>
    have hsame : w.deferredScan n = w := if_neg (by rw [hd]; exact Bool.false_ne_true)
    rw [hsame]
    exact ⟨h, hd, fun _ => id⟩
  | true =>
    have hslot (k : Fin 16) : w.ringSlot n k = z.ringSlot n k := by rw [State.ringSlot, State.ringSlot, h.bases]
    rw [deferredScan_of_end h.empty (by rw [h.configured]; exact hz.configured)
      (by rw [h.nextSlot, hslot, h.limit]; exact hz.below n) (by rw [h.nextSlot, hslot, h.mem]; exact hz.unposted n) hd]
    exact h.scanned n

theorem Unposted.foldl {z : State} (hz : RingsEnd z) (l : List Deck) (h : Unposted z w) :
    Unposted z (l.foldl State.deferredScan w) ∧ ∀ m, (m ∈ l ∨ (w.deck m).list.deferred = false) →
      ((l.foldl State.deferredScan w).deck m).list.deferred = false := by
  induction l generalizing w with
  | nil => exact ⟨h, fun m hm => hm.resolve_left List.not_mem_nil⟩
  | cons n l ih =>
    obtain ⟨hscan, hn, hkept⟩ := h.deferredScan hz n
    obtain ⟨hrest, hall⟩ := ih hscan
    refine ⟨hrest, fun m hm => hall m ?_⟩
    rcases hm with hm | hm
    · rcases List.mem_cons.mp hm with rfl | hm
      · exact .inr hn
      · exact .inl hm
    · exact .inr (hkept m hm)

/-- The deferred scans made with nothing POSTED: no deck's scan stays deferred. -/
theorem deferredScans_of_end (hz : RingsEnd s) (he : ListsEmpty s) :
    Unposted s (s.eachDeck fun n s => s.deferredScan n) ∧
      ∀ m, ((s.eachDeck fun n s => s.deferredScan n).deck m).list.deferred = false := by
  obtain ⟨h, hall⟩ := (Unposted.refl he).foldl hz Deck.list
  exact ⟨h, fun m => hall m (.inl (Deck.mem_list m))⟩

/-! ## The deferred groups -/

/-- What the deferred groups leave when they find nothing POSTED. -/
structure DeferredMade (z x : State) : Prop where
  mem : x.mem = z.mem
  empty : ListsEmpty x
  takenSlot : x.engine.takenSlot = z.engine.takenSlot
  scans : ∀ m, (x.deck m).list.deferred = false
  cleared : ∀ m : Deck, (z.deck m).list.deferred = true → x.iface.attention.getLsbD m.num = false
  take : x.engine.deferred = false
  released : z.engine.deferred = true → x.iface.attention.getLsbD 6 = false ∧ x.engine.state = .idle

/-- The next event slot is below the limit and not POSTED. -/
structure ListEnd (z : State) : Prop where
  below : z.eventSlot z.engine.nextEvent + 1 ≤ z.iface.limit
  unposted : z.mem.read (z.eventSlot z.engine.nextEvent) ≠ 1

/-- The engine's deferred take made, and the edit list found empty (R115). -/
def State.takeMade (w : State) : State := (w.onEngine fun e => { e with deferred := false }).released

theorem deferredTake_of_end {z : State} (hl : ListEnd z) (hr : z.engine.state.atRest = true) (hw : Unposted z w) :
    (w.onEngine fun e => { e with deferred := false }).attendTake = w.takeMade := by
  have hslot (i : Fin 64) : w.eventSlot i = z.eventSlot i := by rw [State.eventSlot, State.eventSlot, hw.bases]
  rw [attendTake_of_rest (by change w.engine.state.atRest = true; rw [hw.engine]; exact hr)]
  refine take_of_unposted ?_ ?_
  · change w.eventSlot w.engine.nextEvent + 1 ≤ w.iface.limit
    rw [hslot, hw.engine, hw.limit]
    exact hl.below
  · change w.mem.read (w.eventSlot w.engine.nextEvent) ≠ 1
    rw [hslot, hw.engine, hw.mem]
    exact hl.unposted

/-- The engine's take, when it was deferred. -/
def State.takeTried (w : State) : State := if w.engine.deferred = true then w.takeMade else w

theorem takeMade_bit (w : State) {k : Nat} (hk : k < 13) :
    w.takeMade.iface.attention.getLsbD k = (w.iface.attention.getLsbD k && decide (k ≠ 6)) :=
  setAttention_false_bit w 6 k hk

theorem takeTried_bit {k : Nat} (hk : k < 13) (h : w.iface.attention.getLsbD k = false) :
    w.takeTried.iface.attention.getLsbD k = false := by
  unfold State.takeTried
  split
  · rw [takeMade_bit w hk, h, Bool.false_and]
  · exact h

theorem Unposted.made {z : State} (h : Unposted z w) (hall : ∀ m, (w.deck m).list.deferred = false) :
    DeferredMade z w.takeTried := by
  have hcleared (m : Deck) (hm : (z.deck m).list.deferred = true) :
      w.takeTried.iface.attention.getLsbD m.num = false :=
    takeTried_bit (Deck.num_lt m) (h.cleared m (hall m) hm)
  cases hd : w.engine.deferred with
  | false =>
    have hsame : w.takeTried = w := if_neg (by rw [hd]; exact Bool.false_ne_true)
    rw [hsame] at hcleared ⊢
    exact ⟨h.mem, h.empty, congrArg Engine.takenSlot h.engine, hall, hcleared, hd,
      fun hz => by rw [← h.engine, hd] at hz; cases hz⟩
  | true =>
    have hmade : w.takeTried = w.takeMade := if_pos hd
    rw [hmade] at hcleared ⊢
    have hslot : w.takeMade.engine.takenSlot = w.engine.takenSlot := rfl
    exact ⟨h.mem, h.empty, hslot.trans (congrArg Engine.takenSlot h.engine), hall, hcleared, rfl, fun _ =>
      ⟨by rw [takeMade_bit w (by decide)]; simp, rfl⟩⟩

theorem deferredGroups_of_end {z : State} (hz : RingsEnd z) (he : ListsEmpty z) (hl : ListEnd z)
    (hr : z.engine.state.atRest = true) (h9 : z.iface.attention.getLsbD 9 = false)
    (h12 : z.iface.attention.getLsbD 12 = false) : DeferredMade z z.deferredGroups := by
  obtain ⟨hw, hall⟩ := deferredScans_of_end hz he
  unfold State.deferredGroups
  extract_lets scanned taken loaded
  have htaken : taken = scanned.takeTried := by
    unfold taken
    rw [deferredTake_of_end hl hr hw]
    rfl
  have hbit {k : Nat} (hk : k < 13) (h : z.iface.attention.getLsbD k = false) :
      taken.iface.attention.getLsbD k = false := by
    rw [htaken]
    refine takeTried_bit hk ?_
    cases hb : scanned.iface.attention.getLsbD k with
    | false => rfl
    | true => rw [hw.attention k hk hb] at h; cases h
  have hloaded : loaded = taken := if_neg (by rw [hbit (by decide) h9]; exact Bool.false_ne_true)
  rw [hloaded, if_neg (by rw [hbit (by decide) h12]; exact Bool.false_ne_true), htaken]
  exact hw.made hall

end Sys2Proof.Machine
end

section
/-!
PROOFS. The first acceptance (R74): every slot found TAKEN ended, every other slot as it was.
-/

namespace Sys2Proof.Machine

variable {s t u v w : State} {n m : Deck} {d r : List Byte}

/-- What the sweep leaves: memory as swept, its causes raised, and all else as it was. -/
structure SweepMade (y z : State) : Prop where
  swept : ∃ flags, Swept y.mem y.F (sweepSlots y.iface.bases) z.mem (false, false) flags ∧
    (flags.1 = true → z.iface.pending.get .deckFault = true) ∧
    (flags.2 = true → z.iface.pending.get .editFault = true)
  decks : ∀ n, z.deck n = y.deck n
  engine : z.engine = y.engine
  attention : z.iface.attention = y.iface.attention
  limit : z.iface.limit = y.iface.limit
  bases : z.iface.bases = y.iface.bases
  configured : z.iface.configured = y.iface.configured

/-- The causes of a sweep raised. -/
def State.raiseSwept (s : State) (flags : Bool × Bool) : State :=
  if flags.2 = true then (if flags.1 = true then s.raise .deckFault else s).raise .editFault
  else if flags.1 = true then s.raise .deckFault else s

theorem raiseSwept_kept (s : State) (flags : Bool × Bool) :
    (s.raiseSwept flags).mem = s.mem ∧ (∀ n, (s.raiseSwept flags).deck n = s.deck n) ∧
      (s.raiseSwept flags).engine = s.engine ∧ (s.raiseSwept flags).iface.attention = s.iface.attention ∧
      (s.raiseSwept flags).iface.limit = s.iface.limit ∧ (s.raiseSwept flags).iface.bases = s.iface.bases ∧
      (s.raiseSwept flags).iface.configured = s.iface.configured := by
  unfold State.raiseSwept
  split <;> split <;> exact ⟨rfl, fun _ => rfl, rfl, rfl, rfl, rfl, rfl⟩

theorem raiseSwept_pending (s : State) (flags : Bool × Bool) :
    (flags.1 = true → (s.raiseSwept flags).iface.pending.get .deckFault = true) ∧
      (flags.2 = true → (s.raiseSwept flags).iface.pending.get .editFault = true) := by
  unfold State.raiseSwept
  refine ⟨fun h => ?_, fun h => ?_⟩
  · rw [if_pos h]
    split
    · exact ((Calm.refl (s.raise .deckFault)).raise .editFault).causes _ (by simp [State.raise])
    · simp [State.raise]
  · rw [if_pos h]
    simp [State.raise]

theorem sweep_of_regions {y : State} (h : SweepRegions d y.iface.limit) (hb : y.iface.bases = readBases d)
    (hm : y.mem.wf = true) : SweepMade y y.sweep := by
  obtain ⟨flags, x, hall, hswept⟩ := sweepAll_of_apart (s := y) (sweepSlots y.iface.bases)
    (by rw [hb]; exact h.slots_apart) (fun x hx => h.slots_below (by rw [← hb]; exact hx)) hm (false, false)
  have hsweep : y.sweep = State.raiseSwept { y with mem := x } flags := by
    unfold State.sweep State.raiseSwept
    rw [hall]
  obtain ⟨hmem, hdecks, hengine, hatt, hlimit, hbases, hconf⟩ := raiseSwept_kept { y with mem := x } flags
  rw [hsweep]
  exact ⟨⟨flags, by rw [hmem]; exact hswept, raiseSwept_pending _ flags⟩, hdecks, hengine, hatt, hlimit, hbases, hconf⟩

/-! ## What the acceptance wrote before the sweep -/

section
variable {base : Nat} {y : State} (h : Written s d base y)
include h

theorem Written.wf (hm : s.mem.wf = true) : y.mem.wf = true := by
  rw [h.mem]
  refine Memory.wf_store _ _ (Memory.wf_store _ _ ?_)
  unfold Memory.withLogHeader
  split
  · exact hm
  · exact Memory.wf_store _ _ hm

/-- Beside the later regions suite memory is as it was. -/
theorem Written.read_beside (hbase : base = 16 * halfAt d 0x12) {b : Nat}
    (hb : ∀ x ∈ laterRegions d, b < x.start ∨ x.start + x.size ≤ b) : y.mem.read b = s.mem.read b := by
  have hconfig := hb ⟨0x12, 16 * halfAt d 0x12, 256⟩ (by simp [laterRegions])
  dsimp only at hconfig
  rw [h.mem, Memory.read_store_outside _ _ _ (by simp only [List.length_cons, List.length_nil]; omega),
    Memory.read_store_outside _ _ _ (by simp only [List.length_cons, List.length_nil]; omega)]
  unfold Memory.withLogHeader
  split
  · rfl
  · next hc =>
    have hcount : halfAt d 0x16 ≠ 0 := fun k => hc (.inr k)
    have hlog := hb ⟨0x10, 16 * halfAt d 0x10, 16 + 16 * halfAt d 0x16⟩ (by simp [laterRegions, hcount])
    dsimp only at hlog
    exact Memory.read_store_outside _ _ _ (by simp only [newLogHeader, List.length_replicate]; omega)

theorem Written.read_slot (hbase : base = 16 * halfAt d 0x12) {limit : Nat} (hr : SweepRegions d limit)
    {x : SweepSlot} (hx : x ∈ sweepSlots (readBases d)) {b : Nat} (h₁ : x.offset ≤ b) (h₂ : b < x.offset + x.size) :
    y.mem.read b = s.mem.read b := h.read_beside hbase fun z hz => by
  have ha := hr.slots_later hx hz
  unfold Apart at ha
  omega

theorem Written.read_state (hbase : base = 16 * halfAt d 0x12) {limit : Nat} (hr : SweepRegions d limit)
    {x : SweepSlot} (hx : x ∈ sweepSlots (readBases d)) : y.mem.read x.offset = s.mem.read x.offset :=
  h.read_slot hbase hr hx (Nat.le_refl _) (Nat.lt_add_of_pos_right x.size_pos)

theorem Written.load_slot (hbase : base = 16 * halfAt d 0x12) {limit : Nat} (hr : SweepRegions d limit)
    {x : SweepSlot} (hx : x ∈ sweepSlots (readBases d)) {a k : Nat} (h₁ : x.offset ≤ a)
    (h₂ : a + k ≤ x.offset + x.size) : y.mem.load a k = s.mem.load a k :=
  Memory.load_congr fun b hb hb' => h.read_slot hbase hr hx (by omega) (by omega)

theorem Written.result (hm : s.mem.wf = true) :
    y.mem.read (base + 8) = 0x40 ∧ y.mem.load (base + 10) 2 = [0, 0] := by
  have hheader : (s.mem.withLogHeader s.log d).wf = true := by
    unfold Memory.withLogHeader
    split
    · exact hm
    · exact Memory.wf_store _ _ hm
  rw [h.mem]
  refine ⟨?_, Memory.load_store_eq (Memory.wf_store _ _ hheader) rfl⟩
  rw [Memory.read_store_outside _ _ _ (by simp), Memory.read_store_one hheader]

end

/-! ## The first acceptance, step by step -/

theorem loaded_first (hc : s.iface.configured = false) (d r : List Byte) (base : Nat) :
    s.loaded d r base = ((s.accepted d r base).sweep.deferredGroups.raise .config).settleDecks := by
  rw [State.loaded, acceptConfig_eq, hc]
  rfl

theorem Written.uptake {base : Nat} {y : State} (h : Written s d base y) :
    y.engine.state = s.engine.state ∧ y.engine.takenSlot = s.engine.takenSlot ∧
      y.engine.nextEvent = s.engine.nextEvent ∧ y.engine.deferred = s.engine.deferred := by
  have he := h.engine
  simp only [Engine.uptake, Prod.mk.injEq] at he
  exact he

theorem Written.list {base : Nat} {y : State} (h : Written s d base y) (n : Deck) :
    (y.deck n).list.nextSlot = (s.deck n).list.nextSlot ∧ (y.deck n).list.deferred = (s.deck n).list.deferred := by
  have hn := h.lists n
  simp only [DeckUnit.holding, Prod.mk.injEq] at hn
  obtain ⟨-, -, hnext, hdeferred, -⟩ := hn
  exact ⟨hnext, hdeferred⟩

theorem Timeline.configure_F (x : Timeline) (std : Standard) (mode : RefMode) : (x.configure std mode).F = x.F := by
  unfold Timeline.configure
  split
  · rfl
  · split <;> rfl

section
variable {base : Nat} {y z : State} (h : Written s d base y) (hbase : base = 16 * halfAt d 0x12)
  (hreg : SweepRegions d s.iface.limit) (hb : y.iface.bases = readBases d) (hl : y.iface.limit = s.iface.limit)
  (hm : s.mem.wf = true) (hz : SweepMade y z)
include h hbase hreg hb hl hm hz

/-- After the sweep no ring has a POSTED slot next. -/
theorem ringsEnd_of_sweep (hconf : y.iface.configured = true)
    (hn : ∀ n, s.mem.read (16 * halfAt d (2 * n.num) + 16 * (s.deck n).list.nextSlot.val) ≠ 1) : RingsEnd z := by
  obtain ⟨flags, hswept, -⟩ := hz.swept
  rw [hb] at hswept
  have hslot (n : Deck) : z.ringSlot n (z.deck n).list.nextSlot =
      (ringSlotAt (readBases d) n (s.deck n).list.nextSlot.val).offset := by
    rw [State.ringSlot, hz.bases, hb, hz.decks, (h.list n).1]
    rfl
  have hoffset (n : Deck) (i : Nat) : (ringSlotAt (readBases d) n i).offset = 16 * halfAt d (2 * n.num) + 16 * i := by
    have hget : (readBases d).deck.get n = halfAt d (2 * n.num) := Six.get_of _ n
    simp only [ringSlotAt, hget]
  refine ⟨hz.configured.trans hconf, fun n => ?_, fun n => ?_⟩
  · rw [hslot, hoffset, hz.limit, hl]
    have := hreg.ringBelow n
    omega
  · rw [hslot]
    have hmem := ringSlotAt_mem (readBases d) n (s.deck n).list.nextSlot
    refine hswept.unposted (h.wf hm) hmem ?_
    rw [h.read_state hbase hreg hmem, hoffset]
    exact hn n

/-- After the sweep the edit list has no POSTED slot next. -/
theorem listEnd_of_sweep (hn : s.mem.read (16 * halfAt d 0x0C + 64 * s.engine.nextEvent.val) ≠ 1) : ListEnd z := by
  obtain ⟨flags, hswept, -⟩ := hz.swept
  rw [hb] at hswept
  obtain ⟨-, -, hnext, -⟩ := h.uptake
  have hslot : z.eventSlot z.engine.nextEvent = (editSlotAt (readBases d) s.engine.nextEvent.val).offset := by
    rw [State.eventSlot, hz.bases, hb, hz.engine, hnext]
    rfl
  have hoffset : (editSlotAt (readBases d) s.engine.nextEvent.val).offset =
      16 * halfAt d 0x0C + 64 * s.engine.nextEvent.val := rfl
  refine ⟨?_, ?_⟩
  · rw [hslot, hoffset, hz.limit, hl]
    have := hreg.editBelow
    omega
  · rw [hslot]
    have hmem := editSlotAt_mem (readBases d) s.engine.nextEvent
    refine hswept.unposted (h.wf hm) hmem ?_
    rw [h.read_state hbase hreg hmem, hoffset]
    exact hn

end

/-- The outcome of a first acceptance. -/
structure FirstLoaded (s : State) (d : List Byte) (base : Nat) (t : State) : Prop where
  swept : ∃ y flags, Written s d base y ∧ Swept y.mem s.F (sweepSlots (readBases d)) t.mem (false, false) flags ∧
    (flags.1 = true → t.iface.pending.get .deckFault = true) ∧
    (flags.2 = true → t.iface.pending.get .editFault = true)
  scans : ∀ n : Deck, (t.deck n).list.deferred = false ∧
    ((s.deck n).list.deferred = true → t.iface.attention.getLsbD n.num = false)
  take : t.engine.deferred = false ∧
    (s.engine.deferred = true → t.iface.attention.getLsbD 6 = false ∧ t.engine.state = .idle)

theorem firstLoaded_of_sweep {base : Nat} {y z : State} (h : Written s d base y) (hf : y.F = s.F)
    (hb : y.iface.bases = readBases d) (hz : SweepMade y z) (ht : s.engine.takenSlot = none)
    (hx : DeferredMade z z.deferredGroups) :
    FirstLoaded s d base (z.deferredGroups.raise .config).settleDecks := by
  obtain ⟨flags, hswept, hcommand, hevent⟩ := hz.swept
  obtain ⟨hstate, hslot, -, hdeferred⟩ := h.uptake
  have hcalm : Calm z z.deferredGroups := (Calm.refl z).deferredGroups
  have hlast := ((Calm.refl z.deferredGroups).raise .config).settleDecks
  have htaken : z.deferredGroups.engine.takenSlot = none := by rw [hx.takenSlot, hz.engine, hslot, ht]
  obtain ⟨hstirred, -⟩ := settleDecks_raised hx.empty htaken
  have hbare := bare_of_empty hx.empty htaken
  generalize z.deferredGroups = x at hx hcalm hlast htaken hstirred hbare ⊢
  generalize (x.raise .config).settleDecks = t at hlast hstirred
  have huptake := hstirred.engine
  simp only [Engine.uptake, Prod.mk.injEq] at huptake
  obtain ⟨hstate', -, -, hdeferred'⟩ := huptake
  refine ⟨⟨y, flags, h, ?_, fun k => hlast.causes _ (hcalm.causes _ (hcommand k)),
    fun k => hlast.causes _ (hcalm.causes _ (hevent k))⟩, fun n => ⟨?_, fun hn => ?_⟩, ?_, fun hd => ?_⟩
  · rw [hstirred.mem hbare, hx.mem, ← hb, ← hf]
    exact hswept
  · have hn := hstirred.lists hbare n
    simp only [DeckUnit.holding, Prod.mk.injEq] at hn
    rw [hn.2.2.2.1]
    exact hx.scans n
  · rw [hstirred.attention]
    exact hx.cleared n (by rw [hz.decks, (h.list n).2]; exact hn)
  · rw [hdeferred']
    exact hx.take
  · obtain ⟨hbit, hidle⟩ := hx.released (by rw [hz.engine, hdeferred]; exact hd)
    rw [hstirred.attention, hstate']
    exact ⟨hbit, hidle⟩

theorem firstLoaded (hr : s.engine.state.atRest = true) (hc : s.iface.configured = false)
    (ht : s.engine.takenSlot = none) (he : ListsEmpty s) (hm : s.mem.wf = true)
    (hf : configFailure d r (16 * halfAt d 0x12) s.iface.limit = none)
    (hb : 16 * halfAt d 0x12 + 256 ≤ s.iface.limit) (h9 : s.iface.attention.getLsbD 9 = false)
    (h12 : s.iface.attention.getLsbD 12 = false)
    (hring : ∀ n, s.mem.read (16 * halfAt d (2 * n.num) + 16 * (s.deck n).list.nextSlot.val) ≠ 1)
    (hlist : s.mem.read (16 * halfAt d 0x0C + 64 * s.engine.nextEvent.val) ≠ 1) :
    FirstLoaded s d (16 * halfAt d 0x12) (s.loaded d r (16 * halfAt d 0x12)) := by
  have hreg := sweepRegions_of_accepted hf
  have hw := accepted_written hr (bare_of_empty he ht) (log_inBounds (regions_of_accepted hf).1) hb r
  have hheld := accepted_held hr d r (16 * halfAt d 0x12)
  have hconf := accepted_configured s d r (16 * halfAt d 0x12)
  rw [loaded_first hc]
  generalize s.accepted d r (16 * halfAt d 0x12) = y at hw hheld hconf
  have hl : y.iface.limit = s.iface.limit := by simp [Interface.limit, hheld.topmem]
  have hF : y.F = s.F := (congrArg Timeline.F hheld.timeline).trans (Timeline.configure_F _ _ _)
  have hz := sweep_of_regions (by rw [hl]; exact hreg) hheld.bases (hw.wf hm)
  obtain ⟨hstate, -, -, -⟩ := hw.uptake
  have hempty : ListsEmpty y.sweep := fun n => by rw [hz.decks]; exact hw.listsEmpty he n
  exact firstLoaded_of_sweep hw hF hheld.bases hz ht (deferredGroups_of_end
    (ringsEnd_of_sweep hw rfl hreg hheld.bases hl hm hz hconf hring) hempty
    (listEnd_of_sweep hw rfl hreg hheld.bases hl hm hz hlist) (by rw [hz.engine, hstate]; exact hr)
    (by rw [hz.attention, hw.attention]; exact h9) (by rw [hz.attention, hw.attention]; exact h12))

/-! ## The memory after a first acceptance -/

section
variable {y : State} {x : Memory} {f : FieldCount} {flags : Bool × Bool} {limit : Nat}
  (h : Written s d (16 * halfAt d 0x12) y) (hs : Swept y.mem f (sweepSlots (readBases d)) x (false, false) flags)
  (hreg : SweepRegions d limit) (hm : s.mem.wf = true)
include h hs hreg hm

theorem result_after_sweep :
    x.read (16 * halfAt d 0x12 + 8) = 0x40 ∧ x.load (16 * halfAt d 0x12 + 10) 2 = [0, 0] := by
  have houtside {b : Nat} (h₁ : 16 * halfAt d 0x12 ≤ b) (h₂ : b < 16 * halfAt d 0x12 + 256) :
      x.read b = y.mem.read b := hs.outside b fun z hz => by
    have ha := hreg.slots_later hz (y := ⟨0x12, 16 * halfAt d 0x12, 256⟩) (by simp [laterRegions])
    simp only [Apart] at ha
    omega
  obtain ⟨hcode, hoffset⟩ := h.result hm
  refine ⟨(houtside (by omega) (by omega)).trans hcode, ?_⟩
  rw [← hoffset]
  exact Memory.load_congr fun b hb hb' => houtside (by omega) (by omega)

theorem ring_after_sweep (n : Deck) (i : Fin 16) {a : Nat} (ha : a = 16 * halfAt d (2 * n.num) + 16 * i.val) :
    (s.mem.read a = 2 → x.read a = 4 ∧ x.load (a + 4) 6 = [0, 0, 0x0A, 0] ++ halfOfField f ∧
      x.load (a + 1) 3 = s.mem.load (a + 1) 3 ∧ flags.1 = true) ∧
    (s.mem.read a ≠ 2 → x.load a 16 = s.mem.load a 16) := by
  have hn : (readBases d).deck.get n = halfAt d (2 * n.num) := Six.get_of _ n
  have hz : ⟨a, false⟩ ∈ sweepSlots (readBases d) := by
    have hmem := ringSlotAt_mem (readBases d) n i
    rwa [ringSlotAt, hn, ← ha] at hmem
  have hstate : y.mem.read a = s.mem.read a := h.read_state rfl hreg hz
  refine ⟨fun ht => ?_, fun ht => ?_⟩
  · obtain ⟨hfaulted, hfields, hkept⟩ := hs.command (h.wf hm) hz (hstate.trans ht)
    have hload : y.mem.load (a + 1) 3 = s.mem.load (a + 1) 3 :=
      h.load_slot rfl hreg hz (Nat.le_add_right a 1)
        (by simp only [SweepSlot.size, Bool.false_eq_true, if_false]; omega)
    exact ⟨hfaulted, hfields, hkept.trans hload, hs.commands (.inr ⟨_, hz, rfl, hstate.trans ht⟩)⟩
  · have hload : y.mem.load a 16 = s.mem.load a 16 := h.load_slot rfl hreg hz (Nat.le_refl a) (Nat.le_refl _)
    exact (hs.untaken hz (by rw [hstate]; exact ht)).trans hload

theorem editList_after_sweep (i : Fin 64) {a : Nat} (ha : a = 16 * halfAt d 0x0C + 64 * i.val) :
    (s.mem.read a = 2 → x.read a = 4 ∧
      x.load (a + 30) 34 = [0, 0x0A, 0, 0] ++ halfOfField f ++ List.replicate 28 0 ∧
      x.load (a + 1) 29 = s.mem.load (a + 1) 29 ∧ flags.2 = true) ∧
    (s.mem.read a ≠ 2 → x.load a 64 = s.mem.load a 64) := by
  have hz : ⟨a, true⟩ ∈ sweepSlots (readBases d) := by
    have hmem := editSlotAt_mem (readBases d) i
    have hslot : editSlotAt (readBases d) i.val = ⟨16 * halfAt d 0x0C + 64 * i.val, true⟩ := rfl
    rwa [hslot, ← ha] at hmem
  have hstate : y.mem.read a = s.mem.read a := h.read_state rfl hreg hz
  refine ⟨fun ht => ?_, fun ht => ?_⟩
  · obtain ⟨hfaulted, hfields, hkept⟩ := hs.event (h.wf hm) hz (hstate.trans ht)
    have hload : y.mem.load (a + 1) 29 = s.mem.load (a + 1) 29 :=
      h.load_slot rfl hreg hz (Nat.le_add_right a 1) (by simp only [SweepSlot.size, if_true]; omega)
    exact ⟨hfaulted, hfields, hkept.trans hload, hs.events (.inr ⟨_, hz, rfl, hstate.trans ht⟩)⟩
  · have hload : y.mem.load a 64 = s.mem.load a 64 := h.load_slot rfl hreg hz (Nat.le_refl a) (Nat.le_refl _)
    exact (hs.untaken hz (by rw [hstate]; exact ht)).trans hload

end

/-- Settles O18. -/
theorem firstAcceptanceSweeps : Obligations.FirstAcceptanceSweeps := by
  intro s d r hs hm h₀ hd hb hr hst hp hf hc ht hq h9 h12 hring hlist
  have hexec := exec_attnConfigLoad_accepted hs h₀ hd hb hr hst hp hf
  have he : ListsEmpty (s.setAttention 10 false) := fun n => ⟨(hq n).1, (hq n).2, hs.downDue n⟩
  have h := firstLoaded (s := s.setAttention 10 false) (r := r) hst hc ht he hm hf hb
    (by rw [setAttention_false_bit s 10 9 (by decide), h9, Bool.false_and])
    (by rw [setAttention_false_bit s 10 12 (by decide), h12, Bool.false_and]) hring hlist
  obtain ⟨-, hconf, -⟩ := loaded_held (s := s.setAttention 10 false) hst d r (16 * halfAt d 0x12)
  generalize (s.setAttention 10 false).loaded d r (16 * halfAt d 0x12) = t at hexec h hconf
  obtain ⟨⟨y, flags, hw, hswept, hcommand, hevent⟩, hscans, htake, hreleased⟩ := h
  have hreg := sweepRegions_of_accepted hf
  obtain ⟨hcode, hoffset⟩ := result_after_sweep hw hswept hreg hm
  refine ⟨t, hexec, hconf, hcode, hoffset, fun n i a ha => ?_, fun i a ha => ?_, hscans, htake, hreleased⟩
  · obtain ⟨htaken, huntaken⟩ := ring_after_sweep hw hswept hreg hm n i ha
    refine ⟨fun h2 => ?_, huntaken⟩
    obtain ⟨hfaulted, hfields, hkept, hflag⟩ := htaken h2
    exact ⟨hfaulted, hfields, hkept, hcommand hflag⟩
  · obtain ⟨htaken, huntaken⟩ := editList_after_sweep hw hswept hreg hm i ha
    refine ⟨fun h2 => ?_, huntaken⟩
    obtain ⟨hfaulted, hfields, hkept, hflag⟩ := htaken h2
    exact ⟨hfaulted, hfields, hkept, hevent hflag⟩

end Sys2Proof.Machine
end
